-- ==== Sys2Proof/Word.lean ====
section
/-! DEFINITION. The word types of the module: 64-bit words, bytes, and the addresses of 01/11. -/

namespace Sys2Proof

/-- A 64-bit word: a general register (R99) or a 64-bit device register (R11). -/
abbrev Word := BitVec 64

/-- A byte; multi-byte values are little-endian (R6). -/
abbrev Byte := BitVec 8

/-- A general register number, vector register number or 5-bit field of an instruction (R101). -/
abbrev Reg := BitVec 5

end Sys2Proof
end

