-- ==== Sys2Proof/Syntax.lean ====
section
/-! DEFINITION. The commands of the module: one constructor per row of the operation table, with its operands. -/

namespace Sys2Proof

/-- The fields of a form M instruction (R101, R106). -/
structure MemOp where
  rd : Reg
  rb : Reg
  mode : BitVec 2
  size : BitVec 2
  hint : BitVec 2
  disp : BitVec 10
  deriving DecidableEq, Repr

/-- The fields of forms VA and VX (R157); `scalar` is 1 for form VX. -/
structure VecOp where
  scalar : BitVec 1
  vd : Reg
  vs1 : Reg
  src2 : Reg
  ty : BitVec 3
  m : BitVec 1
  deriving DecidableEq, Repr

/-- The fields of form VM (R157, R169, R260). -/
structure VMemOp where
  v : Reg
  rb : Reg
  x : Reg
  size : BitVec 2
  m : BitVec 1
  mode : BitVec 2
  ix : BitVec 1
  sc : BitVec 1
  hint : BitVec 2
  deriving DecidableEq, Repr

/-- The fields of VCVT (R165). -/
structure CvtOp where
  vd : Reg
  vs1 : Reg
  vs2 : Reg
  src : BitVec 4
  dst : BitVec 4
  deriving DecidableEq, Repr

/-- The fields of TMMA (R190), each as its bits stand in the words. -/
structure TmmaOp where
  m : BitVec 5
  n : BitVec 5
  k : BitVec 7
  fa : BitVec 4
  acc : BitVec 1
  fw : BitVec 4
  acct : BitVec 2
  wt : BitVec 3
  t3 : BitVec 3
  t2 : BitVec 3
  t1 : BitVec 3
  t0 : BitVec 3
  amask : BitVec 4
  deriving DecidableEq, Repr

/-- The fields of TLD, TST and TLDS (R197), each as its bits stand in the words. -/
structure TileMemOp where
  rb : Reg
  rs : Reg
  tile : BitVec 4
  arr : BitVec 2
  tr : BitVec 1
  fmt : BitVec 4
  rows : BitVec 5
  cols : BitVec 7
  hint : BitVec 2
  deriving DecidableEq, Repr

/-- The fields of TACCV, TACCT and TACCS (R204), each as its bits stand in the words. -/
structure TileMoveOp where
  rb : Reg
  rs : Reg
  arr : BitVec 2
  acct : BitVec 2
  fmt : BitVec 4
  rows : BitVec 5
  gs : Reg
  dtile : BitVec 4
  darr : BitVec 2
  hint : BitVec 2
  red : BitVec 1
  deriving DecidableEq, Repr

/-- What an exception entry is taken for: a fault or system call an instruction has raised, the words
fetched at PC when they are no instruction (R101), or a fault of the fetch at PC itself, or of
the second word of a tile instruction there. -/
inductive EntrySource where
  | raised
  | words (w0 w1 : BitVec 32)
  | fetch (second : Bool)
  deriving DecidableEq, Repr

/-- A command: one row of the operation table, with its operands. -/
inductive Instr where
  /-- SQ_DB (R41) -/
  | sqDb (r : Nat) (value : BitVec 32)
  /-- CQ_DB (R42) -/
  | cqDb (r : Nat) (value : BitVec 32)
  /-- RING_ENABLE (R46) -/
  | ringEnable (r : Nat) (ctrl : BitVec 32)
  /-- RING_DISABLE (R47) -/
  | ringDisable (r : Nat) (ctrl : BitVec 32)
  /-- QUIESCED (R47) -/
  | quiesced (r : Nat)
  /-- ROOT_IFREV_WRITE (R32) -/
  | rootIfrevWrite (value : BitVec 32)
  /-- DESCRIPTOR_FETCH (R56) -/
  | descriptorFetch (slots : List (List Byte))
  /-- DESCRIPTOR_READ_FAILURE (R69) -/
  | descriptorReadFailure
  /-- MODTIMER_EXPIRY (R58) -/
  | modtimerExpiry (r : Nat)
  /-- NOOP (R50) -/
  | noop (p : Nat)
  /-- COPY (R52) -/
  | copy (p : Nat)
  /-- COPY_COMPLETE (R52) -/
  | copyComplete (p : Nat)
  /-- TOKEN_SET (R86) -/
  | tokenSet (p : Nat)
  /-- TOKEN_CLEAR (R86) -/
  | tokenClear (p : Nat)
  /-- ABORT (R60) -/
  | abort (p : Nat)
  /-- ABORT_COMPLETE (R63) -/
  | abortComplete (p : Nat)
  /-- STOP_REQUEST (R64) -/
  | stopRequest (t : Nat)
  /-- THREAD_STOPPED (R211) -/
  | threadStopped (t : Nat)
  /-- STASH_AND_HAZE_CONFIGURATION (R324) -/
  | stashAndHazeConfiguration (p : Nat)
  /-- WEIR_TABLE_WRITE (R386) -/
  | weirTableWrite (p : Nat)
  /-- KEY_LOAD (R82) -/
  | keyLoad (p : Nat)
  /-- KEY_RETIRE (R82) -/
  | keyRetire (p : Nat)
  /-- FIRMWARE_ACTIVATION (R421) -/
  | firmwareActivation (p : Nat)
  /-- FIRMWARE_STORE_COMPLETE (R421) -/
  | firmwareStoreComplete (ok : Bool)
  /-- FABRIC_TOPOLOGY_AND_ROUTE_CHANGE (R381) -/
  | fabricTopologyAndRouteChange (p : Nat)
  /-- FREEZE (R354) -/
  | freeze (p : Nat)
  /-- THAW (R354) -/
  | thaw (p : Nat)
  /-- CLOCK_SOURCE_CHANGE (R406) -/
  | clockSourceChange (p : Nat)
  /-- DIVIDER_STEP (R405) -/
  | dividerStep (n : Nat)
  /-- LOOP_RELOCK (R405) -/
  | loopRelock (n : Nat)
  /-- SQUALL_ENABLE (R435) -/
  | squallEnable (p : Nat)
  /-- SQUALL_DISABLE (R435) -/
  | squallDisable (p : Nat)
  /-- SQUALL_ACTIVE_END (R437) -/
  | squallActiveEnd
  /-- WARM_RESET_COMMAND (R419) -/
  | warmResetCommand (p : Nat)
  /-- HEADGATE_CYCLE (R83) -/
  | headgateCycle
  /-- TASK_ADMIT (R90) -/
  | taskAdmit (p : Nat)
  /-- TASK_RETIRE (R93) -/
  | taskRetire (p : Nat)
  /-- HEADGATE_STALL (R97) -/
  | headgateStall
  /-- RESERVATION (R98) -/
  | reservation
  /-- FR_CTRL_ENABLE (R65) -/
  | frCtrlEnable (value : BitVec 32)
  /-- FR_CTRL_DISABLE (R67) -/
  | frCtrlDisable (value : BitVec 32)
  /-- FR_PTR_HEAD_WRITE (R65) -/
  | frPtrHeadWrite (head : BitVec 32)
  /-- FR_RESUME (R66) -/
  | frResume (seq : BitVec 32)
  /-- FR_KILL (R66) -/
  | frKill (seq : BitVec 32)
  /-- FAULT_RECORD_DRAIN (R67) -/
  | faultRecordDrain
  /-- MMU_INV_PAGE (R251) -/
  | mmuInvPage (asid : BitVec 6) (vpn : BitVec 36)
  /-- MMU_INV_ASID (R251) -/
  | mmuInvAsid (asid : BitVec 6)
  /-- MMU_INV_ALL (R251) -/
  | mmuInvAll
  /-- MMU_INV_IGNORED (R251) -/
  | mmuInvIgnored (value : Word)
  /-- MMU_INV_COMPLETE (R251) -/
  | mmuInvComplete
  /-- ATS_INVALIDATION (R250) -/
  | atsInvalidation (pasid : Option (BitVec 20)) (addr : Word) (size : Nat)
  /-- ADD (R103) -/
  | add (t : Nat) (rd rs1 rs2 : Reg)
  /-- SUB (R103) -/
  | sub (t : Nat) (rd rs1 rs2 : Reg)
  /-- AND (R103) -/
  | andR (t : Nat) (rd rs1 rs2 : Reg)
  /-- OR (R103) -/
  | orR (t : Nat) (rd rs1 rs2 : Reg)
  /-- XOR (R103) -/
  | xorR (t : Nat) (rd rs1 rs2 : Reg)
  /-- SLL (R103) -/
  | sll (t : Nat) (rd rs1 rs2 : Reg)
  /-- SRL (R103) -/
  | srl (t : Nat) (rd rs1 rs2 : Reg)
  /-- SRA (R103) -/
  | sra (t : Nat) (rd rs1 rs2 : Reg)
  /-- MIN (R103) -/
  | minS (t : Nat) (rd rs1 rs2 : Reg)
  /-- MAX (R103) -/
  | maxS (t : Nat) (rd rs1 rs2 : Reg)
  /-- MINU (R103) -/
  | minu (t : Nat) (rd rs1 rs2 : Reg)
  /-- MAXU (R103) -/
  | maxu (t : Nat) (rd rs1 rs2 : Reg)
  /-- CLZ (R103) -/
  | clz (t : Nat) (rd rs1 : Reg)
  /-- CTZ (R103) -/
  | ctz (t : Nat) (rd rs1 : Reg)
  /-- POPC (R103) -/
  | popc (t : Nat) (rd rs1 : Reg)
  /-- ADDW (R103) -/
  | addw (t : Nat) (rd rs1 rs2 : Reg)
  /-- SUBW (R103) -/
  | subw (t : Nat) (rd rs1 rs2 : Reg)
  /-- MUL (R103) -/
  | mul (t : Nat) (rd rs1 rs2 : Reg)
  /-- MULH (R103) -/
  | mulh (t : Nat) (rd rs1 rs2 : Reg)
  /-- MULHU (R103) -/
  | mulhu (t : Nat) (rd rs1 rs2 : Reg)
  /-- DIV (R104) -/
  | divS (t : Nat) (rd rs1 rs2 : Reg)
  /-- DIVU (R104) -/
  | divu (t : Nat) (rd rs1 rs2 : Reg)
  /-- REM (R104) -/
  | rem (t : Nat) (rd rs1 rs2 : Reg)
  /-- REMU (R104) -/
  | remu (t : Nat) (rd rs1 rs2 : Reg)
  /-- SEQ (R103) -/
  | seq (t : Nat) (rd rs1 rs2 : Reg)
  /-- SNE (R103) -/
  | sne (t : Nat) (rd rs1 rs2 : Reg)
  /-- SLT (R103) -/
  | slt (t : Nat) (rd rs1 rs2 : Reg)
  /-- SGE (R103) -/
  | sge (t : Nat) (rd rs1 rs2 : Reg)
  /-- SLTU (R103) -/
  | sltu (t : Nat) (rd rs1 rs2 : Reg)
  /-- SGEU (R103) -/
  | sgeu (t : Nat) (rd rs1 rs2 : Reg)
  /-- ADDI (R105) -/
  | addi (t : Nat) (rd rs1 : Reg) (imm : BitVec 16)
  /-- ANDI (R102) -/
  | andi (t : Nat) (rd rs1 : Reg) (imm : BitVec 16)
  /-- ORI (R102) -/
  | ori (t : Nat) (rd rs1 : Reg) (imm : BitVec 16)
  /-- XORI (R102) -/
  | xori (t : Nat) (rd rs1 : Reg) (imm : BitVec 16)
  /-- SLLI (R103) -/
  | slli (t : Nat) (rd rs1 : Reg) (sh : BitVec 6)
  /-- SRLI (R103) -/
  | srli (t : Nat) (rd rs1 : Reg) (sh : BitVec 6)
  /-- SRAI (R103) -/
  | srai (t : Nat) (rd rs1 : Reg) (sh : BitVec 6)
  /-- SLTI (R105) -/
  | slti (t : Nat) (rd rs1 : Reg) (imm : BitVec 16)
  /-- SLTIU (R105) -/
  | sltiu (t : Nat) (rd rs1 : Reg) (imm : BitVec 16)
  /-- CATI (R105) -/
  | cati (t : Nat) (rd rs1 : Reg) (imm : BitVec 16)
  /-- RCATI (R105) -/
  | rcati (t : Nat) (rd rs1 : Reg) (imm : BitVec 16)
  /-- LD (R106) -/
  | load (t : Nat) (op : MemOp)
  /-- LDS (R107) -/
  | loadS (t : Nat) (op : MemOp)
  /-- ST (R106) -/
  | store (t : Nat) (op : MemOp)
  /-- LOAD_DATA_RETURN (R111) -/
  | loadDataReturn (t : Nat) (rd : Reg)
  /-- BR (R109) -/
  | branch (t : Nat) (rs1 rs2 : Reg) (cond : BitVec 3) (off : BitVec 13)
  /-- BRI (R109) -/
  | branchI (t : Nat) (rs1 : Reg) (imm : BitVec 5) (cond : BitVec 3) (off : BitVec 13)
  /-- J (R110) -/
  | jump (t : Nat) (off : BitVec 26)
  /-- CALL (R110) -/
  | call (t : Nat) (off : BitVec 26)
  /-- JR (R110) -/
  | jr (t : Nat) (rs1 : Reg)
  /-- CALLR (R110) -/
  | callr (t : Nat) (rs1 : Reg)
  /-- RET (R110) -/
  | ret (t : Nat)
  /-- RETURN_STACK_FILL (R117) -/
  | returnStackFill (t : Nat)
  /-- LOOP (R118) -/
  | loopR (t : Nat) (n : BitVec 2) (rs : Reg) (len : BitVec 12)
  /-- LOOPI (R118) -/
  | loopi (t : Nat) (n : BitVec 2) (count : BitVec 12) (len : BitVec 12)
  /-- LCLR (R118) -/
  | lclr (t : Nat) (n : BitVec 2)
  /-- TRAP (R144) -/
  | trap (t : Nat) (num : BitVec 12)
  /-- END (R121) -/
  | endTask (t : Nat)
  /-- RFX (R138) -/
  | rfx (t : Nat)
  /-- WAIT (R145) -/
  | wait (t : Nat)
  /-- WAIT_WAKE (R145) -/
  | waitWake (t : Nat)
  /-- MFSR (R121) -/
  | mfsr (t : Nat) (g : Reg) (sr : BitVec 12)
  /-- MTSR (R123) -/
  | mtsr (t : Nat) (g : Reg) (sr : BitVec 12)
  /-- SYNC (R121) -/
  | sync (t : Nat)
  /-- LEASE_WRITE (R207) -/
  | leaseWrite (t : Nat) (g : Reg)
  /-- VFSTAT_CLR (R174) -/
  | vfstatClr (t : Nat) (g : Reg)
  /-- EXCEPTION_ENTRY (R135) -/
  | exceptionEntry (t : Nat) (src : EntrySource)
  /-- EXTERNAL_EVENT (R133) -/
  | externalEvent (t : Nat)
  /-- TIMER (R133) -/
  | timer (t : Nat)
  /-- NI_EXPIRY (R139) -/
  | niExpiry (t : Nat)
  /-- EVENT_EDGE (R148) -/
  | eventEdge (d : Nat) (s : Nat)
  /-- EV_SWSET (R148) -/
  | evSwset (d : Nat) (value : Word)
  /-- EV_PEND_DISCARD (R147) -/
  | evPendDiscard (d : Nat) (w : Nat) (value : Word)
  /-- EV_CLAIM (R150) -/
  | evClaim (d : Nat) (s : Nat) (reader : Option (Nat × Reg))
  /-- HOLD_EXPIRY (R152) -/
  | holdExpiry (d : Nat) (s : Nat)
  /-- MODERATION_BYPASS (R152) -/
  | moderationBypass (d : Nat) (s : Nat)
  /-- VLD (R169) -/
  | vld (t : Nat) (op : VMemOp)
  /-- VST (R169) -/
  | vst (t : Nat) (op : VMemOp)
  /-- VECTOR_ELEMENT_ANSWER (R173) -/
  | vectorElementAnswer (t : Nat)
  /-- VADD (R159) -/
  | vadd (t : Nat) (op : VecOp)
  /-- VSUB (R159) -/
  | vsub (t : Nat) (op : VecOp)
  /-- VMUL (R159) -/
  | vmul (t : Nat) (op : VecOp)
  /-- VMULH (R159) -/
  | vmulh (t : Nat) (op : VecOp)
  /-- VMULHU (R159) -/
  | vmulhu (t : Nat) (op : VecOp)
  /-- VMIN (R159) -/
  | vmin (t : Nat) (op : VecOp)
  /-- VMAX (R159) -/
  | vmax (t : Nat) (op : VecOp)
  /-- VMINU (R159) -/
  | vminu (t : Nat) (op : VecOp)
  /-- VMAXU (R159) -/
  | vmaxu (t : Nat) (op : VecOp)
  /-- VAND (R159) -/
  | vand (t : Nat) (op : VecOp)
  /-- VOR (R159) -/
  | vor (t : Nat) (op : VecOp)
  /-- VXOR (R159) -/
  | vxor (t : Nat) (op : VecOp)
  /-- VSLL (R159) -/
  | vsll (t : Nat) (op : VecOp)
  /-- VSRL (R159) -/
  | vsrl (t : Nat) (op : VecOp)
  /-- VSRA (R159) -/
  | vsra (t : Nat) (op : VecOp)
  /-- VSADD (R160) -/
  | vsadd (t : Nat) (op : VecOp)
  /-- VSADDU (R160) -/
  | vsaddu (t : Nat) (op : VecOp)
  /-- VSSUB (R160) -/
  | vssub (t : Nat) (op : VecOp)
  /-- VSSUBU (R160) -/
  | vssubu (t : Nat) (op : VecOp)
  /-- VSMULR (R161) -/
  | vsmulr (t : Nat) (op : VecOp)
  /-- VRSRA (R161) -/
  | vrsra (t : Nat) (op : VecOp)
  /-- VRSRL (R161) -/
  | vrsrl (t : Nat) (op : VecOp)
  /-- VNARS (R159) -/
  | vnars (t : Nat) (op : VecOp)
  /-- VNARU (R159) -/
  | vnaru (t : Nat) (op : VecOp)
  /-- VFADD (R162) -/
  | vfadd (t : Nat) (op : VecOp)
  /-- VFSUB (R162) -/
  | vfsub (t : Nat) (op : VecOp)
  /-- VFMUL (R162) -/
  | vfmul (t : Nat) (op : VecOp)
  /-- VFMA (R162) -/
  | vfma (t : Nat) (op : VecOp)
  /-- VFNMS (R162) -/
  | vfnms (t : Nat) (op : VecOp)
  /-- VFMIN (R222) -/
  | vfmin (t : Nat) (op : VecOp)
  /-- VFMAX (R222) -/
  | vfmax (t : Nat) (op : VecOp)
  /-- VFDIV (R162) -/
  | vfdiv (t : Nat) (op : VecOp)
  /-- VFSQRT (R162) -/
  | vfsqrt (t : Nat) (op : VecOp)
  /-- VCEQ (R163) -/
  | vceq (t : Nat) (op : VecOp)
  /-- VCNE (R163) -/
  | vcne (t : Nat) (op : VecOp)
  /-- VCLT (R163) -/
  | vclt (t : Nat) (op : VecOp)
  /-- VCLTU (R163) -/
  | vcltu (t : Nat) (op : VecOp)
  /-- VCLE (R163) -/
  | vcle (t : Nat) (op : VecOp)
  /-- VCLEU (R163) -/
  | vcleu (t : Nat) (op : VecOp)
  /-- VCFEQ (R163) -/
  | vcfeq (t : Nat) (op : VecOp)
  /-- VCFLT (R163) -/
  | vcflt (t : Nat) (op : VecOp)
  /-- VCFLE (R163) -/
  | vcfle (t : Nat) (op : VecOp)
  /-- VCFUN (R163) -/
  | vcfun (t : Nat) (op : VecOp)
  /-- VCVT (R225) -/
  | vcvt (t : Nat) (op : CvtOp)
  /-- VRSUM (R164) -/
  | vrsum (t : Nat) (op : VecOp)
  /-- VRMAX (R164) -/
  | vrmax (t : Nat) (op : VecOp)
  /-- VRMIN (R164) -/
  | vrmin (t : Nat) (op : VecOp)
  /-- VRMAXU (R164) -/
  | vrmaxu (t : Nat) (op : VecOp)
  /-- VRMINU (R164) -/
  | vrminu (t : Nat) (op : VecOp)
  /-- VRFSUM (R164) -/
  | vrfsum (t : Nat) (op : VecOp)
  /-- VRFMAX (R164) -/
  | vrfmax (t : Nat) (op : VecOp)
  /-- VRFMIN (R164) -/
  | vrfmin (t : Nat) (op : VecOp)
  /-- VMV (R167) -/
  | vmv (t : Nat) (op : VecOp)
  /-- VBCAST (R167) -/
  | vbcast (t : Nat) (op : VecOp)
  /-- VEXT (R167) -/
  | vext (t : Nat) (op : VecOp)
  /-- VINS (R167) -/
  | vins (t : Nat) (op : VecOp)
  /-- VINDEX (R167) -/
  | vindex (t : Nat) (op : VecOp)
  /-- VSHDN (R167) -/
  | vshdn (t : Nat) (op : VecOp)
  /-- VSHUP (R167) -/
  | vshup (t : Nat) (op : VecOp)
  /-- VRNG (R180) -/
  | vrng (t : Nat) (op : VecOp)
  /-- VMAND (R168) -/
  | vmand (t : Nat) (op : VecOp)
  /-- VMOR (R168) -/
  | vmor (t : Nat) (op : VecOp)
  /-- VMXOR (R168) -/
  | vmxor (t : Nat) (op : VecOp)
  /-- VMANDN (R168) -/
  | vmandn (t : Nat) (op : VecOp)
  /-- VMCOUNT (R168) -/
  | vmcount (t : Nat) (op : VecOp)
  /-- VMLOW (R168) -/
  | vmlow (t : Nat) (op : VecOp)
  /-- SETVC (R155) -/
  | setvc (t : Nat) (rd rs1 : Reg) (size : BitVec 2)
  /-- VECTOR_POWER_DOWN (R181) -/
  | vectorPowerDown (c : Nat)
  /-- VECTOR_WAKE (R182) -/
  | vectorWake (c : Nat)
  /-- TMMA (R192) -/
  | tmma (t : Nat) (op : TmmaOp)
  /-- TLD (R198) -/
  | tld (t : Nat) (op : TileMemOp)
  /-- TST (R198) -/
  | tst (t : Nat) (op : TileMemOp)
  /-- TLDS (R198) -/
  | tlds (t : Nat) (op : TileMemOp)
  /-- TACCV (R205) -/
  | taccv (t : Nat) (op : TileMoveOp)
  /-- TACCT (R205) -/
  | tacct (t : Nat) (op : TileMoveOp)
  /-- TACCS (R205) -/
  | taccs (t : Nat) (op : TileMoveOp)
  /-- TILE_ISSUE (R195) -/
  | tileIssue (t : Nat) (k : Nat)
  /-- TILE_LOAD_DATA_ERROR (R203) -/
  | tileLoadDataError (t : Nat) (k : Nat) (row : Nat)
  /-- FENCE (R255) -/
  | fence (t : Nat)
  /-- FENCE_WB (R255) -/
  | fenceWb (t : Nat) (rs1 rs2 : Reg)
  /-- FENCE_INV (R255) -/
  | fenceInv (t : Nat) (rs1 rs2 : Reg)
  /-- FENCE_I (R255) -/
  | fenceI (t : Nat)
  /-- ASWAP (R259) -/
  | aswap (t : Nat) (rd rs1 rs2 : Reg) (dbl : BitVec 1)
  /-- AADD (R259) -/
  | aadd (t : Nat) (rd rs1 rs2 : Reg) (dbl : BitVec 1)
  /-- AAND (R259) -/
  | aand (t : Nat) (rd rs1 rs2 : Reg) (dbl : BitVec 1)
  /-- AOR (R259) -/
  | aor (t : Nat) (rd rs1 rs2 : Reg) (dbl : BitVec 1)
  /-- AXOR (R259) -/
  | axor (t : Nat) (rd rs1 rs2 : Reg) (dbl : BitVec 1)
  /-- AMIN (R259) -/
  | amin (t : Nat) (rd rs1 rs2 : Reg) (dbl : BitVec 1)
  /-- AMAX (R259) -/
  | amax (t : Nat) (rd rs1 rs2 : Reg) (dbl : BitVec 1)
  /-- AMINU (R259) -/
  | aminu (t : Nat) (rd rs1 rs2 : Reg) (dbl : BitVec 1)
  /-- AMAXU (R259) -/
  | amaxu (t : Nat) (rd rs1 rs2 : Reg) (dbl : BitVec 1)
  /-- ACAS (R259) -/
  | acas (t : Nat) (rd rs1 rs2 : Reg) (dbl : BitVec 1)
  /-- ATOMIC_RESULT (R259) -/
  | atomicResult (t : Nat) (rd : Reg)
  /-- RED_INT32_ADD (R260) -/
  | redInt32Add (t : Nat) (rs1 rs2 : Reg)
  /-- RED_FP32_ADD (R261) -/
  | redFp32Add (t : Nat) (rs1 rs2 : Reg)
  /-- RED_BF16_ADD (R261) -/
  | redBf16Add (t : Nat) (rs1 rs2 : Reg)
  /-- RED_INT32_MAX (R260) -/
  | redInt32Max (t : Nat) (rs1 rs2 : Reg)
  /-- RED_FP32_MAX (R261) -/
  | redFp32Max (t : Nat) (rs1 rs2 : Reg)
  /-- RED_BF16_MAX (R261) -/
  | redBf16Max (t : Nat) (rs1 rs2 : Reg)
  /-- VRED_INT32_ADD (R260) -/
  | vredInt32Add (t : Nat) (op : VMemOp)
  /-- VRED_FP32_ADD (R260) -/
  | vredFp32Add (t : Nat) (op : VMemOp)
  /-- VRED_BF16_ADD (R260) -/
  | vredBf16Add (t : Nat) (op : VMemOp)
  /-- VRED_INT32_MAX (R260) -/
  | vredInt32Max (t : Nat) (op : VMemOp)
  /-- VRED_FP32_MAX (R260) -/
  | vredFp32Max (t : Nat) (op : VMemOp)
  /-- VRED_BF16_MAX (R260) -/
  | vredBf16Max (t : Nat) (op : VMemOp)
  /-- REDUCTION_APPLY (R262) -/
  | reductionApply (sl : Nat)
  /-- LLC_FILL (R266) -/
  | llcFill (sl : Nat) (line : Nat)
  /-- MISS_REGISTER_GRANT (R266) -/
  | missRegisterGrant (sl : Nat)
  /-- EVICTION_WRITE_BACK (R265) -/
  | evictionWriteBack (sl : Nat) (line : Nat)
  /-- WRITE_BACK_ACKNOWLEDGE (R265) -/
  | writeBackAcknowledge (sl : Nat) (line : Nat)
  /-- LLC_PREFETCH (R269) -/
  | llcPrefetch (sl line : Nat)
  /-- L1_PREFETCH (R254) -/
  | l1Prefetch (t : Nat) (line : Nat)
  /-- WAY_POWER_DOWN (R270) -/
  | wayPowerDown (sl : Nat) (value : BitVec 32)
  /-- WAY_POWER_UP (R270) -/
  | wayPowerUp (sl : Nat) (value : BitVec 32)
  /-- WAY_SEQUENCE_COMPLETE (R270) -/
  | waySequenceComplete (sl : Nat)
  /-- PATROL_SCRUB (R274) -/
  | patrolScrub (line : Nat)
  /-- REFRESH (R273) -/
  | refresh (ch : Nat) (bank : Nat)
  /-- WCK_DRIFT_CHECK (R272) -/
  | wckDriftCheck (ch : Nat) (drifted : Bool)
  /-- RETRAIN_COMPLETE (R272) -/
  | retrainComplete (ch : Nat) (ok : Bool)
  /-- SELF_REFRESH_ENTRY (R414) -/
  | selfRefreshEntry (ch : Nat)
  /-- JOB_POST (R280) -/
  | jobPost (who : Option Nat) (st : Nat) (value : Word)
  /-- JOB_START (R288) -/
  | jobStart (st : Nat)
  /-- CHUNK_COMPLETE (R286) -/
  | chunkComplete (st : Nat) (e : Nat)
  /-- JOB_COMPLETE (R289) -/
  | jobComplete (st : Nat) (j : Nat)
  /-- CONVERT (R284) -/
  | convert (st : Nat) (e : Nat)
  /-- AXPBY (R284) -/
  | axpby (st : Nat) (e : Nat)
  /-- JOB_MUL (R284) -/
  | jobMul (st : Nat) (e : Nat)
  /-- REDUCE (R287) -/
  | reduce (st : Nat) (e : Nat)
  /-- FILL (R284) -/
  | fill (st : Nat) (e : Nat)
  /-- FINITE (R314) -/
  | finite (st : Nat) (e : Nat)
  /-- STASH (R326) -/
  | stash (st : Nat) (e : Nat)
  /-- UNSTASH (R327) -/
  | unstash (st : Nat) (e : Nat)
  /-- GATHER (R294) -/
  | gather (st : Nat) (j : Nat)
  /-- CLEAN (R296) -/
  | clean (st : Nat) (j : Nat)
  /-- REGION_CLEAN (R296) -/
  | regionClean (st : Nat) (j : Nat)
  /-- BACK_INVALIDATE (R297) -/
  | backInvalidate (st : Nat) (j : Nat)
  /-- GATHER_PREFETCH (R295) -/
  | gatherPrefetch (st : Nat) (g : Nat)
  /-- REQUEST_REGISTER_GRANT (R278) -/
  | requestRegisterGrant (st : Nat)
  /-- ARBITER_CYCLE (R300) -/
  | arbiterCycle (a : Nat) (lengths : List (Nat × Nat))
  /-- AGING (R303) -/
  | aging (a : Nat)
  /-- QUOTA_WINDOW_WRAP (R304) -/
  | quotaWindowWrap (a : Nat)
  /-- ARB_COMMIT (R306) -/
  | arbCommit (a : Nat) (value : BitVec 32)
  /-- COMMIT_APPLY (R307) -/
  | commitApply (a : Nat)
  /-- GP_FOLD (R313) -/
  | gpFold (who : Option Nat) (value : BitVec 32)
  /-- CAST (R316) -/
  | cast (p : Nat)
  /-- GATE_EVENT_WAIT_END (R311) -/
  | gateEventWaitEnd (k : Nat)
  /-- VOTE (R317) -/
  | vote (src : BitVec 12) (payload : List Byte)
  /-- RESULT (R318) -/
  | result (payload : List Byte)
  /-- GATE_TIMEOUT (R320) -/
  | gateTimeout (b : Nat)
  /-- GATE_COMMIT (R322) -/
  | gateCommit (b : Nat)
  /-- GV_STEPCNT_LOAD (R312) -/
  | gvStepcntLoad (value : Word)
  /-- SC_AMAX (R234) -/
  | scAmax (b tensor : Nat) (value : BitVec 32)
  /-- HZ_OFFER (R329) -/
  | hzOffer (who : Option Nat) (value : Word)
  /-- HAZE_SAMPLE_COMPLETE (R331) -/
  | hazeSampleComplete (st : Nat) (j : Nat)
  /-- LAYER_UPDATE (R339) -/
  | layerUpdate (p : Nat)
  /-- UPDATE_COMPLETE (R344) -/
  | updateComplete (p : Nat)
  /-- PORT_TRAINING_ENTRY (R362) -/
  | portTrainingEntry (w i : Nat)
  /-- LOOPBACK_COMPLETE (R362) -/
  | loopbackComplete (w i : Nat) (ok : Bool)
  /-- SIGNAL_DETECTED (R362) -/
  | signalDetected (w i : Nat)
  /-- TRAINING_COMPLETE (R362) -/
  | trainingComplete (w i : Nat)
  /-- ALIGN_COMPLETE (R362) -/
  | alignComplete (w i : Nat)
  /-- TRAINING_STATE_TIMEOUT (R362) -/
  | trainingStateTimeout (w i : Nat)
  /-- LOCK_LOSS (R362) -/
  | lockLoss (w i : Nat)
  /-- ERRMAX_EXCEEDED (R362) -/
  | errmaxExceeded (w i : Nat) (codewords : Nat)
  /-- RECEIVE_IDLE_TIMEOUT (R362) -/
  | receiveIdleTimeout (w i : Nat)
  /-- FAILED_TIMEOUT (R362) -/
  | failedTimeout (w i : Nat)
  /-- LINK (R365) -/
  | linkMessage (w i : Nat) (node : BitVec 12) (valid : Bool) (way port : Nat) (nx ny : BitVec 6)
  /-- RING_HOLD_TIMEOUT (R363) -/
  | ringHoldTimeout (dim : Bool)
  /-- RING_HOLD_RETRY (R363) -/
  | ringHoldRetry (dim : Bool)
  /-- FLIT (R367) -/
  | flit (w i : Nat) (flit : List Byte)
  /-- NAK (R367) -/
  | nak (w i : Nat) (flit : List Byte)
  /-- RESEND_TIMEOUT (R367) -/
  | resendTimeout (w : Nat)
  /-- RD (R368) -/
  | fabricRead (msg : List Byte)
  /-- WR (R368) -/
  | fabricWrite (msg : List Byte)
  /-- ATOM (R368) -/
  | fabricAtom (msg : List Byte)
  /-- RED (R376) -/
  | fabricRed (msg : List Byte)
  /-- RDR (R368) -/
  | readData (msg : List Byte)
  /-- ACK (R368) -/
  | fabricAck (msg : List Byte)
  /-- ATOMR (R368) -/
  | atomReturn (msg : List Byte)
  /-- ERR (R374) -/
  | fabricErr (msg : List Byte)
  /-- CTL_ACK (R378) -/
  | ctlAck (msg : List Byte)
  /-- GATE_MESSAGE_RESEND (R378) -/
  | gateMessageResend (k : Nat)
  /-- REQUEST_TIMEOUT (R375) -/
  | requestTimeout (tid : BitVec 16)
  /-- TAG_QUARANTINE_END (R375) -/
  | tagQuarantineEnd (tid : BitVec 16)
  /-- WP_POST (R387) -/
  | wpPost (who : Option Nat) (value : Word)
  /-- BATCH_START (R390) -/
  | batchStart
  /-- DISPATCH (R393) -/
  | dispatch (msg : List Byte)
  /-- GRANT (R390) -/
  | grant (msg : List Byte)
  /-- NOT_YET_RETRY (R390) -/
  | notYetRetry (e : Nat)
  /-- DISPATCH_TIMEOUT (R390) -/
  | dispatchTimeout (e : Nat)
  /-- TDATA (R393) -/
  | tdata (msg : List Byte)
  /-- END_MESSAGE (R394) -/
  | endMessage (msg : List Byte)
  /-- EXPERT_CLOSE (R394) -/
  | expertClose (x : Nat)
  /-- CLOSE_TIMEOUT (R394) -/
  | closeTimeout (x : Nat)
  /-- WP_RETURN (R395) -/
  | wpReturn (who : Option Nat) (value : Word)
  /-- RDATA (R392) -/
  | rdata (msg : List Byte)
  /-- CHOICE_LOST (R392) -/
  | choiceLost (e : Nat)
  /-- ENTRY_QUARANTINE_END (R392) -/
  | entryQuarantineEnd (e : Nat)
  /-- SOURCE_FAIL (R407) -/
  | sourceFail (c : Nat)
  /-- CK_EN_WRITE (R411) -/
  | ckEnWrite (w : Nat) (value : Word)
  /-- GATED_TOUCH (R412) -/
  | gatedTouch (h : Nat)
  /-- CK_MON_WRITE (R413) -/
  | ckMonWrite (value : BitVec 32)
  /-- STANDBY_ENTRY (R414) -/
  | standbyEntry
  /-- STANDBY_EXIT (R414) -/
  | standbyExit
  /-- POWER_ON_RESET (R415) -/
  | powerOnReset
  /-- FUNDAMENTAL_RESET (R415) -/
  | fundamentalReset
  /-- PERST_DEASSERT (R415) -/
  | perstDeassert
  /-- HOST_LINK_RESET (R415) -/
  | hostLinkReset
  /-- WARM_RESET (R415) -/
  | warmReset
  /-- BOOT_STEP_COMPLETE (R422) -/
  | bootStepComplete (failure : Option (BitVec 8 × BitVec 8)) (bad : Bool)
  /-- ERROR_DETECTED (R426) -/
  | errorDetected (cls : BitVec 4) (dcode : BitVec 8) (unit : BitVec 15) (addr : Word) (info : BitVec 48)
  /-- ER_PTR_HEAD_WRITE (R429) -/
  | erPtrHeadWrite (head : BitVec 32)
  /-- ER_CNTCLR (R433) -/
  | erCntclr (value : BitVec 32)
  /-- CLEAR_COMPLETE (R433) -/
  | clearComplete
  /-- INPUT_EXCURSION (R441) -/
  | inputExcursion
  /-- INPUT_LOSS (R441) -/
  | inputLoss
  /-- REGULATOR_FAULT (R442) -/
  | regulatorFault
  /-- THERMAL_READING (R451) -/
  | thermalReading (die : Nat) (reading : BitVec 16)
  /-- PART_NUMBER (R453) -/
  | partNumber
  /-- SERIAL_NUMBER (R453) -/
  | serialNumber
  /-- SMBUS_AUTH_UID (R453) -/
  | smbusAuthUid
  /-- FIRMWARE_VERSION (R453) -/
  | firmwareVersion
  /-- MODULE_TEMPERATURE (R453) -/
  | moduleTemperature
  /-- COMPUTE_DIE_TEMPERATURE (R453) -/
  | computeDieTemperature (d : Nat)
  /-- IO_DIE_TEMPERATURE (R453) -/
  | ioDieTemperature (d : Nat)
  /-- BASIN_STACK_TEMPERATURE (R453) -/
  | basinStackTemperature
  /-- SMBUS_NACK (R452) -/
  | smbusNack (command : BitVec 8)
  /-- BAD_WIDTH_ACCESS (R11) -/
  | badWidthAccess (who : Option Nat) (off width : Nat)
  /-- REGISTER_WRITE (R8) -/
  | registerWrite (who : Option Nat) (off width : Nat) (value : Word)
  /-- SOURCE_RECOVERY (R407) -/
  | sourceRecovery (c : Nat)
  /-- HOST_LINK_UP (R36) -/
  | hostLinkUp
  /-- INPUT_EXCURSION_END (R441) -/
  | inputExcursionEnd
  /-- TILE_LOAD_DATA_RETURN (R196) -/
  | tileLoadDataReturn (t : Nat) (k : Nat)
  /-- RETURN_STACK_SPILL_COMPLETE (R117) -/
  | returnStackSpillComplete (t : Nat)
  deriving DecidableEq, Repr

end Sys2Proof
end

