-- ==== Sys2Proof/Config.lean ====
section
/-! DEFINITION. What the manual leaves open: opaque constants no proof can look into. -/

namespace Sys2Proof.Config

/-- A free value of `w` bits: the `n`-th value the manual leaves undefined (log 4).
The step supplies `n` from `State.freeCount`. -/
opaque freeBits (w : Nat) (n : Nat) : BitVec w

/-- Whether an image carries a valid Prindavos signature (R421); the manual gives no algorithm (log 10). -/
opaque imageSigned : List Byte → Bool

/-- The version field inside a firmware image (R421); the manual gives no place for it (log 10). -/
opaque imageVersion : List Byte → BitVec 32

/-- The slot of a LINK message (R365): node, VALID, way, port, NX and NY; the manual gives their places nowhere (log 68). -/
opaque linkSlot : BitVec 12 → Bool → Nat → Nat → BitVec 6 → BitVec 6 → BitVec 128

end Sys2Proof.Config
end

