-- ==== Sys2Proof/Machine/Bits.lean ====
section
/-! DEFINITION. Bit fields, sign extension and byte order (R5, R6), the one place byte order is decided. -/

namespace Sys2Proof.Machine

/-- Bits `hi:lo` of `x` as a number (R5: both ends included). -/
def bitsOf {w : Nat} (x : BitVec w) (hi lo : Nat) : Nat := (x.toNat >>> lo) % 2 ^ (hi + 1 - lo)

/-- Bits `hi:lo` of a number. -/
def natBits (x : Nat) (hi lo : Nat) : Nat := (x >>> lo) % 2 ^ (hi + 1 - lo)

/-- Bit `i` of a number. -/
def natBit (x : Nat) (i : Nat) : Bool := x.testBit i

/-- `x` with bits `hi:lo` replaced by `v`. -/
def putBits {w : Nat} (x : BitVec w) (hi lo : Nat) (v : Nat) : BitVec w :=
  let mask := (BitVec.ofNat w (2 ^ (hi + 1 - lo) - 1)) <<< lo
  (x &&& ~~~mask) ||| ((BitVec.ofNat w (v % 2 ^ (hi + 1 - lo))) <<< lo)

/-- `x` with bit `i` set to `b`. -/
def putBit {w : Nat} (x : BitVec w) (i : Nat) (b : Bool) : BitVec w :=
  if b then x ||| (BitVec.ofNat w 1 <<< i) else x &&& ~~~(BitVec.ofNat w 1 <<< i)

/-- The two's-complement number held in the low `w` bits of `x`. -/
def natSigned (w : Nat) (x : Nat) : Int :=
  let y := x % 2 ^ w
  if 2 * y < 2 ^ w then (y : Int) else (y : Int) - 2 ^ w

/-- The low `w` bits of an integer, as a number. -/
def intLow (w : Nat) (x : Int) : Nat := (x % (2 ^ w : Int)).toNat

/-- The bytes of the low `8 * n` bits of `x`, lowest first (R6). -/
def bytesOf : Nat → Nat → List Byte
  | 0, _ => []
  | n + 1, x => BitVec.ofNat 8 x :: bytesOf n (x / 256)

/-- The number that a list of bytes holds, the first byte lowest (R6). -/
def ofBytes : List Byte → Nat
  | [] => 0
  | b :: bs => b.toNat + 256 * ofBytes bs

/-- Byte `i` of a record; bytes past its end read as zero. -/
def byteAt (bs : List Byte) (i : Nat) : Nat := (bs.getD i 0).toNat

/-- The little-endian value of `n` bytes of a record from byte `i` (R6). -/
def field (bs : List Byte) (i n : Nat) : Nat := ofBytes ((bs.drop i).take n)

/-- The lowest offset in `lo .. lo + n - 1` whose byte under `mask` is not zero. -/
def firstNonzero (bs : List Byte) : (List (Nat × Nat)) → Option Nat
  | [] => none
  | (i, mask) :: r => if byteAt bs i &&& mask ≠ 0 then some i else firstNonzero bs r

/-- The offsets `lo .. lo + n - 1`, each with all eight bits, as places to check. -/
def wholeBytes (lo n : Nat) : List (Nat × Nat) := (List.range n).map fun k => (lo + k, 0xFF)

/-- `n` rounded up to a multiple of `d`, divided by `d`. -/
def ceilDiv (n d : Nat) : Nat := (n + d - 1) / d

/-- The exclusive or of the `n`-bit chunks of bits `hi:lo` of `a`; chunks above `hi` read as zero (R263). -/
def foldBits (a lo hi n : Nat) : Nat :=
  (List.range (ceilDiv (hi + 1 - lo) n)).foldl
    (fun acc j => acc ^^^ ((natBits a hi lo >>> (n * j)) % 2 ^ n)) 0

end Sys2Proof.Machine
end

