-- ==== Sys2Proof/Machine/Sparse.lean ====
section
/-! DEFINITION. Tables with a number as key: a list in rising key order; an unlisted key reads as a default. -/

namespace Sys2Proof.Machine

/-- A table from numbers to values, in rising key order. -/
abbrev Sparse (α : Type) := List (Nat × α)

/-- The value at key `i`, or `d` when the key is not listed. -/
def Sparse.get {α : Type} (d : α) : Sparse α → Nat → α
  | [], _ => d
  | (k, v) :: m, i => if i < k then d else if i = k then v else Sparse.get d m i

/-- The table with `v` at key `i`. -/
def Sparse.set {α : Type} : Sparse α → Nat → α → Sparse α
  | [], i, v => [(i, v)]
  | (k, w) :: m, i, v =>
    if i < k then (i, v) :: (k, w) :: m
    else if i = k then (i, v) :: m
    else (k, w) :: Sparse.set m i v

/-- The table without key `i`. -/
def Sparse.del {α : Type} : Sparse α → Nat → Sparse α
  | [], _ => []
  | (k, w) :: m, i => if i = k then m else (k, w) :: Sparse.del m i

/-- The value at key `i`, if listed. -/
def Sparse.find {α : Type} : Sparse α → Nat → Option α
  | [], _ => none
  | (k, v) :: m, i => if i < k then none else if i = k then some v else Sparse.find m i

end Sys2Proof.Machine
end

