-- ==== Sys2Proof/Machine/State.lean ====
section
/-! DEFINITION. The state of the module: every register, queue, buffer and mode the manual gives it. -/

namespace Sys2Proof.Machine

/-- Why the machine would stop with a fault. DEDUCED (log 11). -/
inductive Fault where
  /-- Raised by no meaning: every failure the manual names is a next state of the module. Safe. -/
  | none
  deriving DecidableEq, Repr

/-- Why the machine would refuse a command. -/
inductive Refusal where
  /-- Raised by the arm of a command whose meaning is not written yet. Safe. -/
  | notModelled (mnemonic : String)
  deriving DecidableEq, Repr

/-- A 48-bit event counter with its sticky overflow bit (R432). -/
structure Counter where
  count : BitVec 48 := 0
  ovf : Bool := false
  deriving DecidableEq, Repr

/-! ## Host port (03) -/

/-- One ring pair: a submission ring and its completion ring (R38, R45, R58). -/
structure Ring where
  sqBase : Word := 0
  sqLog : BitVec 5 := 0
  prio : BitVec 2 := 0
  enable : Bool := false
  sqHead : BitVec 17 := 0
  sqTail : BitVec 17 := 0
  quiesced : Bool := true
  halted : Bool := false
  fetchErr : Bool := false
  cqDbErr : Bool := false
  dbErr : Bool := false
  enReject : Bool := false
  cqBase : Word := 0
  cqLog : BitVec 5 := 0
  modCount : BitVec 8 := 1
  vector : BitVec 11 := 0
  modTimer : BitVec 10 := 0
  cqHead : BitVec 17 := 0
  cqTail : BitVec 17 := 0
  /-- Descriptors fetched whose records are not yet written (R56). -/
  owed : Nat := 0
  /-- Records counted since the last interrupt, and the time of the first (R58). -/
  modPending : BitVec 16 := 0
  firstTime : Word := 0
  /-- First slot of a critical descriptor whose second slot no request has brought yet (R40, R44). -/
  half : Option (List Byte) := .none
  deriving DecidableEq, Repr

/-- One MSI-X table entry (R48), masked after reset as PCI Express defines (log 7). -/
structure Msix where
  addr : Word := 0
  data : BitVec 32 := 0
  control : BitVec 32 := 1
  deriving DecidableEq, Repr

/-- One cached translation: of a core, an engine group or the host port (R250, R251). -/
structure TlbEntry where
  asid : BitVec 6
  va : Nat
  log : Nat
  pa : Nat
  perms : BitVec 4
  deriving DecidableEq, Repr

/-- One table entry of a walk cache: below the `2^log` bytes at `va`, the walk goes on at table `table` (R251). -/
structure WalkEntry where
  asid : BitVec 6
  va : Nat
  log : Nat
  table : Nat
  deriving DecidableEq, Repr

/-- One ATS translation held by the host port (R250). -/
structure AtsEntry where
  pasid : Option (BitVec 20)
  page : Nat
  deriving DecidableEq, Repr

/-- What an invalidation in progress names (R251). -/
inductive InvScope where
  | page (asid : BitVec 6) (vpn : BitVec 36)
  | asid (asid : BitVec 6)
  | all
  deriving DecidableEq, Repr

/-- The host port (03, 11 R245-R251). DESIGN CHOICE (log 6). -/
structure HostPort where
  linkUp : Bool := false
  perst : Bool := false
  select : BitVec 4 := 0
  reject : Bool := false
  rings : Sparse Ring := []
  /-- The ring served last at each priority, for the round robin of R45. -/
  served : Sparse Nat := []
  errEn : Bool := false
  errVector : BitVec 11 := 0
  msix : Sparse Msix := []
  msixPend : Sparse Bool := []
  /-- Vectors whose message has been sent, newest first (R58). -/
  msixSent : List (BitVec 11) := []
  /-- Host memory as the module reads and writes it. -/
  hostMem : Sparse Byte := []
  /-- How the host answers an access, by 4 KiB page of bus address: 0 with data, 1 translation refused, 2 Unsupported
  Request or Completer Abort, 3 poisoned data (R250). -/
  hostAnswers : Sparse (BitVec 2) := []
  mmuAsid : Sparse Word := []
  mmuHost : Sparse Word := []
  inv : Option InvScope := .none
  invIgn : Bool := false
  ats : List AtsEntry := []
  /-- Pending low half of each 64-bit register, by BAR0 offset (R11). -/
  lowHalf : Sparse (BitVec 32) := []
  deriving DecidableEq, Repr

/-- Who waits behind a fault record (R66, R137, R143, R252, R290, R291, R342). -/
inductive FaultOwner where
  | thread (t : Nat)
  | forwarded (t : Nat)
  | wedged (t : Nat)
  | entry (p : Nat)
  | chunk (stack job chunk : Nat)
  | batch (b : Nat)
  /-- Entry `k` of stack `s` in the scale commit (R235, R291). -/
  | scale (s k : Nat)
  /-- The fault has been settled, but its record still waits for space (R67). -/
  | gone
  deriving DecidableEq, Repr

/-- A fault that waits for the host's answer (R65-R67). -/
structure Suspension where
  seq : BitVec 32
  kind : BitVec 8
  owner : FaultOwner
  /-- The record has been written to the ring; otherwise it waits for space. -/
  written : Bool
  /-- Record bytes 0-62 (PHASE is set when it is written). -/
  record : List Byte
  deriving DecidableEq, Repr

/-- The fault ring (R64-R67). -/
structure FaultRing where
  base : Word := 0
  enable : Bool := false
  log : BitVec 4 := 0
  vector : BitVec 11 := 0
  head : BitVec 13 := 0
  tail : BitVec 13 := 0
  seq : BitVec 32 := 0
  disabledFault : Bool := false
  waitFull : Bool := false
  badResume : Bool := false
  badHead : Bool := false
  suspended : List Suspension := []
  deriving DecidableEq, Repr

/-! ## Headgate (05) and the descriptors in its pool -/

/-- How a killed, aborted or failed descriptor will complete: STATUS, COUNT0 and COUNT1 (R68). -/
structure Ending where
  status : BitVec 16
  count0 : Nat := 0
  count1 : Nat := 0
  deriving DecidableEq, Repr

/-- A task that has been admitted (R90-R95). -/
structure TaskRun where
  /-- Threads in index order (R91). -/
  threads : List Nat := []
  finished : List Nat := []
  stopped : List Nat := []
  admitted : Word := 0
  /-- The task is being ended other than by its threads (R64, R66, R69). -/
  ending : Option Ending := .none
  deriving DecidableEq, Repr

/-- A copy that has been admitted (R52, R64). -/
structure CopyRun where
  done : Nat := 0
  /-- Bytes after those whose write to another module has been sent and is not answered yet. -/
  sent : Nat := 0
  /-- An access of it holds a tag of its DMA group (R52, R454). -/
  tag : Bool := false
  /-- The source as it was before the copy began, kept when the ranges overlap (R52). -/
  snapshot : Option (List Byte) := .none
  ending : Option Ending := .none
  waiting : Bool := false
  deriving DecidableEq, Repr

/-- An abort past its abort point (R60-R63). -/
structure AbortRun where
  /-- Target ring is still watched up to this tail (R61). -/
  watch : Option (BitVec 17) := .none
  /-- Pool ids of targets whose records are not yet written. -/
  targets : List Nat := []
  found : Bool := false
  /-- Output tokens of aborted targets (R62). -/
  tokens : List Nat := []
  before : Nat := 0
  partly : Nat := 0
  done : Nat := 0
  deriving DecidableEq, Repr

/-- A layer update that has been admitted (15). -/
structure UpdateRun where
  stack : Nat := 0
  /-- Frozen at its admission (R353). -/
  frozen : Bool := false
  /-- Its module job, queued at its admission (R339). -/
  job : Option Nat := .none
  /-- Its parameter record once read (R340), and where each page of its arrays has been translated to (R342). -/
  record : List Byte := []
  pages : Sparse Nat := []
  translated : Bool := false
  /-- The gradient scale, once read (R344). -/
  gs : Option Nat := .none
  updated : Nat := 0
  held : Nat := 0
  /-- Rule 2: pass 1 has run, with the new statistics of row i and column i, or none if one is not finite. -/
  pass1 : Bool := false
  stats : Option (Sparse (BitVec 32 × BitVec 32)) := .none
  ending : Option Ending := .none
  waiting : Bool := false
  deriving DecidableEq, Repr

/-- What a completion record reports beside the descriptor's own fields (R53). -/
structure Closing where
  status : Nat
  outcome : Nat := 0
  count0 : Nat := 0
  count1 : Nat := 0
  count2 : Nat := 0
  conflict : Bool := false
  deriving DecidableEq, Repr

/-- What a pool entry is doing. -/
inductive Work where
  | idle
  /-- It ended in the scan, and retires in the next cycle's retirements (R83). -/
  | ended (o : Closing)
  | task (r : TaskRun)
  | copy (r : CopyRun)
  | abort (r : AbortRun)
  | update (r : UpdateRun)
  | store (image : List Byte) (version : BitVec 32)
  deriving DecidableEq, Repr

/-- Where a pool entry stands (R83, R89). -/
inductive Stage where
  | fetched
  | waiting
  | admitted
  deriving DecidableEq, Repr

/-- A descriptor in the pool (R96). -/
structure Entry where
  id : Nat
  ring : Nat
  index : BitVec 16
  /-- 64 bytes, or 128 for a critical descriptor. -/
  bytes : List Byte
  stage : Stage := .fetched
  /-- Headgate cycles ready but unplaced (R98). -/
  ready : Nat := 0
  /-- Squall was active at some time of its life (R53). -/
  squall : Bool := false
  /-- Its checks are passed (R51). -/
  checked : Bool := false
  /-- Its admission was tried and waits for something outside the Headgate, so that it blocks no later one (R89). -/
  held : Bool := false
  /-- A live abort counts this entry as a target (R60). -/
  abortedBy : List Nat := []
  work : Work := .idle
  deriving DecidableEq, Repr

/-- The reservation of R98. -/
structure Reservation where
  ring : Nat
  index : BitVec 16
  handle : Nat
  entry : Nat
  deriving DecidableEq, Repr

/-- The Headgate (05). -/
structure Headgate where
  stall : BitVec 16 := 0x400
  reserve : BitVec 12 := 0x100
  stallSeen : Bool := false
  tokens : BitVec 4096 := 0
  /-- Pool entries in fetch order. -/
  pool : List Entry := []
  nextId : Nat := 0
  rsv : Option Reservation := .none
  /-- Headgate cycles with the pool full and nothing admitted or retired (R97). -/
  stuck : Nat := 0
  /-- An admission or retirement happened since the last Headgate cycle was counted. -/
  moved : Bool := false
  /-- Rings whose token descriptor has acted, and whether a task was admitted, in the cycle that runs (R83, R86, R89). -/
  actedRings : List Nat := []
  tookTask : Bool := false
  /-- The scan or the entry phase runs: what ends in it retires in phase 1 of the next cycle (R83). -/
  scan : Bool := false
  deriving DecidableEq, Repr

/-! ## Threads and cores (06-09, 11) -/

/-- A saved exception set: SU, MA or ES (R130). -/
structure ExcSet where
  state : Word := 0
  rpc : BitVec 48 := 0
  why : Word := 0
  fval : Word := 0
  shreg : BitVec 6 := 0
  shval : Word := 0
  hbase : BitVec 48 := 0
  spare : Word := 0
  deriving DecidableEq, Repr

/-- A fault or system call an instruction has raised, awaiting entry (R131, R135). -/
structure Exc where
  cause : BitVec 8
  info : BitVec 16 := 0
  fval : Word := 0
  rpc : BitVec 48
  target : BitVec 2
  /-- Cause 0x0C was raised by END, which reports every entry (R175). -/
  atEnd : Bool := false
  deriving DecidableEq, Repr

/-- The loop registers of a thread (R118). -/
structure LoopRegs where
  ls : Sparse (BitVec 48) := []
  le : Sparse (BitVec 48) := []
  lc : Sparse (BitVec 32) := []
  lstat : BitVec 4 := 0
  deriving DecidableEq, Repr

/-- An outstanding scalar load (R111) or atomic (R259). -/
structure PendingLoad where
  rd : Reg
  /-- The line it may place in the data L1 once its data is written; none once the L1 has given that line up or an
  access of the core has changed it meanwhile (R253, R258, R275). -/
  line : Option Nat := .none
  /-- The data has come from the L1 or the LLC and waits to be written. -/
  data : Option Word := .none
  atomic : Bool := false
  pc : BitVec 48
  addr : Nat
  /-- The line to place in the data L1 with the data: line, bytes, marks and hint (R253). -/
  fill : Option (Nat × List Byte × BitVec 4 × BitVec 2) := .none
  /-- A later instruction has written the register: the data is discarded (R112). -/
  dead : Bool := false
  /-- The base register it updated, its value before, and whether an earlier load's data for it was discarded by the
  update (R106). -/
  undo : Option (Reg × Word × Bool) := .none
  /-- The latch it executed under (R114), and the loop registers as they were before its end check (R120). -/
  latch : Option (Reg × Word) := .none
  loops : LoopRegs := {}
  /-- An earlier load has faulted: it is executed again, and what comes back for it is dropped. -/
  squashed : Bool := false
  deriving DecidableEq, Repr

/-- What a thread is doing. -/
inductive Run where
  | idle
  | running
  | waiting
  | filling
  | suspended
  | forwarded
  | wedged
  | stopping
  | stopped
  | finished
  deriving DecidableEq, Repr

/-- An entry of the imprecise fault log (R174). -/
structure LogEntry where
  addr : Word := 0
  pc : BitVec 48 := 0
  rep : Bool := false
  level : BitVec 2 := 0
  kind : BitVec 4 := 0
  element : BitVec 9 := 0
  deriving DecidableEq, Repr

/-- An imprecise vector memory instruction whose elements are outstanding (R173). -/
structure VecPending where
  vd : Option Reg
  faults : List LogEntry
  deriving DecidableEq, Repr

/-- The vector state of a thread (R153). -/
structure VecState where
  v : Sparse (BitVec 4096) := []
  count : BitVec 10 := 0
  start : BitVec 9 := 0
  flags : BitVec 6 := 0
  precise : Bool := false
  idle : BitVec 4 := 0
  hold : Bool := false
  fxr : BitVec 2 := 0
  ovs : Bool := false
  rm : BitVec 2 := 0
  ref : Bool := false
  log : List LogEntry := []
  lost : BitVec 8 := 0
  lpend : Bool := false
  pending : List VecPending := []
  deriving DecidableEq, Repr

/-- A tile instruction (R189). -/
inductive TileOp where
  | mma (o : TmmaOp)
  | load (o : TileMemOp)
  | store (o : TileMemOp)
  | scales (o : TileMemOp)
  | toVec (o : TileMoveOp)
  | toTile (o : TileMoveOp)
  | toMem (o : TileMoveOp)
  deriving DecidableEq, Repr

/-- A tile instruction in the queue or issued (R194, R195). -/
structure TileEntry where
  id : Nat
  op : TileOp
  half : Bool
  base : Word := 0
  stride : Word := 0
  scale : BitVec 32 := 0
  ref : Bool := false
  rm : BitVec 2 := 0
  ovs : Bool := false
  /-- Checked rows and the physical pieces (address, bytes) each one covers (R200). -/
  rows : List (Nat × List (Nat × Nat)) := []
  issued : Bool := false
  /-- Elements of a reducing TACCS that have been sent: a fault keeps them (R206, R374). -/
  sent : Nat := 0
  pc : BitVec 48 := 0
  deriving DecidableEq, Repr

/-- The tile state of a thread (R207, R459, R194). -/
structure TileState where
  grant : BitVec 2 := 0
  lease : BitVec 2 := 0
  start : BitVec 5 := 0
  queue : List TileEntry := []
  nextId : Nat := 0
  /-- A tile memory instruction that holds dispatch, with the rows checked so far (R194, R200). -/
  hold : Option TileEntry := .none
  deriving DecidableEq, Repr

/-- One lane generator: words a and b (R178). -/
structure Gen where
  a : Word := 0
  b : Word := 0
  deriving DecidableEq, Repr

/-- A register-aperture write that a full queue or busy bank holds (R280, R311, R387): the store, the
offset in BAR0, the width in bytes and the value. -/
structure ApertureWait where
  op : MemOp
  off : Nat
  width : Nat
  value : Word
  /-- The pending low half that the write has used up. -/
  low : Option (BitVec 32) := .none
  deriving DecidableEq, Repr

/-- Privilege and exception state of a thread (R130). -/
structure Priv where
  level : BitVec 2 := 0
  asid : BitVec 6 := 0
  talarm : Word := 0
  su : ExcSet := {}
  ma : ExcSet := {}
  es : ExcSet := {}
  esG31 : Word := 0
  /-- This hardware thread has escalated since reset. -/
  esLocked : Bool := false
  nicount : BitVec 13 := 0
  nilimit : BitVec 13 := 256
  deriving DecidableEq, Repr

/-- A hardware thread (R99, R130, R153, R459). -/
structure Thread where
  run : Run := .idle
  /-- Pool id of the task it holds, and its index (R92). -/
  task : Nat := 0
  index : Nat := 0
  pc : BitVec 48 := 0
  /-- g1-g31; g0 is never listed. -/
  g : Sparse Word := []
  ls : Sparse (BitVec 48) := []
  le : Sparse (BitVec 48) := []
  lc : Sparse (BitVec 32) := []
  lstat : BitVec 4 := 0
  /-- Return stack, newest first; how many are on the core; spills outstanding (R117). -/
  rstack : List (BitVec 48) := []
  cached : Nat := 0
  spills : Nat := 0
  sblo : BitVec 48 := 0
  sbhi : BitVec 48 := 0
  latch : Option (Reg × Word) := .none
  loads : List PendingLoad := []
  exc : Option Exc := .none
  stop : Bool := false
  aperture : Option ApertureWait := .none
  priv : Priv := {}
  vec : VecState := {}
  tile : TileState := {}
  gens : Sparse Gen := []
  deriving DecidableEq, Repr

/-- A line of a core's data L1: its bytes and the mask of those stored (R253). -/
structure L1Line where
  line : Nat
  data : List Byte
  mask : BitVec 128 := 0
  /-- The ASIDs whose stores it holds (R251). -/
  asids : List (BitVec 6) := []
  hint : BitVec 2 := 0
  poison : BitVec 4 := 0
  /-- Brought by the prefetcher and not yet used (R254). -/
  pf : Bool := false
  deriving DecidableEq, Repr

/-- One row of a tile: 512 data bits and 32 side-band bits (R186). -/
structure TileRow where
  data : BitVec 512 := 0
  scale : BitVec 32 := 0
  deriving DecidableEq, Repr

/-- The data addresses of a thread as its prefetcher follows them: the last, its distance from the one before, and
whether that distance has come twice in a row (R254). -/
structure Stride where
  last : Nat
  step : Int := 0
  steady : Bool := false
  deriving DecidableEq, Repr

/-- A core: its caches, tile storage, vector unit and counters (R186, R210, R253, R181, R433). -/
structure Core where
  /-- Data L1, least recently used first. -/
  l1d : List L1Line := []
  l1i : List Nat := []
  /-- What the prefetcher has seen of each of its threads. -/
  follow : Sparse Stride := []
  tlb : List TlbEntry := []
  /-- Weight row n of w_i at 32 i + n. -/
  wt : Sparse TileRow := []
  /-- Activation row m of t_k of array a at 256 a + 32 k + m. -/
  act : Sparse TileRow := []
  /-- Accumulator row m of acc_j of array a at 128 a + 32 j + m. -/
  accum : Sparse (BitVec 1024) := []
  tflags : BitVec 32 := 0
  vecUp : Bool := false
  waking : Bool := false
  pcSel : Sparse (BitVec 32) := []
  deriving DecidableEq, Repr

/-- An event controller (R147-R152). -/
structure Events where
  pend : BitVec 512 := 0
  en : BitVec 512 := 0
  held : BitVec 512 := 0
  mask : Sparse (BitVec 48) := []
  mod : Sparse (BitVec 16) := []
  deriving DecidableEq, Repr

/-! ## LLC and memory (11) -/

/-- What a request to a home slice asks (R259, R260, R266). -/
inductive Ask where
  | load (t : Nat) (rd : Reg) (bytes : Nat) (signed : Bool)
  | atomic (t : Nat) (rd : Reg) (op : BitVec 4) (bytes : Nat) (operand compare : Nat)
  | reduce (who : Option Nat) (op : BitVec 3) (operand : Nat)
  /-- The place of an access of another kind that found no miss register: it goes on once the line is there. -/
  | access (who : Nat) (read : Bool)
  | prefetch
  deriving DecidableEq, Repr

/-- A request at a slice: what it asks, where, and its hint. -/
structure Request where
  ask : Ask
  addr : Nat
  hint : BitVec 2 := 0
  /-- It has been a waiter of the line's fill, and is counted as such. -/
  joined : Bool := false
  deriving DecidableEq, Repr

/-- A line held in an LLC slice (R264). -/
structure LlcLine where
  line : Nat
  way : Nat
  data : List Byte
  poison : BitVec 4 := 0
  age : BitVec 2 := 1
  keep : Bool := false
  dirty : Bool := false
  /-- Brought by a prefetch and not yet demanded (R269). -/
  untouched : Bool := false
  /-- The requester whose waiting access it is the turn of, when its agent makes it again (R266). -/
  owed : Option Nat := .none
  deriving DecidableEq, Repr

/-- An eviction buffer entry (R265). -/
structure Evicted where
  line : Nat
  data : List Byte
  poison : BitVec 4 := 0
  sent : Bool := false
  /-- Written or reduced after its write-back was sent. -/
  redirty : Bool := false
  deriving DecidableEq, Repr

/-- A miss register with its waiters, oldest first (R266). -/
structure Miss where
  line : Nat
  waiters : List Request
  deriving DecidableEq, Repr

/-- The misses of one requester: the line of its last one, and whether a run of them descends or ascends (R269). -/
structure MissRun where
  who : Nat
  last : Nat
  descends : Option Bool := .none
  deriving DecidableEq, Repr

/-- An LLC slice (R263-R270). -/
structure Slice where
  bankCap : BitVec 8 := 0x20
  dfEv : Bool := false
  pfEn : Bool := true
  pfDepth : BitVec 3 := 2
  wayEn : BitVec 16 := 0xFFFF
  wayOn : BitVec 16 := 0xFFFF
  /-- Ways being powered down or up, and a write of LLC_WAYEN made meanwhile (R270). -/
  goingOff : BitVec 16 := 0
  goingOn : BitVec 16 := 0
  nextEn : Option (BitVec 16) := .none
  retired : BitVec 16 := 0
  /-- Corrected errors of each way (R427). -/
  corrected : Sparse Nat := []
  lines : List LlcLine := []
  evicted : List Evicted := []
  misses : List Miss := []
  queue : List Request := []
  /-- Reductions arrived and not yet applied, oldest first. -/
  reds : List Request := []
  filter : List Nat := []
  /-- The demand misses the prefetcher follows (R269). -/
  runs : List MissRun := []
  deriving DecidableEq, Repr

/-- A DRAM channel: LPDDR5X channel k at k, channel c of Basin stack s at 64 + 32 s + c (R272, R273, R414). -/
structure DramChannel where
  trained : Bool := false
  blocked : Bool := false
  attempts : Nat := 0
  lost : Bool := false
  selfRefresh : Bool := false
  lastAccess : Word := 0
  /-- Bank refreshed last. -/
  refreshed : Nat := 0
  /-- Accesses of each requester whose transfer its arbiter has not taken up (R298, R299). -/
  transfers : Sparse Nat := []
  deriving DecidableEq, Repr

/-! ## Basin stacks (12) -/

/-- What the module itself runs as a job (R291). -/
inductive ModuleJob where
  /-- A layer update on engines 0 to `engines - 1`; the pool entry holds its progress. -/
  | update (p engines : Nat)
  /-- A Haze sample of layer `layer`, offered for step `step`. -/
  | haze (layer : Nat) (step : BitVec 48) (offers : BitVec 32)
  /-- The scale record of a tensor in the commit of bank `b`. -/
  | commit (b tensor : Nat)
  deriving DecidableEq, Repr

/-- A job, queued or started (R280-R292). -/
structure Job where
  id : Nat
  /-- Address of its record, and the record's 64 bytes once read. -/
  addr : Word := 0
  record : List Byte := []
  /-- Posting thread and its task, with what the stack captured (R280). -/
  thread : Nat
  task : Nat
  asid : BitVec 6
  tag : BitVec 32
  ring : Nat
  level : BitVec 2
  kind : Option ModuleJob := .none
  /-- Its checks have passed: it starts when an engine takes its first chunk (R288). -/
  checked : Bool := false
  started : Bool := false
  total : Nat := 0
  /-- Chunks (or rows) completed, and those suspended on a fault. -/
  complete : List Nat := []
  suspended : List Nat := []
  /-- Chunk partials of REDUCE, and per-chunk magnitude not folded yet. -/
  partials : Sparse (BitVec 32) := []
  cleaned : Bool := false
  /-- Lines written directly and not yet back-invalidated (R297). -/
  direct : List Nat := []
  conflict : Bool := false
  squall : Bool := false
  ending : Option (BitVec 16 × Nat) := .none
  /-- No DONE word is written (R283, R290). -/
  noDone : Bool := false
  deriving DecidableEq, Repr

/-- A chunk on an engine; `done` once its arithmetic has been performed (R286). -/
structure Running where
  job : Nat
  chunk : Nat
  done : Bool := false
  deriving DecidableEq, Repr

/-- A gather prefetch buffer entry (R295). -/
structure GatherLine where
  line : Nat
  data : List Byte
  /-- The read is still outstanding. -/
  open_ : Bool := true
  /-- A snoop has dropped it, or came while its read was outstanding. -/
  stale : Bool := false
  used : Bool := false
  deriving DecidableEq, Repr

/-- A DRAM access of a stack that holds or waits for a request register (R278). -/
structure DramRequest where
  bank : Nat
  requester : Nat
  line : Nat := 0
  deriving DecidableEq, Repr

/-- Pending maximum of one tensor in one bank (R234). -/
structure Pend where
  p : BitVec 32 := 0
  v : Bool := false
  nonfin : Bool := false
  deriving DecidableEq, Repr

/-- A Basin stack (R276-R297). -/
structure Stack where
  bankCap : BitVec 10 := 0x80
  pfEn : Bool := true
  pfDepth : BitVec 4 := 4
  lastStatus : BitVec 16 := 0
  conflict : Bool := false
  badRec : Bool := false
  hostPost : Bool := false
  jobs : List Job := []
  nextId : Nat := 0
  engines : Sparse Running := []
  gathers : Sparse (List GatherLine) := []
  /-- Request registers held, and requests waiting for one, oldest first. -/
  held : List DramRequest := []
  waiting : List DramRequest := []
  /-- Pending maxima: tensor t of bank b at 4096 b + t; and those taken at OPEN (R235). -/
  pend : Sparse Pend := []
  took : Sparse Pend := []
  /-- Lane generators: lane l of engine e at 16 e + l (R286). -/
  gens : Sparse Gen := []
  deriving DecidableEq, Repr

/-! ## Arbiters (13) -/

/-- One requester of an arbiter instance (R299-R305). -/
structure Requester where
  shadowPrio : BitVec 2 := 0
  shadowQuota : BitVec 11 := 0
  prio : BitVec 2 := 0
  quota : BitVec 11 := 0
  age : Nat := 0
  backoff : Nat := 4
  left : Nat := 0
  used : Nat := 0
  /-- Length and beats moved of the transfer pending, when there is one. -/
  transfer : Option (Nat × Nat) := .none
  /-- No beat of the transfer can move in the next data phase (R382). -/
  blocked : Bool := false
  deriving DecidableEq, Repr

/-- An arbiter instance (R298-R309). -/
structure Arbiter where
  reqs : Sparse Requester := []
  window : Nat := 0
  /-- Owner of the coming data phase. -/
  owner : Option Nat := .none
  /-- Requester granted last at each PRIO. -/
  rr : Sparse Nat := []
  commit : Option Bool := .none
  /-- The owner keeps the resource until its transfer ends (R308). -/
  hold : Bool := false
  deriving DecidableEq, Repr

/-! ## Step Gate, stash and Haze (14) -/

/-- A vote (R316, R319). -/
structure Vote where
  finite : Bool
  members : BitVec 11
  step : BitVec 48
  min : BitVec 48
  max : BitVec 48
  node : BitVec 12
  layer : BitVec 12
  deriving DecidableEq, Repr

/-- Bank states of R310. -/
inductive BankState where
  | idle
  | collecting
  | sent
  | opened
  | refused
  deriving DecidableEq, Repr

/-- The report of a resolution (R317, R318). -/
structure Report where
  reason : BitVec 2 := 0
  min : BitVec 48 := 0
  max : BitVec 48 := 0
  finite : Bool := false
  members : BitVec 11 := 0
  node : BitVec 12 := 0
  layer : BitVec 12 := 0
  deriving DecidableEq, Repr

/-- A vote bank (R310). DEDUCED (log 42). -/
structure Bank where
  state : BankState := .idle
  opened : Bool := false
  cast : Option Vote := .none
  nonfin : Bool := false
  layer : BitVec 12 := 0
  step : BitVec 48 := 0
  /-- Child votes by child index. -/
  kids : Sparse Vote := []
  report : Report := {}
  /-- Children whose votes a timeout stood in for (R320). -/
  missed : List Nat := []
  /-- When the bank left IDLE at the root (R320). -/
  since : Option Word := .none
  /-- The tensor the commit takes next (R235). -/
  tensor : Nat := 0
  deriving DecidableEq, Repr

/-- A gate event that waits for its bank (R311). -/
inductive GateEvent where
  | opening (task : Nat) (step : BitVec 48)
  | fold (t : Nat) (step : BitVec 48) (nonfin : Bool) (layer : BitVec 12)
  | cast (task : Nat) (step : BitVec 48)
  | child (c : Nat) (v : Vote)
  deriving DecidableEq, Repr

/-- The Step Gate (R310-R323). -/
structure Gate where
  parent : BitVec 12 := 0
  root : Bool := true
  members : BitVec 11 := 1
  children : List (BitVec 12) := []
  timeout : BitVec 16 := 0
  force : Bool := false
  stepCount : BitVec 48 := 0
  timedOut : Bool := false
  dupCast : Bool := false
  late : Bool := false
  noRole : Bool := false
  loadRej : Bool := false
  bank0 : Bank := {}
  bank1 : Bank := {}
  waiting : List GateEvent := []
  /-- Steps whose commit update has retired, with its TAG and ring (R291, R355). -/
  commits : List (BitVec 48 × BitVec 32 × Nat) := []
  deriving DecidableEq, Repr

/-- Stash and Haze settings (R324) and Haze offers (R329). -/
structure Haze where
  scaleBase : Word := 0
  stashTab : Word := 0
  hazeTab : Word := 0
  hazeOut : Word := 0
  layers : BitVec 13 := 0
  ctoken : Option (BitVec 12) := .none
  rtoken : Option (BitVec 12) := .none
  enabled : Bool := false
  asid : BitVec 6 := 0
  offers : Sparse (BitVec 32) := []
  deriving DecidableEq, Repr

/-! ## Sluiceway (16) -/

/-- Port states of R362. -/
inductive PortState where
  | disabled
  | loopback
  | wait
  | train
  | align
  | handshake
  | active
  | failed
  deriving DecidableEq, Repr

/-- A Sluiceway port (R362). -/
structure Port where
  state : PortState := .disabled
  /-- Time the state was entered. -/
  since : Word := 0
  reason : BitVec 3 := 0
  lock : BitVec 8 := 0
  enable : Bool := true
  errMax : BitVec 16 := 0x40
  /-- Passed LOOPBACK since the dimension last returned there. -/
  passed : Bool := false
  /-- ACTIVE and matched (R365). -/
  matched : Bool := false
  /-- Time of the last valid reception. -/
  heard : Word := 0
  /-- A LINK message is to be sent on it (R362, R365, R381). -/
  linkDue : Bool := false
  deriving DecidableEq, Repr

/-- A fabric message: its header and the slots that follow, 16 bytes each (R368). -/
structure Msg where
  type : BitVec 8
  rev : Bool := false
  op : BitVec 8 := 0
  dst : BitVec 12
  src : BitVec 12
  tid : BitVec 16 := 0
  addr : Nat := 0
  /-- Header byte 15, used by CTL_ACK. -/
  byte15 : BitVec 8 := 0
  /-- A reserved bit of its FLAGS, LEN, DST or SRC is set. -/
  reserved : Bool := false
  payload : List Byte := []
  deriving DecidableEq, Repr

/-- A message queued at an egress, with the dimension it enters, and the way it must leave by. -/
structure Queued where
  msg : Msg
  /-- It continues in the dimension it arrived in (R370). -/
  continues : Bool
  /-- Way whose arrival buffer holds it, when it passes through. -/
  arrived : Option Nat := .none
  /-- Slots of that buffer it holds: its size when it arrived. -/
  slots : Nat := 0
  deriving DecidableEq, Repr

/-- A flit as it goes out (R366): its kind and number, the ACK, the slots of each VC it returns, and its messages. -/
structure Flit where
  kind : BitVec 2
  seq : BitVec 16 := 0
  ack : BitVec 16
  returns : List Nat := []
  msgs : List Msg := []
  deriving DecidableEq, Repr

/-- A data flit held for retry (R367). -/
structure Sent where
  seq : BitVec 16
  msgs : List Msg
  port : Nat := 0
  deriving DecidableEq, Repr

/-- A Sluiceway way (R365-R370, R382). -/
structure Way where
  up : Bool := false
  hold : Bool := false
  holdSince : Word := 0
  /-- The check 2 s after assertion is still to come (R363). -/
  holdDue : Bool := false
  /-- Time a failed training may be retried (R363). -/
  retryAt : Option Word := .none
  misWire : Bool := false
  neigh : BitVec 12 := 0
  ports : Sparse Port := []
  /-- Sequence number of the next data flit sent, and the last received in order. -/
  seq : BitVec 16 := 0
  ack : BitVec 16 := 0xFFFF
  /-- A NAK was sent and data flits are discarded until the next in order (R367). -/
  discarding : Bool := false
  /-- Data flits received ahead of order within the window. -/
  early : Sparse (List Msg) := []
  /-- Unacknowledged flits, oldest first, and the time the oldest was last sent or acknowledged. -/
  retry : List Sent := []
  retrySince : Word := 0
  credits : Sparse Nat := []
  /-- Slots freed and not yet returned, per VC; flits for which Squall still holds the return (R435). -/
  freed : Sparse Nat := []
  heldBack : Nat := 0
  /-- Requester queues 0-7, oldest message first. -/
  queues : Sparse (List Queued) := []
  /-- The flits its last sending put on its ports, in order (R366, R367). -/
  wire : List (Nat × Flit) := []
  deriving DecidableEq, Repr

/-- Which access of this module waits for a response (R375). -/
inductive Requestor where
  | load (t : Nat) (rd : Reg) (bytes : Nat) (signed : Bool) (hint : BitVec 2)
  | atomic (t : Nat) (rd : Reg) (bytes : Nat)
  | reduce (t : Option Nat)
  | write (owner : FaultOwner)
  | line (owner : FaultOwner)
  /-- The prefetcher of thread `t`; `keep` while the core's L1 may still take the line (R254, R258). -/
  | prefetch (t : Nat) (keep : Bool)
  deriving DecidableEq, Repr

/-- A fabric request tag in use (R375). -/
structure Tag where
  tid : BitVec 16
  who : Requestor
  node : BitVec 12
  addr : Nat
  va : Word := 0
  /-- The request as it was sent, and when. -/
  msg : Msg
  sent : Word
  /-- The way it left by. -/
  way : Nat
  /-- Timed out, and out of use until a further RTO has passed. -/
  quarantined : Bool := false
  deriving DecidableEq, Repr

/-- A message for this module that has not been handled yet, with the way whose buffer holds it (R369). -/
structure Arrived where
  msg : Msg
  way : Option Nat := .none
  deriving DecidableEq, Repr

/-- A VOTE or RESULT held until acknowledged (R378). -/
structure HeldMsg where
  msg : Msg
  last : Word
  deriving DecidableEq, Repr

/-- The fabric (16). -/
structure Fabric where
  ways : Sparse Way := []
  valid : Bool := false
  order : Bool := false
  nx : BitVec 6 := 1
  ny : BitVec 6 := 1
  node : BitVec 12 := 0
  rto : BitVec 8 := 0x0A
  combine : Bool := true
  table : BitVec 16384 := 0
  tags : List Tag := []
  heldMsgs : List HeldMsg := []
  /-- Gate messages already passed on: source, type and step (R378). -/
  seen : List (BitVec 12 × BitVec 8 × BitVec 48) := []
  /-- Lines of other modules fetched for an access of this one, with their data; true where poisoned. -/
  remote : List (Nat × List Byte × Bool) := []
  /-- Of these, the lines the elements of a vector instruction have used; empty between commands. -/
  spent : List Nat := []
  /-- Lines of other modules that could not be read: for whom, the line and the fault kind (R252, R374). -/
  lost : List (Requestor × Nat × Nat) := []
  /-- Messages for this module not handled yet, oldest first. -/
  inbox : List Arrived := []
  /-- Requests an ERR answered, sent again once their fault is resumed (R374). -/
  failed : List Tag := []
  deriving DecidableEq, Repr

/-! ## Weir (17) -/

/-- State of an expert at this home (R385). -/
inductive ExpertState where
  | opened
  | closed
  | returning
  deriving DecidableEq, Repr

/-- A granted slot: who holds it, and the bytes arrived (R393, R394). -/
structure Granted where
  src : BitVec 12
  entry : Nat
  vbytes : Nat
  arrived : Nat := 0
  deriving DecidableEq, Repr

/-- One expert: its table entry (bytes 8-55 of the body) and its state at this home (R384, R385). -/
structure Expert where
  body : List Byte := []
  state : ExpertState := .opened
  round : BitVec 16 := 0
  slots : Sparse Granted := []
  ends : Nat := 0
  nextEnds : Nat := 0
  /-- First DISPATCH or END of the round (R394). -/
  since : Option Word := .none
  /-- Thread whose WP_RETURN is being served (R395). -/
  writer : Option Nat := .none
  deriving DecidableEq, Repr

/-- Where a choice of a batch stands (R390, R392). -/
inductive ChoicePhase where
  | fresh
  | awaiting (home : BitVec 12) (since : Word)
  | retry (home : BitVec 12) (since : Word)
  | granted (since : Word)
  | lost (since : Word)
  deriving DecidableEq, Repr

/-- A token-table entry in use (R390). -/
structure Choice where
  batch : Nat
  token : Nat
  choice : Nat
  expert : Nat
  tried : Nat := 0
  /-- A DISPATCH of this choice has been sent. -/
  sent : Bool := false
  phase : ChoicePhase := .fresh
  arrived : Nat := 0
  deriving DecidableEq, Repr

/-- A batch queued or running (R387-R396). -/
structure Batch where
  id : Nat
  addr : Word
  record : List Byte := []
  thread : Nat
  task : Nat
  asid : BitVec 6
  tag : BitVec 32
  ring : Nat
  level : BitVec 2
  started : Bool := false
  /-- END messages have been sent. -/
  ended : Bool := false
  combined : List Nat := []
  /-- How choice `K t + j` ended: 0 NONE, 1 staged, 2 dropped, 3 lost. -/
  outcomes : Sparse Nat := []
  /-- Physical page of each virtual page the batch uses (R388). -/
  pages : Sparse Nat := []
  stopped : Bool := false
  atStop : Nat := 0
  squall : Bool := false
  ending : Option (BitVec 16 × Nat) := .none
  waiting : Bool := false
  noDone : Bool := false
  deriving DecidableEq, Repr

/-- The Weir engine (17). -/
structure Weir where
  tto : BitVec 8 := 0x14
  cto : BitVec 8 := 0x0A
  retry : BitVec 8 := 2
  badReturn : Bool := false
  badMsg : Bool := false
  hostPost : Bool := false
  experts : Sparse Expert := []
  /-- Token table, by entry number. -/
  entries : Sparse Choice := []
  batches : List Batch := []
  nextId : Nat := 0
  deriving DecidableEq, Repr

/-! ## Clocks, power, reset and boot (18) -/

/-- Where a switching sequence stands (R405). -/
inductive Switching where
  | none
  /-- Dividing down to `high` before the switch to the hold clock. -/
  | down (high : Nat)
  /-- On the hold clock, relocking. -/
  | relock
  /-- Dividing down to the target. -/
  | up
  deriving DecidableEq, Repr

/-- A multiplying loop (R403, R405, R408). -/
structure Loop where
  lock : Bool := false
  coast : Bool := false
  coasted : Bool := false
  src : BitVec 2 := 0
  mult : BitVec 24 := 0
  div : Nat := 1
  phase : Switching := .none
  /-- Target source, multiplier and divider of the sequence, and the command that waits on it. -/
  target : BitVec 2 × BitVec 24 × Nat := (0, 0, 1)
  command : Option Nat := .none
  stopped : Bool := false
  deriving DecidableEq, Repr

/-- Reset kinds of R415. -/
inductive ResetKind where
  | powerOn
  | fundamental
  | hostLink
  | warm
  deriving DecidableEq, Repr

/-- Clocks, power state and boot (18). -/
structure Clocks where
  srcFail : BitVec 4 := 0
  srcGood : BitVec 4 := 0xF
  gtouchAny : Bool := false
  gateRej : Bool := false
  monDiv : BitVec 16 := 0
  monSel : BitVec 6 := 0
  loops : Sparse Loop := []
  /-- CK_EN and CK_GTOUCH by unit handle; an unlisted CK_EN bit is PRESENT. -/
  gated : BitVec 384 := 0
  touched : BitVec 384 := 0
  standbyReq : Bool := false
  rej : Bool := false
  moving : Bool := false
  standby : Bool := false
  seed : Word := 0
  cause : BitVec 4 := 0
  /-- Last boot step completed. -/
  step : Nat := 0
  /-- The reset whose boot is running, and the step it is at; none once boot has ended. -/
  booting : Option (ResetKind × Nat) := some (.powerOn, 1)
  bootFail : Bool := false
  fallback : Bool := false
  bank : Bool := false
  code : BitVec 8 := 0
  whereAt : BitVec 8 := 0
  deriving DecidableEq, Repr

/-- What stands between a warm-reset command and its reset (R415, R419), and boot steps to run. -/
structure ResetPending where
  /-- Times at which records of 0x86 became visible, oldest first, each with the new seed and CLEARMEM. -/
  warm : List (Word × Option Word × Bool) := []
  /-- The warm reset running clears memory. -/
  clearMem : Bool := false
  deriving DecidableEq, Repr

/-! ## Errors and Squall (19) -/

/-- An error record (R428, R429). -/
structure ErrorRecord where
  cls : BitVec 4 := 0
  dcode : BitVec 8 := 0
  unit : BitVec 15 := 0
  seq : BitVec 32 := 0
  addr : Word := 0
  rep : BitVec 16 := 0
  info : BitVec 48 := 0
  time : Word := 0
  deriving DecidableEq, Repr

/-- Error reporting (R426-R433). -/
structure Errors where
  en : Bool := false
  logCe : Bool := false
  irqMask : BitVec 16 := 0x81FC
  vector : BitVec 11 := 0
  clearing : Option (BitVec 15) := .none
  fatal : Option ErrorRecord := .none
  badHead : Bool := false
  lost : Bool := false
  head : BitVec 7 := 0
  tail : BitVec 7 := 0
  seq : BitVec 32 := 0
  log : Sparse ErrorRecord := []
  /-- A FATAL error keeps the module stopped (R430). -/
  stopped : Bool := false
  deriving DecidableEq, Repr

/-- Squall (R435-R437). -/
structure Squall where
  enabled : Bool := false
  active : Bool := false
  knobs : BitVec 5 := 0
  /-- Bytes 40-63 of the last accepted body. -/
  cfg : List Byte := []
  gen : Gen := {}
  /-- Time of the decode of a disable. -/
  disabledAt : Option Word := .none
  /-- Headgate cycles the admission scan is still skipped, and flits a credit return is held. -/
  skip : Nat := 0
  deriving DecidableEq, Repr

/-! ## Hardware and the part (00 R3, 20) -/

/-- Part numbers of R3. -/
inductive Part where
  | a
  | b
  | s
  deriving DecidableEq, Repr

/-- A firmware bank (R420, R421). -/
structure FwBank where
  valid : Bool := false
  version : BitVec 32 := 0
  image : List Byte := []
  deriving DecidableEq, Repr

/-- The part, its fuses, the board and its pins (R3, R420, R439-R453). DESIGN CHOICE (log 9). PRESUMED (log 58).
DESIGN CHOICE (log 65). -/
structure Board where
  part : Part := .a
  uid : Word := 0
  serial : List Byte := []
  bank0 : FwBank := { valid := true }
  bank1 : FwBank := {}
  /-- Active bank, and version of the running image. -/
  active : Bool := false
  running : BitVec 32 := 0
  /-- The running image itself, as step 2 loaded it. -/
  image : List Byte := []
  /-- The 24 V input is in a usable band; it is in an excursion. -/
  input : Bool := true
  excursion : Bool := false
  /-- Rails 1-5 of R444 that are up. -/
  rails : BitVec 5 := 0
  pwrOk : Bool := false
  thermTrip : Bool := false
  /-- Latest reading of die k (0-3 CD, 4-5 IOD, 6-13 stacks), and its running excursion. -/
  temp : Sparse (BitVec 16) := []
  hot : Sparse Bool := []
  /-- SMB_ADDR, as the carrier straps it (R452). -/
  smbAddr : BitVec 2 := 0
  /-- What the bus's controller says of the transaction that comes: its address, and whether it is a Block Read with PEC. -/
  busAddr : BitVec 7 := 0x58
  busPec : Bool := false
  /-- The bytes of the last transaction that the module gave on the management bus; none for a NACK. -/
  smbus : Option (List Byte) := .none
  deriving DecidableEq, Repr

/-! ## The command authenticator (04) -/

/-- A key slot (R77, R78). -/
structure KeySlot where
  /-- 32 key bytes when the slot holds a key. -/
  key : Option (List Byte) := .none
  perms : BitVec 7 := 0
  last : Word := 0
  ceil : Word := 0
  deriving DecidableEq, Repr

/-- The non-volatile store of the authenticator. -/
structure Auth where
  slot0 : KeySlot := {}
  slot1 : KeySlot := {}
  slot2 : KeySlot := {}
  slot3 : KeySlot := {}
  deriving DecidableEq, Repr

/-! ## The whole machine -/

/-- Everything but the queue and the authenticator's key slots. -/
structure Module where
  time : Word := 0
  /-- How many free values have been taken (the model's own counter, log 4). -/
  freeCount : Nat := 0
  host : HostPort := {}
  faults : FaultRing := {}
  hg : Headgate := {}
  threads : Sparse Thread := []
  cores : Sparse Core := []
  events : Sparse Events := []
  mem : List Host.Cell := []
  /-- Poisoned 32-byte units of memory, by address / 32 (R274). -/
  poison : Sparse Bool := []
  slices : Sparse Slice := []
  drams : Sparse DramChannel := []
  basins : Sparse Stack := []
  arbs : Sparse Arbiter := []
  gate : Gate := {}
  haze : Haze := {}
  freezeTab : BitVec 4096 := 0
  freezeGen : BitVec 32 := 0
  fabric : Fabric := {}
  weir : Weir := {}
  clocks : Clocks := {}
  pendingReset : ResetPending := {}
  errors : Errors := {}
  squall : Squall := {}
  board : Board := {}
  /-- Translations of each DMA group, stack engine group and the Weir, by unit handle. -/
  tlbs : Sparse (List TlbEntry) := []
  /-- The walk cache of each core, DMA group, stack engine group and the Weir, by unit handle. -/
  walks : Sparse (List WalkEntry) := []
  /-- Every 48-bit counter: block number * 65536 + index (R432). -/
  stats : Sparse Counter := []
  deriving DecidableEq, Repr

/-- The state of the module, with the commands that wait. -/
structure State where
  pending : List Instr := []
  auth : Auth := {}
  m : Module := {}
  deriving DecidableEq, Repr

/-- Slot 0 as shipped and after the first power-on (R78, R79); its key is a DESIGN CHOICE (log 5). -/
def shippedSlot : KeySlot :=
  { key := some (List.replicate 32 0), perms := 0x7F, last := 65536, ceil := 65536 }

/-- The machine at the beginning of a power-on reset: every register at its Reset value, boot at step 1.
DESIGN CHOICE (log 8). -/
def State.reset : State := { auth := { slot0 := shippedSlot } }

end Sys2Proof.Machine
end

