-- ==== Sys2Proof/Machine/Units.lean ====
section
/-! DEFINITION. The unit tree (02): handles, classes, presence and the words of a unit header. -/

namespace Sys2Proof.Machine

/-! ## Handles (R31) -/

def handleDie (d : Nat) : Nat := 1 + d
def handleIodW : Nat := 5
def handleIodE : Nat := 6
def handleCluster (d k : Nat) : Nat := 7 + 32 * d + k
def handleSlice (sl : Nat) : Nat := 19 + 32 * (sl / 16) + sl % 16
def handleEvents (d : Nat) : Nat := 35 + 32 * d
def handleStack (s : Nat) : Nat := 36 + 32 * (s / 2) + s % 2
def handleHostPort : Nat := 135
def handleController (p : Nat) : Nat := if p < 8 then 136 + p else 151 + (p - 8)
/-- Ways N 0 and W 3 are on IOD-W, E 1 and S 2 on IOD-E (R359). -/
def handleWay (w : Nat) : Nat :=
  if w = 0 then 144 else if w = 3 then 145 else if w = 1 then 159 else 160
def handleAuth : Nat := 146
def handleDma (east : Bool) : Nat := if east then 162 else 148
def handleClocks : Nat := 149
def handleSquall : Nat := 150
def handleWeir : Nat := 161
def handleCore (c : Nat) : Nat := 163 + c
/-- Ports 0-3 of ways N, W, E and S, in that order (R31). -/
def handlePort (w i : Nat) : Nat :=
  355 + 4 * (if w = 0 then 0 else if w = 3 then 1 else if w = 1 then 2 else 3) + i

/-- Number of unit headers (R31). -/
def unitCount : Nat := 371

/-- What a handle names. -/
inductive UnitName where
  | module
  | die (d : Nat)
  | iod (east : Bool)
  | cluster (d k : Nat)
  | core (c : Nat)
  | slice (sl : Nat)
  | events (d : Nat)
  | stack (s : Nat)
  | segment (d : Nat)
  | hostPort
  | controller (p : Nat)
  | way (w : Nat)
  | port (w i : Nat)
  | weir
  | auth
  | steward
  | dma (east : Bool)
  | clocks
  | squall
  deriving DecidableEq, Repr

/-- The unit at a handle (R31). -/
def unitOf (h : Nat) : Option UnitName :=
  if h = 0 then some .module
  else if h < 5 then some (.die (h - 1))
  else if h < 7 then some (.iod (h == 6))
  else if h < 135 then
    let d := (h - 7) / 32
    let i := (h - 7) % 32
    if i < 12 then some (.cluster d i)
    else if i < 28 then some (.slice (16 * d + (i - 12)))
    else if i = 28 then some (.events d)
    else if i < 31 then some (.stack (2 * d + (i - 29)))
    else some (.segment d)
  else if h = 135 then some .hostPort
  else if h < 144 then some (.controller (h - 136))
  else if h = 144 then some (.way 0)
  else if h = 145 then some (.way 3)
  else if h = 146 then some .auth
  else if h = 147 then some .steward
  else if h = 148 then some (.dma false)
  else if h = 149 then some .clocks
  else if h = 150 then some .squall
  else if h < 159 then some (.controller (8 + (h - 151)))
  else if h = 159 then some (.way 1)
  else if h = 160 then some (.way 2)
  else if h = 161 then some .weir
  else if h = 162 then some (.dma true)
  else if h < 355 then some (.core (h - 163))
  else if h < 371 then
    let q := (h - 355) / 4
    some (.port (if q = 0 then 0 else if q = 1 then 3 else if q = 2 then 1 else 2) ((h - 355) % 4))
  else .none

/-! ## Presence (R3) -/

def stackPresent (p : Part) (s : Nat) : Bool :=
  s < 8 && (match p with
    | .b => s % 2 == 0
    | _ => true)

def portPresent (p : Part) (w i : Nat) : Bool :=
  w < 4 && (match p with
    | .a => i < 4
    | .b => i < 2
    | .s => false)

def wayPresent (p : Part) (w : Nat) : Bool := portPresent p w 0

def weirPresent (p : Part) : Bool :=
  match p with
  | .s => false
  | _ => true

def unitPresent (p : Part) : UnitName → Bool
  | .stack s => stackPresent p s
  | .way w => wayPresent p w
  | .port w i => portPresent p w i
  | .weir => weirPresent p
  | _ => true

/-- PRESENT of the unit at a handle; false where no header stands. -/
def handlePresent (p : Part) (h : Nat) : Bool :=
  match unitOf h with
  | some u => unitPresent p u
  | .none => false

/-! ## Shape -/

/-- The parent of a unit (R29, R31). -/
def unitParent : UnitName → Nat
  | .module => 0
  | .die _ | .iod _ => 0
  | .cluster d _ | .events d | .segment d => handleDie d
  | .slice sl => handleDie (sl / 16)
  | .stack s => handleDie (s / 2)
  | .core c => handleCluster (c / 48) (c % 48 / 4)
  | .controller p => if p < 8 then handleIodW else handleIodE
  | .way w => if w = 0 || w = 3 then handleIodW else handleIodE
  | .port w _ => handleWay w
  | .weir => handleIodE
  | .dma east => if east then handleIodE else handleIodW
  | .hostPort | .auth | .steward | .clocks | .squall => handleIodW

/-- Whether `h` is `top` or a descendant of it; the tree is four levels deep (R31). -/
def below (top h : Nat) : Bool :=
  let up (x : Nat) : Nat := match unitOf x with
    | some u => unitParent u
    | .none => 0
  top == 0 || h == top || up h == top || up (up h) == top || up (up (up h)) == top

/-- Cores below a placement target, with the first core and how many (R88, R90). -/
def coresBelow : UnitName → Nat × Nat
  | .module => (0, 192)
  | .die d => (48 * d, 48)
  | .cluster d k => (48 * d + 4 * k, 4)
  | .core c => (c, 1)
  | _ => (0, 0)

/-- PLACE of a class (R29). -/
def placeable : UnitName → Bool
  | .module | .die _ | .cluster _ _ | .core _ => true
  | _ => false

/-- CLASS and INSTANCE (R25, R29). INSTANCE of a cluster, port, I/O die and DMA group is its place in handle order.
DESIGN CHOICE (log 67). -/
def unitClass : UnitName → Nat × Nat
  | .module => (0x0001, 0)
  | .die d => (0x0002, d)
  | .cluster d k => (0x0003, 12 * d + k)
  | .core c => (0x0004, c)
  | .slice sl => (0x0005, sl)
  | .events d => (0x0006, d)
  | .stack s => (0x0007, s)
  | .segment d => (0x0008, d)
  | .iod east => (0x0009, if east then 1 else 0)
  | .hostPort => (0x000A, 0)
  | .controller p => (0x000B, p)
  | .way w => (0x000C, w)
  | .port w i => (0x000D, 4 * w + i)
  | .weir => (0x000E, 0)
  | .auth => (0x000F, 0)
  | .steward => (0x0010, 0)
  | .dma east => (0x0011, if east then 1 else 0)
  | .clocks => (0x0012, 0)
  | .squall => (0x0013, 0)

/-- Present Basin stacks in a list of stack numbers. -/
def countStacks (p : Part) (l : List Nat) : Nat := (l.filter (stackPresent p)).length

/-- Number and first handle of a unit's children (R26, R31). -/
def unitChildren : UnitName → Nat × Nat
  | .module => (6, 1)
  | .die d => (32, 7 + 32 * d)
  | .iod east => if east then (12, 151) else (16, 135)
  | .cluster d k => (4, 163 + 48 * d + 4 * k)
  | .way w => (4, handlePort w 0)
  | _ => (0, 0)

/-- CLASS_CAP (R29). -/
def classCap (p : Part) : UnitName → Nat
  | .module => 192 + 0x10000 * countStacks p (List.range 8)
  | .die d => 48 + 0x10000 * countStacks p [2 * d, 2 * d + 1]
  | .cluster _ _ => 4
  | .core _ => 0x742
  | .slice _ => 4 + 0x100 * 16 + 0x10000 * 256
  | .events _ => 512
  | .stack _ => 32 + 0x100 * 4 + 0x10000 * 2048
  | .iod east =>
    let c := unitChildren (.iod east)
    ((List.range c.1).filter fun i => handlePresent p (c.2 + i)).length
  | .hostPort => 0x5 + 0x10 * 6 + 0x100 * 0x7FF
  | .controller _ => 24576
  | .way w => ((List.range 4).filter (portPresent p w)).length
  | .port _ _ => 8 + 0x100 * 224
  | .weir => 12 + 32 * 17 + 0x400 * 8
  | .auth => 4
  | .dma _ => 4096
  | .clocks => 9
  | .segment _ | .steward | .squall => 0

/-- The units with their own clock enable (R410). -/
def clockEnabled : UnitName → Bool
  | .core _ | .stack _ | .way _ | .weir | .squall => true
  | _ => false

/-- BAR0 offset and pages of a unit's register window (R458). -/
def unitWindow : UnitName → Nat × Nat
  | .module => (0, 2560)
  | .die d => (0x01000000 + 0x01000000 * d, 4096)
  | .core c => (0x01000000 + 0x01000000 * (c / 48) + 0x10000 * (c % 48), 16)
  | .slice sl => (0x01400000 + 0x01000000 * (sl / 16) + 0x10000 * (sl % 16), 16)
  | .events d => (0x01800000 + 0x01000000 * d, 16)
  | .stack s => (0x01E00000 + 0x01000000 * (s / 2) + 0x100000 * (s % 2), 256)
  | .hostPort => (0x00100000, 256)
  | .controller p => (0x00800000 + 0x10000 * p, 16)
  | .way w => (0x00400000 + 0x10000 * w, 16)
  | .weir => (0x00500000, 256)
  | .auth => (0x00200000, 1)
  | .dma east => (if east then 0x00910000 else 0x00900000, 16)
  | .clocks => (0x00300000, 2)
  | .squall => (0x00600000, 1)
  | _ => (0, 0)

/-- UNIFORM (R25, R30): the children of one class alike; none present reads 0. -/
def unitUniform (p : Part) : UnitName → Bool
  | .module | .die _ | .cluster _ _ => true
  | .iod _ => true
  | .way w => wayPresent p w
  | _ => false

/-- The four 64-bit words of the header at a handle (R25, R27). REV is 0x01, as the example of R25 shows it for two
stacks; the spec gives it for no other class. DESIGN CHOICE (log 67). -/
def headerWord (p : Part) (h i : Nat) : Word :=
  match unitOf h with
  | .none => 0
  | some u =>
    let here := unitPresent p u
    let kids := unitChildren u
    let win := unitWindow u
    match i with
    | 0 =>
      BitVec.ofNat 64 ((unitClass u).1 <<< 48 + (unitClass u).2 <<< 32 + 0x11 <<< 24 + 0x01 <<< 16
        + (if here then 1 else 0))
    | 1 =>
      if here then
        BitVec.ofNat 64 ((if placeable u then 1 else 0) <<< 63 + (if win.2 ≠ 0 then 1 else 0) <<< 62
          + (if unitUniform p u then 1 else 0) <<< 61 + (if clockEnabled u then 1 else 0) <<< 60
          + classCap p u)
      else 0
    | 2 => BitVec.ofNat 64 (kids.1 <<< 32 + (if kids.1 = 0 then 0 else 32 * kids.2))
    | _ => BitVec.ofNat 64 (win.2 <<< 32 + win.1)

end Sys2Proof.Machine
end

