-- ==== Sys2Proof/Machine/Signals.lean ====
section
/-! DEFINITION. What units signal: event sources (R147-R152), 48-bit counters (R432) and MSI-X messages (R58). -/

namespace Sys2Proof.Machine

/-! ## Counter numbers -/

/-- The register groups that hold 48-bit counters. -/
inductive Stat where
  | hg | events | llc | basin | arb | gate | update | port | way | fabric | weir | edrop | espill
  | erefuse | errors | squall | core | auth
  deriving DecidableEq, Repr

def Stat.block : Stat → Nat
  | .hg => 0 | .events => 1 | .llc => 2 | .basin => 3 | .arb => 4 | .gate => 5 | .update => 6
  | .port => 7 | .way => 8 | .fabric => 9 | .weir => 10 | .edrop => 11 | .espill => 12
  | .erefuse => 13 | .errors => 14 | .squall => 15 | .core => 16 | .auth => 17

/-- The table key of counter `k` of unit number `n` of a group. -/
def statKey (g : Stat) (n k : Nat) : Nat := 65536 * g.block + 16 * n + k

def maxCount : BitVec 48 := BitVec.allOnes 48

/-- Add `n` events to a counter; the flag tells that OVF went from 0 to 1 (R432). -/
def Counter.add (c : Counter) (n : Nat) : Counter × Bool :=
  if n = 0 then (c, false)
  else
    let v := c.count.toNat + n
    if v ≥ maxCount.toNat then ({ count := maxCount, ovf := true }, !c.ovf)
    else ({ c with count := BitVec.ofNat 48 v }, false)

def statOf (m : Module) (g : Stat) (n k : Nat) : Counter := Sparse.get {} m.stats (statKey g n k)

/-- The count without any source being raised. -/
def addStat (g : Stat) (n k by_ : Nat) (m : Module) : Module × Bool :=
  let r := (statOf m g n k).add by_
  ({ m with stats := Sparse.set m.stats (statKey g n k) r.1 }, r.2)

/-! ## Event sources -/

def eventsOf (m : Module) (d : Nat) : Events := Sparse.get {} m.events d

def setEvents (d : Nat) (e : Events) (m : Module) : Module :=
  { m with events := Sparse.set m.events d e }

/-- A rising edge on source `s` of die `d` (R148); `fuel` bounds the edges that saturating
EV_STAT counters raise in turn on source 325 (R433). -/
def edgeFuel : Nat → Nat → Nat → Module → Module
  | 0, _, _, m => m
  | fuel + 1, d, s, m =>
    let e := eventsOf m d
    if s ≥ 384 || !e.en.getLsbD s then m
    else
      let merged := e.pend.getLsbD s
      let m := setEvents d { e with pend := e.pend ||| (1#512 <<< s) } m
      let r := addStat .events d (if merged then 1 else 0) 1 m
      if r.2 then edgeFuel fuel d 325 r.1 else r.1

/-- A rising edge on source `s` in the controller of die `d` (R148). -/
def edge (d s : Nat) (m : Module) : Module := edgeFuel 3 d s m

/-- A rising edge on a module-wide source, in every controller (R147). -/
def edgeAll (s : Nat) (m : Module) : Module := edge 3 s (edge 2 s (edge 1 s (edge 0 s m)))

/-- The counter-saturated source of a group (R433), by controller: `none` for every controller. -/
def satSource (g : Stat) (n : Nat) : Option (Option Nat × Nat) :=
  match g with
  | .hg | .update => some (.none, 321)
  | .gate => some (.none, 248)
  | .errors => some (.none, 322)
  | .squall => some (.none, 324)
  | .events => some (some n, 325)
  | .llc => some (some (n / 16), 67 + 4 * (n % 16))
  | .basin => some (some (n / 2), 133 + 32 * (n % 2))
  | .arb =>
    if n < 256 then some (some (n / 32 / 2), 133 + 32 * (n / 32 % 2))
    else if n < 320 then some (.none, 326)
    else some (.none, 271)
  | .port | .way | .fabric => some (.none, 271)
  | .weir | .edrop | .espill | .erefuse => some (.none, 295)
  | .core | .auth => .none

/-- Whether a unit is gated by CK_EN, or off in STANDBY (R410, R414). -/
def unitGated (m : Module) (h : Nat) : Bool :=
  m.clocks.gated.getLsbD h ||
    (m.clocks.standby && (match unitOf h with
      | some (.core _) | some (.stack _) | some .weir => true
      | _ => false))

/-- An access to a gated unit's window (R412). -/
def touchGated (h : Nat) (m : Module) : Module :=
  { m with clocks := { m.clocks with touched := m.clocks.touched ||| (1#384 <<< h), gtouchAny := true } }

/-- The gateable unit whose counter it is, if any. DEDUCED (log 57). -/
def statUnit (g : Stat) (n : Nat) : Option Nat :=
  match g with
  | .core => some (handleCore n)
  | .basin => some (handleStack n)
  | .way => some (handleWay n)
  | .port => some (handleWay (n / 4))
  | .weir | .edrop | .espill | .erefuse => some handleWeir
  | .squall => some handleSquall
  | .arb => if n < 256 then some (handleStack (n / 32)) else if n < 320 then .none else some (handleWay (n - 320))
  | _ => .none

/-- Count `by_` events of kind `k`; the transition of OVF raises the block's source once, and a gated
unit counts nothing (R432). DESIGN CHOICE (log 63). -/
def count (g : Stat) (n k : Nat) (by_ : Nat := 1) (m : Module) : Module :=
  let off := match statUnit g n with
    | some h => unitGated m h
    | .none => false
  let r := if off then (m, false) else addStat g n k by_ m
  if r.2 then
    match satSource g n with
    | some (some d, s) => edge d s r.1
    | some (.none, s) => edgeAll s r.1
    | .none => r.1
  else r.1

/-! ## MSI-X messages -/

/-- Write bytes into host memory. -/
def putHost (a : Nat) : List Byte → Module → Module
  | [], m => m
  | b :: bs, m =>
    putHost (a + 1) bs { m with host := { m.host with hostMem := Sparse.set m.host.hostMem a b } }

/-- Bytes `a .. a + n - 1` of host memory. -/
def getHost (m : Module) (a n : Nat) : List Byte :=
  (List.range n).map fun i => Sparse.get 0 m.host.hostMem (a + i)

def msixOf (m : Module) (v : BitVec 11) : Msix := Sparse.get {} m.host.msix v.toNat

/-- Raise an MSI-X vector: a masked one sets its pending bit instead (R58). PRESUMED (log 7). A module that a FATAL error
has stopped sends no message (R416, R430). -/
def signal (v : BitVec 11) (m : Module) : Module :=
  let e := msixOf m v
  if m.errors.stopped then m
  else if e.control.getLsbD 0 then
    { m with host := { m.host with msixPend := Sparse.set m.host.msixPend v.toNat true } }
  else
    putHost e.addr.toNat (bytesOf 4 e.data.toNat)
      { m with host := { m.host with msixSent := v :: m.host.msixSent } }

/-- Raise the HQ_ERRVEC vector when it is enabled (R48, R97). -/
def signalRingError (m : Module) : Module :=
  if m.host.errEn then signal m.host.errVector m else m

/-! ## Free values -/

/-- The next free value of `w` bits (log 4). -/
def takeFree (w : Nat) (m : Module) : BitVec w × Module :=
  (Config.freeBits w m.freeCount, { m with freeCount := m.freeCount + 1 })

end Sys2Proof.Machine
end

