-- ==== Sys2Proof/Machine/Memory.lean ====
section
/-! DEFINITION. External and Basin memory: canonical cells, lines, poison marks, and the DRAM channels (R241, R271-R276). -/

namespace Sys2Proof.Machine

/-! ## Canonical byte memory -/

/-- The byte at `a`; an unlisted address holds zero, as reset leaves it (R417). -/
def memGet : List Host.Cell → Nat → Byte
  | [], _ => 0
  | (k, b) :: l, a => if a < k then 0 else if a = k then b else memGet l a

/-- The memory with `b` at `a`; a zero byte is not listed. -/
def memPut : List Host.Cell → Nat → Byte → List Host.Cell
  | [], a, b => if b = 0 then [] else [(a, b)]
  | (k, c) :: l, a, b =>
    if a < k then (if b = 0 then (k, c) :: l else (a, b) :: (k, c) :: l)
    else if a = k then (if b = 0 then l else (a, b) :: l)
    else (k, c) :: memPut l a b

/-- Whether every listed address is above `lo` and rising, and no listed byte is zero. -/
def wfAbove : Option Nat → List Host.Cell → Bool
  | _, [] => true
  | lo, (k, b) :: l =>
    (match lo with
      | .none => true
      | some p => p < k) && b != 0 && wfAbove (some k) l

/-- The canonical form of memory: addresses strictly rising, no byte equal to the default. -/
def Memory.wf (l : List Host.Cell) : Bool := wfAbove .none l

/-- Write bytes at rising addresses, those whose mask bit is set. -/
def memPutMasked (l : List Host.Cell) (a : Nat) (mask : Nat → Bool) : Nat → List Byte → List Host.Cell
  | _, [] => l
  | i, b :: bs => memPutMasked (if mask i then memPut l (a + i) b else l) a mask (i + 1) bs

/-! ## Places (R241, R271, R276) -/

def basinBytes : Nat := 0x80000000
def extBase : Nat := 0x0400000000
def reservedBase : Nat := 0x63FC000000
def extEnd : Nat := 0x6400000000
def hostBase : Nat := 0xF000000000
def hostEnd : Nat := 0xFF00000000
def apertureBase : Nat := 0xFF00000000
def apertureEnd : Nat := 0xFF08000000

/-- The line that holds an address. -/
def lineOf (a : Nat) : Nat := a - a % 128

/-- LPDDR5X package and channel of an external address (R271). -/
def packageOf (a : Nat) : Nat :=
  let o := a - extBase
  natBits o 11 8 ^^^ natBits o 15 12
def channelOf (a : Nat) : Nat := natBits (natBits (a - extBase) 38 12 * 256 + natBits (a - extBase) 7 0) 9 8

/-- Basin stack, channel and bank of a Basin address (R276). -/
def stackOf (a : Nat) : Nat := a / basinBytes
def basinChannel (a : Nat) : Nat := let u := a % basinBytes; natBits u 11 7 ^^^ natBits u 20 16
def basinBank (a : Nat) : Nat :=
  let u := a % basinBytes
  32 * (natBits u 15 12 ^^^ natBits u 24 21) + basinChannel a

/-- Key of the channel that holds an address: LPDDR5X channels first, then 32 for each Basin stack. -/
def dramKey (a : Nat) : Nat :=
  if a < extBase then 64 + 32 * stackOf a + basinChannel a else 4 * packageOf a + channelOf a

def stackAt (m : Module) (s : Nat) : Stack := Sparse.get {} m.basins s
def setStack (s : Nat) (k : Stack) (m : Module) : Module := { m with basins := Sparse.set m.basins s k }
def dramAt (m : Module) (c : Nat) : DramChannel := Sparse.get {} m.drams c
def setDram (c : Nat) (d : DramChannel) (m : Module) : Module := { m with drams := Sparse.set m.drams c d }

/-- Whether the channel that holds an address accepts accesses now (R272). -/
def dramReady (m : Module) (a : Nat) : Bool :=
  !(dramAt m (dramKey a)).blocked && !(dramAt m (dramKey a)).lost

/-- The home slice of a local address (R263). -/
def homeSlice (a : Nat) : Nat :=
  if a < extBase then 16 * natBits a 33 32 + foldBits a 7 31 4
  else foldBits (a - extBase) 7 38 6

/-- Requesters of a channel's arbiter (R277, R298): the slices, of a stack's die or of one compute die, the engines of a
stack, its gather engines, and patrol scrub. -/
def llcRequester (a : Nat) : Nat := if a < extBase then 0 else homeSlice a / 16
def engineRequester : Nat := 1
def gatherRequester (g : Nat) : Nat := 2 + g
def scrubRequester (a : Nat) : Nat := if a < extBase then 6 else 4

/-- An access of requester `q` wakes the channel, restarts its self-refresh delay, and waits for the channel's arbiter to
move its transfer (R299, R414). DESIGN CHOICE (log 14). -/
def touchDram (q a : Nat) (m : Module) : Module :=
  let d := dramAt m (dramKey a)
  setDram (dramKey a)
    { d with selfRefresh := false, lastAccess := m.time, transfers := Sparse.set d.transfers q (Sparse.get 0 d.transfers q + 1) } m

/-! ## Lines -/

/-- `n` bytes of memory from `a`. -/
def memBytes (m : Module) (a n : Nat) : List Byte := (List.range n).map fun i => memGet m.mem (a + i)

/-- Poison marks of the four units of a line in memory (R274). -/
def memPoison (m : Module) (line : Nat) : BitVec 4 :=
  (List.range 4).foldl (fun p i =>
    if Sparse.get false m.poison (line / 32 + i) then p ||| (1#4 <<< i) else p) 0

/-- A read of a whole line from memory by requester `q` of its channel. -/
def readDramAs (q line : Nat) (m : Module) : (List Byte × BitVec 4) × Module :=
  ((memBytes m line 128, memPoison m line), touchDram q line m)

/-- A read of a whole line from memory by its home slice. -/
def readDram (line : Nat) (m : Module) : (List Byte × BitVec 4) × Module := readDramAs (llcRequester line) line m

def setPoison (unit : Nat) (on : Bool) (m : Module) : Module :=
  { m with poison := if on then Sparse.set m.poison unit true else Sparse.del m.poison unit }

/-- A write of a whole line to memory, with its marks, by requester `q` of its channel. -/
def writeDramAs (q line : Nat) (data : List Byte) (poison : BitVec 4) (m : Module) : Module :=
  let m := { m with mem := memPutMasked m.mem line (fun _ => true) 0 data }
  touchDram q line ((List.range 4).foldl (fun m i => setPoison (line / 32 + i) (poison.getLsbD i) m) m)

/-- A write of a whole line to memory by its home slice. -/
def writeDram (line : Nat) (data : List Byte) (poison : BitVec 4) (m : Module) : Module :=
  writeDramAs (llcRequester line) line data poison m

/-! ## Bytes of a line -/

/-- A line's data with some bytes replaced, and its marks: a unit wholly written loses its mark (R274, R425). -/
def mergeLine (data : List Byte) (poison : BitVec 4) (off : Nat) (bytes : List Byte) (mask : Nat → Bool) :
    List Byte × BitVec 4 :=
  let hit (i : Nat) : Bool := off ≤ i && i < off + bytes.length && mask (i - off)
  ((List.range 128).map (fun i => if hit i then bytes.getD (i - off) 0 else data.getD i 0),
   (List.range 4).foldl (fun p k =>
     if (List.range 32).all (fun j => hit (32 * k + j)) then p &&& ~~~(1#4 <<< k) else p) poison)

/-- Whether bytes `off .. off + n - 1` of a line touch a poisoned unit. -/
def touchesPoison (poison : BitVec 4) (off n : Nat) : Bool :=
  (List.range 4).any fun k => poison.getLsbD k && 32 * k < off + n && off < 32 * k + 32

/-- The value of `n` bytes of a line. -/
def lineValue (data : List Byte) (off n : Nat) : Nat := ofBytes ((data.drop off).take n)

/-- The line with the `n` low bytes of `v` at `off`. -/
def putLineValue (data : List Byte) (off n v : Nat) : List Byte :=
  (mergeLine data 0 off (bytesOf n v) (fun _ => true)).1

end Sys2Proof.Machine
end

