-- ==== Sys2Proof/Machine/Errors.lean ====
section
/-! DEFINITION. Error records, their log and the FATAL stop (R426-R431). -/

namespace Sys2Proof.Machine

/-- Unread records: TAIL minus HEAD modulo 128 (R39, R429). -/
def unread (e : Errors) : Nat := (e.tail - e.head).toNat

/-- The ER_STAT kind an error counts in (R426, R431): a scrub rewrite counts by the memory it names. -/
def errorKind (cls dcode : Nat) (addr : Nat) : Option Nat :=
  match cls with
  | 0x1 =>
    if dcode = 0x01 then some 0
    else if dcode = 0x02 then some 1
    else if dcode = 0x05 then (if addr < extBase then some 1 else some 0)
    else some 2
  | 0x2 => some 3
  | 0x3 => some 4
  | 0x4 => some 5
  | 0x5 => some 9
  | 0x6 => some 8
  | 0x7 | 0x8 => some 10
  | _ => .none

/-- The record of an error that is new (R428). DEDUCED (log 57). -/
def newRecord (m : Module) (cls : BitVec 4) (dcode : BitVec 8) (unit : Nat) (addr : Nat) (info : Nat) :
    ErrorRecord :=
  { cls := cls, dcode := dcode, unit := BitVec.ofNat 15 unit, seq := m.errors.seq,
    addr := BitVec.ofNat 64 addr, info := BitVec.ofNat 48 info, time := m.time }

/-- Whether two errors merge: CLASS, DCODE, UNIT and ADDR are equal (R429). -/
def sameError (a b : ErrorRecord) : Bool :=
  a.cls == b.cls && a.dcode == b.dcode && a.unit == b.unit && a.addr == b.addr

/-- The newest unread record, if any. -/
def newestUnread (e : Errors) : Option ErrorRecord :=
  if unread e = 0 then .none else Sparse.find e.log ((e.tail - 1).toNat % 64)

/-- Write an error record, or merge it into the newest unread one, or lose it (R428, R429, R431). -/
def writeRecord (r : ErrorRecord) (m : Module) : Module :=
  let e := m.errors
  let merged := match newestUnread e with
    | some o => if sameError o r then some o else .none
    | .none => .none
  match merged with
  | some o =>
    let o := if o.rep = BitVec.allOnes 16 then o else { o with rep := o.rep + 1 }
    { m with errors := { e with log := Sparse.set e.log ((e.tail - 1).toNat % 64) o } }
  | .none =>
    if unread e ≥ 64 then
      count .errors 0 7 1 { m with errors := { e with lost := true } }
    else
      let m := { m with errors := { e with
        log := Sparse.set e.log (e.tail.toNat % 64) r, tail := e.tail + 1, seq := e.seq + 1 } }
      let m := count .errors 0 6 1 m
      let m := if r.cls.toNat ≥ 2 then edgeAll 320 m else m
      if e.en && r.cls != 0xF && e.irqMask.getLsbD r.cls.toNat then signal e.vector m else m

/-! ## The beginning of a reset, and the FATAL stop (R416, R430) -/

/-- A thread that has stopped at once with no task: held registers and generators stay (R416). -/
def stopThread (t : Thread) : Thread :=
  { run := .idle, gens := t.gens,
    priv := { ma := { hbase := t.priv.ma.hbase }, es := { hbase := t.priv.es.hbase, spare := t.priv.es.spare },
              esLocked := t.priv.esLocked, nilimit := t.priv.nilimit } }

/-- A port quiet again, with its settings. -/
def dropPort (p : Port) : Port :=
  { p with state := .disabled, lock := 0, passed := false, matched := false }

/-- A way that has gone down with RING_HOLD released (R363, R416). -/
def dropWay (w : Way) : Way :=
  { w with up := false, hold := false, holdDue := false, retryAt := .none, neigh := 0, seq := 0, ack := 0xFFFF, discarding := false,
           early := [], retry := [], credits := [], freed := [], heldBack := 0, queues := [],
           ports := w.ports.map fun p => (p.1, dropPort p.2) }

/-- What every reset does at its beginning (R416): fetching, tasks, jobs and batches end without records,
threads stop at once, and the ways go down. -/
def beginStop (m : Module) : Module :=
  { m with
    hg := { m.hg with pool := [], rsv := .none, stuck := 0 }
    threads := m.threads.map fun p => (p.1, stopThread p.2)
    faults := { m.faults with suspended := [] }
    basins := m.basins.map fun p =>
      (p.1, { p.2 with jobs := [], engines := [], gathers := [], held := [], waiting := [] })
    weir := { m.weir with batches := [], entries := [] }
    gate := { m.gate with waiting := [] }
    fabric := { m.fabric with ways := m.fabric.ways.map (fun p => (p.1, dropWay p.2)), tags := [], heldMsgs := [], inbox := [], failed := [], remote := [], spent := [], lost := [] } }

/-- Of a thermal trip and a regulator fault that meet, the first stands in ER_FATAL (R451). -/
def firstStands (e : Errors) (dcode : BitVec 8) : Bool :=
  e.stopped && match e.fatal with
    | some f => (f.dcode == 0xF1 && dcode == 0xF2) || (f.dcode == 0xF2 && dcode == 0xF1)
    | .none => false

/-- A FATAL error: ER_FATAL, the vector whatever IRQMASK holds, and the stop (R430). DEDUCED (log 23). -/
def raiseFatal (dcode : BitVec 8) (unit addr info : Nat) (m : Module) : Module :=
  let r := newRecord m 0xF dcode unit addr info
  let m := writeRecord r m
  let m := if m.errors.en then signal m.errors.vector m else m
  let fatal := if firstStands m.errors dcode then m.errors.fatal else some r
  beginStop { m with errors := { m.errors with fatal := fatal, stopped := true } }

/-- An error is found: counted, logged by its class, and a FATAL one stops the module (R426). DEDUCED (log 53). -/
def raiseError (cls : BitVec 4) (dcode : BitVec 8) (unit addr info : Nat) (m : Module) : Module :=
  if cls = 0xF then raiseFatal dcode unit addr info m
  else
    let m := match errorKind cls.toNat dcode.toNat addr with
      | some k => count .errors 0 k 1 m
      | .none => m
    if cls = 1 && !m.errors.logCe then m
    else writeRecord (newRecord m cls dcode unit addr info) m

/-- Whether the module runs: boot has ended with success and no FATAL error holds it (R422, R430).
DESIGN CHOICE (log 22). -/
def alive (m : Module) : Bool :=
  !m.errors.stopped && !m.clocks.bootFail && m.clocks.booting.isNone

end Sys2Proof.Machine
end

