-- ==== Sys2Proof/Machine/Fp.lean ====
section
/-! DEFINITION. Number formats, rounding, flags and floating-point arithmetic (R213-R228, R343).
A value is an exact dyadic number; an operation computes exactly and rounds once. -/

namespace Sys2Proof.Machine.Fp

open Sys2Proof

/-- What an all-ones exponent means in a format (R213). -/
inductive Special where
  | ieee    -- infinities and NaNs
  | e4m3    -- only the two NaNs 0x7F and 0xFF
  | finite  -- ordinary values
  deriving DecidableEq, Repr

/-- The layout of a floating-point format (R213). -/
structure Fmt where
  ebits : Nat
  mbits : Nat
  bias  : Nat
  special : Special
  deriving DecidableEq, Repr

/-- The width of an element of the format. -/
def Fmt.width (f : Fmt) : Nat := 1 + f.ebits + f.mbits

def fp32 : Fmt := ⟨8, 23, 127, .ieee⟩
def bf16 : Fmt := ⟨8, 7, 127, .ieee⟩
def fp16 : Fmt := ⟨5, 10, 15, .ieee⟩
def e4m3 : Fmt := ⟨4, 3, 7, .e4m3⟩
def e5m2 : Fmt := ⟨5, 2, 15, .ieee⟩
def e3m2 : Fmt := ⟨3, 2, 3, .finite⟩
def e2m3 : Fmt := ⟨2, 3, 1, .finite⟩
def e2m1 : Fmt := ⟨2, 1, 1, .finite⟩

/-- The element layout of a format code that is floating point (R191, R213). -/
def ofCode : Nat → Option Fmt
  | 0 => some fp32
  | 1 => some bf16
  | 2 => some fp16
  | 3 => some e4m3
  | 4 => some e5m2
  | 7 => some e4m3
  | 8 => some e5m2
  | 9 => some e3m2
  | 10 => some e2m3
  | 11 => some e2m1
  | _ => none

/-- The width in bits of a format code (R191); 0 for a reserved code. -/
def codeWidth (c : Nat) : Nat :=
  if c = 0 ∨ c = 6 then 32
  else if c = 1 ∨ c = 2 then 16
  else if c = 3 ∨ c = 4 ∨ c = 5 ∨ c = 7 ∨ c = 8 then 8
  else if c = 9 ∨ c = 10 then 6
  else if c = 11 then 4
  else 0

/-- Whether a code names a Microscaling format (R191, R216). -/
def isMx (c : Nat) : Bool := 7 ≤ c ∧ c ≤ 11

/-- A decoded value: a NaN, an infinity, or plus or minus `m * 2 ^ e`. -/
inductive Val where
  | nan (signalling : Bool)
  | inf (neg : Bool)
  | num (neg : Bool) (m : Nat) (e : Int)
  deriving DecidableEq, Repr

/-- The value of an encoding (R213). -/
def decode (f : Fmt) (x : Nat) : Val :=
  let s := x.testBit (f.ebits + f.mbits)
  let ex := natBits x (f.ebits + f.mbits - 1) f.mbits
  let fr := x % 2 ^ f.mbits
  let emin : Int := 1 - f.bias - f.mbits
  let ordinary : Val :=
    if ex = 0 then .num s fr emin else .num s (2 ^ f.mbits + fr) (emin + (ex - 1 : Nat))
  if ex = 2 ^ f.ebits - 1 then
    match f.special with
    | .ieee =>
      if fr = 0 then .inf s
      else .nan (decide (f.mbits > 2) && !(fr.testBit (f.mbits - 1)))
    | .e4m3 => if fr = 7 then .nan false else ordinary
    | .finite => ordinary
  else ordinary

/-- The largest finite encoding without its sign (R213). -/
def maxFinite (f : Fmt) : Nat :=
  match f.special with
  | .ieee => (2 ^ f.ebits - 1) * 2 ^ f.mbits - 1
  | .e4m3 => 2 ^ (f.ebits + f.mbits) - 2
  | .finite => 2 ^ (f.ebits + f.mbits) - 1

/-- The canonical NaN of a format (R221); a format without NaNs has none and gives zero. -/
def canonicalNan (f : Fmt) : Nat :=
  match f.special with
  | .ieee => (2 ^ f.ebits - 1) * 2 ^ f.mbits + 2 ^ (f.mbits - 1)
  | .e4m3 => 0x7F
  | .finite => 0

/-- The encoding of an infinity; E4M3 gives its NaN (R226). -/
def infinity (f : Fmt) (neg : Bool) : Nat :=
  match f.special with
  | .ieee => (if neg then 2 ^ (f.ebits + f.mbits) else 0) + (2 ^ f.ebits - 1) * 2 ^ f.mbits
  | .e4m3 => 0x7F
  | .finite => 0

/-- The sign bit of a format. -/
def signBit (f : Fmt) (neg : Bool) : Nat := if neg then 2 ^ (f.ebits + f.mbits) else 0

/-- How a result is rounded: RM, OVS and the 24 bits of the draw (R218, R219, R231). -/
structure Mode where
  rm : Nat
  ovs : Bool
  draw : Nat
  deriving DecidableEq, Repr

/-- Nearest-even with saturating overflow into FP8. -/
def nearest : Mode := ⟨0, false, 0⟩

/-- VFLAGS bits of R153: SAT 5, NV 4, DZ 3, OF 2, UF 1, NX 0. -/
abbrev Flags := BitVec 6
def fSAT : Flags := 0x20
def fNV : Flags := 0x10
def fDZ : Flags := 0x08
def fOF : Flags := 0x04
def fUF : Flags := 0x02
def fNX : Flags := 0x01

/-- The number of bits of `m`: 0 for 0, else 1 + floor(log2 m). -/
def bitLen (m : Nat) : Nat := if m = 0 then 0 else Nat.log2 m + 1

/-- `m * 2 ^ e` (plus something in `(0, 2 ^ e)` when `sticky`) cut to the grid `2 ^ q`, rounded by R219:
the multiple of `2 ^ q` and whether it differs from the exact value. -/
def roundGrid (md : Mode) (m : Nat) (e q : Int) (sticky : Bool) : Nat × Bool :=
  if q ≤ e then
    (m * 2 ^ (e - q).toNat, sticky)
  else
    let sh := (q - e).toNat
    let n := m >>> sh
    let r := m % 2 ^ sh
    let inexact := r != 0 || sticky
    let up : Bool :=
      match md.rm with
      | 0 => let half := 2 ^ (sh - 1)
             decide (half < r) || (r == half && (sticky || n.testBit 0))
      | 2 => inexact && decide (2 ^ 24 ≤ r * 2 ^ 24 / 2 ^ sh + md.draw)
      | _ => false
    (if up then n + 1 else n, inexact)

/-- The encoding of magnitude `n * 2 ^ q`, where `q` is the grid that rounding used. -/
def encodeMag (f : Fmt) (n : Nat) (q : Int) : Nat :=
  if n < 2 ^ f.mbits then n
  else
    let n' := if n = 2 ^ (f.mbits + 1) then 2 ^ f.mbits else n
    let q' := if n = 2 ^ (f.mbits + 1) then q + 1 else q
    ((q' + f.mbits + f.bias).toNat) * 2 ^ f.mbits + (n' - 2 ^ f.mbits)

/-- Whether `n * 2 ^ q` exceeds the largest finite value of the format (R220). -/
def exceeds (f : Fmt) (n : Nat) (q : Int) : Bool :=
  match decode f (maxFinite f) with
  | .num _ M E => if q ≤ E then decide (M * 2 ^ (E - q).toNat < n) else decide (M < n * 2 ^ (q - E).toNat)
  | _ => false

/-- Round a non-zero exact magnitude into a format: the encoding without sign and the flags (R219, R220, R224).
`mx` marks an element of a Microscaling conversion, which saturates with SAT in place of OF (R227). -/
def roundMag (f : Fmt) (md : Mode) (mx : Bool) (m : Nat) (e : Int) (sticky : Bool) : Nat × Flags :=
  let top : Int := e + (bitLen m : Int) - 1
  let emin : Int := 1 - f.bias
  let q := max (top - f.mbits) (emin - f.mbits)
  let (n, inexact) := roundGrid md m e q sticky
  if exceeds f n q then
    if mx then (maxFinite f, fSAT ||| fNX)
    else
      let fl := fOF ||| fNX
      match f.special, f.mbits with
      | .ieee, 2 => (if md.ovs then infinity f false else maxFinite f, fl)      -- E5M2
      | .ieee, _ => (if md.rm = 1 then maxFinite f else infinity f false, fl)
      | .e4m3, _ => (if md.ovs then 0x7F else maxFinite f, fl)
      | .finite, _ => (maxFinite f, fl)
  else
    -- tiny after rounding: judged with the exponent unbounded
    let (n2, _) := roundGrid md m e (top - f.mbits) sticky
    let tiny : Bool := decide (top - f.mbits < emin - f.mbits) &&
      decide (n2 < 2 ^ (emin - (top - f.mbits)).toNat)
    (encodeMag f n q, (if inexact then fNX else 0) ||| (if inexact && tiny then fUF else 0))

/-- Round a decoded value into a format, with the rules for special values (R219-R221, R226). -/
def encodeVal (f : Fmt) (md : Mode) (v : Val) : Nat × Flags :=
  match v with
  | .nan sig => (canonicalNan f, (if sig then fNV else 0) ||| (if f.special = .finite then fNV else 0))
  | .inf neg => (infinity f neg, if f.special = .ieee then 0 else fNV)
  | .num neg m e =>
    if m = 0 then (signBit f neg, 0)
    else
      let (x, fl) := roundMag f md false m e false
      -- an E4M3 NaN on overflow is the canonical NaN and carries no sign
      (if f.special = .e4m3 ∧ x = 0x7F then x else signBit f neg + x, fl)

/-- Integer `m * 2 ^ e` with sign, for exact sums. -/
def signed (neg : Bool) (m : Nat) : Int := if neg then -(m : Int) else m

/-- A value with the sign turned. -/
def Val.neg : Val → Val
  | .nan s => .nan s
  | .inf s => .inf (!s)
  | .num s m e => .num (!s) m e

/-- Whether a value is a signalling NaN. -/
def Val.isSig : Val → Bool
  | .nan s => s
  | _ => false

/-- Whether a value is a NaN. -/
def Val.isNan : Val → Bool
  | .nan _ => true
  | _ => false

/-- Whether a value is a NaN or an infinity. -/
def Val.nonFinite : Val → Bool
  | .num _ _ _ => false
  | _ => true

/-- Whether a value is a zero. -/
def Val.isZero : Val → Bool
  | .num _ m _ => m == 0
  | _ => false

/-- The sign of a value. -/
def Val.isNeg : Val → Bool
  | .nan _ => false
  | .inf s => s
  | .num s _ _ => s

/-- The exact sum, with the flag of an invalid operation (R224). -/
def addVal (a b : Val) : Val × Flags :=
  let sig : Flags := if a.isSig || b.isSig then fNV else 0
  match a, b with
  | .nan _, _ => (.nan false, sig)
  | _, .nan _ => (.nan false, sig)
  | .inf s, .inf t => if s = t then (.inf s, 0) else (.nan false, fNV)
  | .inf s, _ => (.inf s, 0)
  | _, .inf t => (.inf t, 0)
  | .num s m e, .num t n g =>
    if m = 0 ∧ n = 0 then (.num (s && t) 0 0, 0)
    else
      let lo := min e g
      let x := signed s (m * 2 ^ (e - lo).toNat) + signed t (n * 2 ^ (g - lo).toNat)
      if x = 0 then (.num false 0 0, 0) else (.num (decide (x < 0)) x.natAbs lo, 0)

/-- The exact product. -/
def mulVal (a b : Val) : Val × Flags :=
  let sig : Flags := if a.isSig || b.isSig then fNV else 0
  match a, b with
  | .nan _, _ => (.nan false, sig)
  | _, .nan _ => (.nan false, sig)
  | .inf s, .inf t => (.inf (s != t), 0)
  | .inf s, .num t n _ => if n = 0 then (.nan false, fNV) else (.inf (s != t), 0)
  | .num s m _, .inf t => if m = 0 then (.nan false, fNV) else (.inf (s != t), 0)
  | .num s m e, .num t n g => (.num (s != t) (m * n) (e + g), 0)

/-- Encode an exact value, joining the flags of the operation and of the rounding. DEDUCED (log 28). -/
def finish (f : Fmt) (md : Mode) (r : Val × Flags) : Nat × Flags :=
  let (x, fl) := encodeVal f md r.1
  (x, fl ||| r.2)

/-- a + b. -/
def add (f : Fmt) (md : Mode) (a b : Nat) : Nat × Flags := finish f md (addVal (decode f a) (decode f b))

/-- a - b. -/
def sub (f : Fmt) (md : Mode) (a b : Nat) : Nat × Flags :=
  finish f md (addVal (decode f a) (decode f b).neg)

/-- a * b. -/
def mul (f : Fmt) (md : Mode) (a b : Nat) : Nat × Flags := finish f md (mulVal (decode f a) (decode f b))

/-- c + a * b with one rounding. -/
def fma (f : Fmt) (md : Mode) (c a b : Nat) : Nat × Flags :=
  let p := mulVal (decode f a) (decode f b)
  let r := addVal (decode f c) p.1
  finish f md (r.1, r.2 ||| p.2)

/-- c - a * b with one rounding. -/
def fnms (f : Fmt) (md : Mode) (c a b : Nat) : Nat × Flags :=
  let p := mulVal (decode f a) (decode f b)
  let r := addVal (decode f c) p.1.neg
  finish f md (r.1, r.2 ||| p.2)

/-- a / b (R162, R224). The quotient carries 64 bits and a sticky bit below them. -/
def div (f : Fmt) (md : Mode) (a b : Nat) : Nat × Flags :=
  let va := decode f a
  let vb := decode f b
  let sig : Flags := if va.isSig || vb.isSig then fNV else 0
  match va, vb with
  | .nan _, _ => (canonicalNan f, sig)
  | _, .nan _ => (canonicalNan f, sig)
  | .inf _, .inf _ => (canonicalNan f, fNV)
  | .inf s, .num t _ _ => (infinity f (s != t), 0)
  | .num s _ _, .inf t => (signBit f (s != t), 0)
  | .num s m e, .num t n g =>
    if n = 0 then
      if m = 0 then (canonicalNan f, fNV) else (infinity f (s != t), fDZ)
    else if m = 0 then (signBit f (s != t), 0)
    else
      let sh := 64 + bitLen n
      let q := (m * 2 ^ sh) / n
      let st := (m * 2 ^ sh) % n != 0
      let (x, fl) := roundMag f md false q (e - g - sh) st
      (signBit f (s != t) + x, fl)

/-- Integer square root: the largest `r` with `r * r ≤ n`, by bits from `2 ^ k` down. -/
def isqrt (n : Nat) : Nat → Nat → Nat
  | 0, r => if (r + 1) * (r + 1) ≤ n then r + 1 else r
  | k + 1, r =>
    let r' := r + 2 ^ (k + 1)
    isqrt n k (if r' * r' ≤ n then r' else r)

/-- Square root of `a` (R162, R224). -/
def sqrt (f : Fmt) (md : Mode) (a : Nat) : Nat × Flags :=
  match decode f a with
  | .nan s => (canonicalNan f, if s then fNV else 0)
  | .inf s => if s then (canonicalNan f, fNV) else (infinity f false, 0)
  | .num s m e =>
    if m = 0 then (signBit f s, 0)
    else if s then (canonicalNan f, fNV)
    else
      -- an even exponent and at least 64 bits of root
      let sh := 128 + (e % 2).toNat
      let n := m * 2 ^ sh
      let r := isqrt n (bitLen n / 2 + 1) 0
      let (x, fl) := roundMag f md false r ((e - sh) / 2) (r * r != n)
      (x, fl)

/-- Compare two values that are not NaN: `a < b`, with equal zeros. -/
def ltVal (a b : Val) : Bool :=
  match a, b with
  | .nan _, _ => false
  | _, .nan _ => false
  | .inf s, .inf t => s && !t
  | .inf s, _ => s
  | _, .inf t => !t
  | .num s m e, .num t n g =>
    let lo := min e g
    decide (signed s (m * 2 ^ (e - lo).toNat) < signed t (n * 2 ^ (g - lo).toNat))

/-- Equality of values: NaN equals nothing, and both zeros are equal (R213). -/
def eqVal (a b : Val) : Bool := !a.isNan && !b.isNan && !ltVal a b && !ltVal b a

/-- Total order used by minimum and maximum: −0 below +0 (R222). -/
def belowVal (a b : Val) : Bool := ltVal a b || (a.isZero && b.isZero && a.isNeg && !b.isNeg)

/-- minimumNumber of R222. -/
def minNum (f : Fmt) (a b : Nat) : Nat × Flags :=
  let va := decode f a
  let vb := decode f b
  let sig : Flags := if va.isSig || vb.isSig then fNV else 0
  if va.isNan && vb.isNan then (canonicalNan f, sig)
  else if va.isNan then (b, sig)
  else if vb.isNan then (a, sig)
  else (if belowVal vb va then b else a, sig)

/-- maximumNumber of R222. -/
def maxNum (f : Fmt) (a b : Nat) : Nat × Flags :=
  let va := decode f a
  let vb := decode f b
  let sig : Flags := if va.isSig || vb.isSig then fNV else 0
  if va.isNan && vb.isNan then (canonicalNan f, sig)
  else if va.isNan then (b, sig)
  else if vb.isNan then (a, sig)
  else (if belowVal va vb then b else a, sig)

/-- The larger value, with a NaN winning and +0 above −0 (R261). -/
def maxNanWins (f : Fmt) (a b : Nat) : Nat :=
  let va := decode f a
  let vb := decode f b
  if va.isNan || vb.isNan then canonicalNan f else if belowVal va vb then b else a

/-- The magnitude of an FP32 encoding. -/
def absBits (f : Fmt) (a : Nat) : Nat := a % 2 ^ (f.ebits + f.mbits)

/-- Convert between two floating-point formats (R225, R226). -/
def convert (src dst : Fmt) (md : Mode) (x : Nat) : Nat × Flags := encodeVal dst md (decode src x)

/-- Convert a value to a two's-complement integer of `w` bits (R226): round, then clamp with NV. -/
def toInt (w : Nat) (md : Mode) (v : Val) : Nat × Flags :=
  match v with
  | .nan _ => (0, fNV)
  | .inf s => (if s then 2 ^ (w - 1) else 2 ^ (w - 1) - 1, fNV)
  | .num s m e =>
    let (n, ix) := if m = 0 then (0, false) else roundGrid md m e 0 false
    if s then
      if 2 ^ (w - 1) < n then (2 ^ (w - 1), fNV) else (intLow w (-(n : Int)), if ix then fNX else 0)
    else
      if 2 ^ (w - 1) ≤ n then (2 ^ (w - 1) - 1, fNV) else (n, if ix then fNX else 0)

/-- The exact value of a two's-complement integer of `w` bits. -/
def ofInt (w : Nat) (x : Nat) : Val :=
  let v := natSigned w x
  .num (decide (v < 0)) v.natAbs 0

/-- The value of an element of a format code, integers included. -/
def decodeCode (c x : Nat) : Val :=
  match ofCode c with
  | some f => decode f x
  | none => if c = 5 then ofInt 8 x else ofInt 32 x

/-- Round an exact value into a format code, integers included. -/
def encodeCode (c : Nat) (md : Mode) (v : Val) : Nat × Flags :=
  match ofCode c with
  | some f => encodeVal f md v
  | none => if c = 5 then toInt 8 md v else toInt 32 md v

/-- A value times a power of two, exactly. -/
def Val.scale (v : Val) (k : Int) : Val :=
  match v with
  | .num s m e => .num s m (e + k)
  | v => v

/-- floor(log2) of a positive finite value. -/
def log2Val : Val → Int
  | .num _ m e => e + (bitLen m : Int) - 1
  | _ => 0

/-- The exponent of the largest normal value of a Microscaling element format (R227). -/
def emaxOf (c : Nat) : Int :=
  if c = 7 then 8 else if c = 8 then 15 else if c = 9 then 4 else 2

/-- Round an exact element of a Microscaling block (R227): overflow saturates with SAT. -/
def encodeMx (f : Fmt) (md : Mode) (v : Val) : Nat × Flags :=
  match v with
  | .num neg m e =>
    if m = 0 then (signBit f neg, 0)
    else let (x, fl) := roundMag f md true m e false
         (signBit f neg + x, fl)
  | _ => (0, fNV)

/-- One FP32 operation rounded to nearest-even, flags dropped (R343). -/
def add32 (a b : Nat) : Nat := (add fp32 nearest a b).1
def sub32 (a b : Nat) : Nat := (sub fp32 nearest a b).1
def mul32 (a b : Nat) : Nat := (mul fp32 nearest a b).1
def div32 (a b : Nat) : Nat := (div fp32 nearest a b).1
def sqrt32 (a : Nat) : Nat := (sqrt fp32 nearest a).1

/-- 1.0 in FP32. -/
def one32 : Nat := 0x3F800000

/-- An unsigned integer rounded to FP32. -/
def ofNat32 (n : Nat) : Nat := (encodeVal fp32 nearest (.num false n 0)).1

/-- Whether an FP32 encoding is finite. -/
def finite32 (a : Nat) : Bool := !(decode fp32 a).nonFinite

/-- FP32 a < b. -/
def lt32 (a b : Nat) : Bool := ltVal (decode fp32 a) (decode fp32 b)

end Sys2Proof.Machine.Fp
end

