-- ==== Sys2Proof/Machine/Reduce.lean ====
section
/-! DEFINITION. What atomics and in-LLC reductions write (R259-R261). -/

namespace Sys2Proof.Machine

/-- The value an atomic leaves in memory (R259); `w` is the operand width in bits. -/
def atomicResult (op w old operand compare : Nat) : Nat :=
  let lt : Bool := natSigned w old < natSigned w operand
  match op with
  | 0 => operand % 2 ^ w
  | 1 => (old + operand) % 2 ^ w
  | 2 => old &&& (operand % 2 ^ w)
  | 3 => old ||| (operand % 2 ^ w)
  | 4 => old ^^^ (operand % 2 ^ w)
  | 5 => if lt then old else operand % 2 ^ w
  | 6 => if lt then operand % 2 ^ w else old
  | 7 => Nat.min old (operand % 2 ^ w)
  | 8 => Nat.max old (operand % 2 ^ w)
  | _ => if old = compare % 2 ^ w then operand % 2 ^ w else old

/-- Bytes of a reduction's target (R260). -/
def redBytes (op : Nat) : Nat := if op = 2 ∨ op = 5 then 2 else 4

/-- The value a reduction leaves in memory (R260, R261). -/
def redResult (op old operand : Nat) : Nat :=
  match op with
  | 0 => (old + operand) % 2 ^ 32
  | 1 => (Fp.add Fp.fp32 Fp.nearest old operand).1
  | 2 => (Fp.add Fp.bf16 Fp.nearest old operand).1
  | 3 => if natSigned 32 old < natSigned 32 operand then operand % 2 ^ 32 else old
  | 4 => Fp.maxNanWins Fp.fp32 old operand
  | _ => Fp.maxNanWins Fp.bf16 old operand

/-- Whether a reduction's result is a non-finite value (R261). -/
def redNonFinite (op v : Nat) : Bool :=
  match op with
  | 1 | 4 => (Fp.decode Fp.fp32 v).nonFinite
  | 2 | 5 => (Fp.decode Fp.bf16 v).nonFinite
  | _ => false

end Sys2Proof.Machine
end

