-- ==== Sys2Proof/Machine/Llc.lean ====
section
/-! DEFINITION. LLC slices: home, victims, fills, the eviction buffer, miss registers and reductions (R263-R269). -/

namespace Sys2Proof.Machine

/-! ## Slices and lines -/

/-- The set of a local address (R263). -/
def setOf (a : Nat) : Nat := natBits a 17 7 ^^^ natBits a 28 18

def sliceAt (m : Module) (sl : Nat) : Slice := Sparse.get {} m.slices sl
def setSlice (sl : Nat) (s : Slice) (m : Module) : Module := { m with slices := Sparse.set m.slices sl s }

def Slice.find (s : Slice) (line : Nat) : Option LlcLine := s.lines.find? fun l => l.line == line
def Slice.entry (s : Slice) (line : Nat) : Option Evicted := s.evicted.find? fun l => l.line == line
def Slice.miss (s : Slice) (line : Nat) : Option Miss := s.misses.find? fun l => l.line == line

/-- Replace a held line. -/
def Slice.put (s : Slice) (l : LlcLine) : Slice :=
  { s with lines := s.lines.map fun k => if k.line == l.line then l else k }

def Slice.drop (s : Slice) (line : Nat) : Slice := { s with lines := s.lines.filter fun k => k.line != line }

def Slice.putEntry (s : Slice) (e : Evicted) : Slice :=
  { s with evicted := s.evicted.map fun k => if k.line == e.line then e else k }

/-- A line is busy while a miss register or a pending reduction names it (R264). -/
def Slice.busy (s : Slice) (line : Nat) : Bool :=
  s.misses.any (fun k => k.line == line) || s.reds.any (fun r => lineOf r.addr == line)

/-- Whether lines may be allocated into way `w` (R270, R427). -/
def Slice.usable (s : Slice) (w : Nat) : Bool :=
  s.wayEn.getLsbD w && s.wayOn.getLsbD w && !s.goingOff.getLsbD w && !s.retired.getLsbD w

/-- AGE and K after a hit with a hint (R256). -/
def hitAge (hint : BitVec 2) (l : LlcLine) : LlcLine :=
  match hint.toNat with
  | 0 => { l with age := 0 }
  | 1 => { l with age := 0, keep := true }
  | _ => { l with age := 3, keep := false }

/-- AGE and K of a fill with a hint (R256). -/
def fillAge (hint : BitVec 2) (l : LlcLine) : LlcLine :=
  match hint.toNat with
  | 0 => { l with age := 1, keep := false }
  | 1 => { l with age := 0, keep := true }
  | _ => { l with age := 3, keep := false }

/-! ## Victims (R264) -/

/-- The line in way `w` of a set. -/
def Slice.wayLine (s : Slice) (set w : Nat) : Option LlcLine :=
  s.lines.find? fun l => l.way == w && setOf l.line == set

/-- One aging round over the enabled ways of a set. -/
def Slice.ageSet (s : Slice) (set : Nat) : Slice :=
  { s with lines := s.lines.map fun l =>
      if setOf l.line == set && s.usable l.way then
        (if l.keep then { l with keep := false } else { l with age := if l.age = 3 then 3 else l.age + 1 })
      else l }

/-- The victim way of a set, with the slice as aging leaves it; none while every enabled way is busy. -/
def victim : Nat → Slice → Nat → Option (Nat × Slice)
  | 0, _, _ => .none
  | fuel + 1, s, set =>
    let ways := (List.range 16).filter s.usable
    match ways.find? (fun w => (s.wayLine set w).isNone) with
    | some w => some (w, s)
    | .none =>
      match ways.find? (fun w => match s.wayLine set w with
          | some l => l.age == 3 && !s.busy l.line
          | .none => false) with
      | some w => some (w, s)
      | .none =>
        if ways.all (fun w => match s.wayLine set w with
            | some l => s.busy l.line
            | .none => false) then .none
        else victim fuel (s.ageSet set) set

/-- Place a line; none while it must wait for a way or for eviction-buffer space (R264). -/
def install (sl : Nat) (l : LlcLine) (m : Module) : Option Module :=
  let s := sliceAt m sl
  match victim 8 s (setOf l.line) with
  | .none => .none
  | some (w, s) =>
    match s.wayLine (setOf l.line) w with
    | .none => some (setSlice sl { s with lines := { l with way := w } :: s.lines } m)
    | some old =>
      if old.dirty && s.evicted.length ≥ 32 then .none
      else
        let evicted := if old.dirty then
            s.evicted ++ [{ line := old.line, data := old.data, poison := old.poison }]
          else s.evicted
        let s := { s.drop old.line with evicted := evicted }
        let m := setSlice sl { s with lines := { l with way := w } :: s.lines } m
        some (if old.untouched && old.owed.isNone then count .llc sl 15 1 m else m)

/-! ## The discard filter (R268) -/

/-- Enter a line's address, replacing the oldest entry of 256. -/
def Slice.enterFilter (s : Slice) (line : Nat) : Slice :=
  { s with filter := ((line :: s.filter.filter (fun k => k != line)).take 256) }

def Slice.leaveFilter (s : Slice) (line : Nat) : Slice :=
  { s with filter := s.filter.filter fun k => k != line }

/-- A read that misses a line whose entry stands: removed, counted, and a source with DFEV. -/
def filterRead (sl line : Nat) (m : Module) : Module :=
  let s := sliceAt m sl
  if s.filter.contains line then
    let m := count .llc sl 7 1 (setSlice sl (s.leaveFilter line) m)
    if s.dfEv then edge (sl / 16) (64 + 4 * (sl % 16)) m else m
  else m

/-! ## What a slice's answers do at threads -/

def threadAt (m : Module) (t : Nat) : Thread := Sparse.get {} m.threads t
def setThread (t : Nat) (th : Thread) (m : Module) : Module := { m with threads := Sparse.set m.threads t th }
def coreAt (m : Module) (c : Nat) : Core := Sparse.get {} m.cores c
def setCore (c : Nat) (k : Core) (m : Module) : Module := { m with cores := Sparse.set m.cores c k }

/-- Give an outstanding load or atomic of `t` its data (R111, R259). -/
def deliver (t : Nat) (rd : Reg) (v : Word) (fill : Option (Nat × List Byte × BitVec 4 × BitVec 2))
    (m : Module) : Module :=
  let th := threadAt m t
  setThread t { th with loads := th.loads.map fun p =>
    if p.rd == rd && p.data.isNone then { p with data := some v, fill := fill } else p } m

/-- The base update of a faulting load is undone; an earlier load's data that it discarded is awaited again (R106). -/
def Thread.undoBase (th : Thread) (p : PendingLoad) : Thread :=
  match p.undo with
  | .none => th
  | some (b, v, live) =>
    { th with
      g := if b = 0 then th.g else Sparse.set th.g b.toNat v
      loads := th.loads.map fun q => if live && q.rd == b then { q with dead := false } else q }

def Thread.loops (th : Thread) : LoopRegs := { ls := th.ls, le := th.le, lc := th.lc, lstat := th.lstat }

/-- The thread when its access `p` takes a data error: `p` and the loads after it are executed again, so what comes
back for those is dropped; base register, latch and loop registers are as they were before `p` (R106, R114, R120).
DEDUCED (log 20). -/
def Thread.dataError (th : Thread) (p : PendingLoad) : Thread :=
  let old := th.loads.takeWhile fun q => q != p
  let young := (th.loads.drop (old.length + 1)).map fun q => { q with squashed := true, line := .none }
  { ({ th with loads := old ++ young }.undoBase p) with
    latch := p.latch
    ls := p.loops.ls, le := p.loops.le, lc := p.loops.lc, lstat := p.loops.lstat
    exc := some { cause := 0x0B, fval := BitVec.ofNat 64 p.addr, rpc := p.pc, target := th.priv.level } }

/-- Cause 0x0B at an outstanding load or atomic: nothing reaches its register (R131, R425). -/
def deliverPoison (t : Nat) (rd : Reg) (dcode : BitVec 8) (addr : Nat) (m : Module) : Module :=
  let th := threadAt m t
  match th.loads.find? (fun p => p.rd == rd && p.data.isNone) with
  | .none => m
  | some p =>
    let th := if p.squashed then { th with loads := th.loads.filter fun q => q != p } else th.dataError p
    raiseError 3 dcode (handleCore (t / 2)) addr 0 (setThread t th m)

/-- Sign or zero extension of loaded bytes (R107). -/
def extendLoad (v bytes : Nat) (signed : Bool) : Word :=
  if signed then BitVec.ofInt 64 (natSigned (8 * bytes) v) else BitVec.ofNat 64 v

/-! ## Gather prefetch snoops (R295) -/

/-- A prefetch entry as a write of its line leaves it: dropped, or its open read marked. -/
def staleLine (line : Nat) (l : List GatherLine) : List GatherLine :=
  if l.any fun e => e.line == line then l.map fun e => if e.line == line then { e with stale := true } else e
  else { line := line, data := [], open_ := false, stale := true } :: l

/-- A write or reduction to a line of a stack: each gather engine with a stream drops its entry and counts it, and
reads the line through its home slice from then on. -/
def snoopGather (line : Nat) (m : Module) : Module :=
  if line ≥ extBase then m
  else
    let st := stackOf line
    let k := stackAt m st
    if k.gathers.isEmpty then m
    else
      let hits := (k.gathers.map fun g =>
        (g.2.filter fun e => e.line == line && !e.open_ && !e.stale).length).foldl (· + ·) 0
      count .basin st 13 hits (setStack st { k with gathers := k.gathers.map fun g => (g.1, staleLine line g.2) } m)

/-! ## Basin request registers (R278) -/

/-- BANKCAP of a stack; 0 means 1,024. -/
def stackCap (k : Stack) : Nat := if k.bankCap = 0 then 1024 else k.bankCap.toNat

/-- Bytes 40-63 of the Squall settings, by body offset (R435). -/
def squallByte (m : Module) (off n : Nat) : Nat := field m.squall.cfg (off - 40) n

/-- Whether a Squall knob acts (R435-R437). DESIGN CHOICE (log 61). -/
def knob (m : Module) (b : Nat) : Bool := m.squall.enabled && m.squall.knobs.getLsbD b

/-- Request registers Squall may hide of a stack (R435). -/
def hiddenRequests (m : Module) : Nat := if knob m 3 then squallByte m 49 2 % 1024 else 0

/-- Miss registers Squall may hide of a slice (R435). -/
def hiddenMisses (m : Module) : Nat := if knob m 3 then squallByte m 48 1 else 0

/-- Request registers a stack may use. -/
def stackRegisters (m : Module) : Nat := 1024 - hiddenRequests m

/-- Whether a bank has all the request registers it may have. -/
def Stack.capped (k : Stack) (bank : Nat) : Bool := (k.held.filter fun h => h.bank == bank).length ≥ stackCap k

/-- A DRAM access asks for a request register: held now, or waiting (R278). -/
def askRegister (st : Nat) (r : DramRequest) (m : Module) : Module :=
  let k := stackAt m st
  if k.capped r.bank then count .basin st 4 1 (setStack st { k with waiting := k.waiting ++ [r] } m)
  else if k.held.length ≥ stackRegisters m then
    edge (st / 2) (132 + 32 * (st % 2)) (setStack st { k with waiting := k.waiting ++ [r] } m)
  else setStack st { k with held := k.held ++ [r] } m

/-- An access of kind `key` to a line, as it asks for a request register. -/
def dramRequest (line key : Nat) : DramRequest := { bank := basinBank line, requester := key, line := line }

/-- Give a register back; Squall may take it as it frees (R436). -/
def freeRegister (st : Nat) (r : DramRequest) (m : Module) : Module :=
  let k := stackAt m st
  let taken := if k.held.length > stackRegisters m then 1 else 0
  count .squall 0 3 taken (setStack st { k with held := k.held.erase r } m)

def holdsRegister (m : Module) (line key : Nat) : Bool := (stackAt m (stackOf line)).held.contains (dramRequest line key)

/-- A register is free for an access to a line made and answered at once: none that waits could take it. -/
def registerRoom (m : Module) (line : Nat) : Bool :=
  line ≥ extBase ||
    let k := stackAt m (stackOf line)
    k.held.length < stackRegisters m && !k.capped (basinBank line) && k.waiting.all fun r => k.capped r.bank

/-- An access to a line may be made and answered now (R272, R278). -/
def lineReady (m : Module) (line : Nat) : Bool := dramReady m line && registerRoom m line

/-- Requesters of a stack's registers: its slices, the engines, gather prefetch, scrub and write-backs. -/
def forSlice : Nat := 0
def forEngine : Nat := 1
def forGather : Nat := 2
def forScrub : Nat := 3
def forWriteBack : Nat := 4

/-- An access waits for a request register, unless it does already. -/
def waitRegister (line key : Nat) (m : Module) : Module :=
  let r := dramRequest line key
  if line ≥ extBase || (stackAt m (stackOf line)).waiting.contains r then m else askRegister (stackOf line) r m

/-- The register of an access of kind `key` made and answered now: the one it has waited for, or one that is free. -/
def useRegister (line key : Nat) (m : Module) : Option Module :=
  if line ≥ extBase then some m
  else
    let st := stackOf line
    let k := stackAt m st
    let r := dramRequest line key
    if k.held.contains r then some (freeRegister st r m)
    else if k.held.length < stackRegisters m && !k.capped r.bank && k.waiting.all fun w => w == r || k.capped w.bank then
      some (setStack st { k with waiting := k.waiting.erase r } m)
    else .none

/-- An access of kind `key` to a line: made now under a register, else it waits for one. DEDUCED (log 27). -/
def withRegister (line key : Nat) (f : Module → Module) (m : Module) : Module :=
  if !dramReady m line then m
  else match useRegister line key m with
    | some m => f m
    | .none => waitRegister line key m

/-- A request is made no more: its register is free, or its wait over. -/
def dropRegister (st : Nat) (r : DramRequest) (m : Module) : Module :=
  let k := stackAt m st
  if k.held.contains r then freeRegister st r m else setStack st { k with waiting := k.waiting.erase r } m

/-- A line may be written back now: its channel takes it, and it has its request register or one is free (R272, R278). -/
def writeReady (m : Module) (line : Nat) : Bool :=
  dramReady m line && (registerRoom m line || holdsRegister m line forWriteBack)

/-- The request register of a line's write-back is free, or its wait over (R278). -/
def endWriteBack (line : Nat) (m : Module) : Module :=
  if line < extBase then dropRegister (stackOf line) (dramRequest line forWriteBack) m else m

/-- A line that is to be written back waits for its request register (R278). -/
def waitWriteBack (line : Nat) (m : Module) : Module :=
  if dramReady m line && !writeReady m line then waitRegister line forWriteBack m else m

/-! ## Miss registers (R266, R267) -/

/-- The memory bank of an address: Basin bank, or LPDDR5X channel and 1 KiB unit modulo 32 (R267, R271, log 12). -/
def bankOf (a : Nat) : Nat :=
  if a < extBase then 512 * stackOf a + basinBank a
  else
    let q := natBits (a - extBase) 38 12 * 256 + natBits (a - extBase) 7 0
    4096 + 128 * packageOf a + 32 * natBits q 9 8 + natBits q 14 10

/-- BANKCAP of a slice; 0 means 256. -/
def Slice.cap (s : Slice) : Nat := if s.bankCap = 0 then 256 else s.bankCap.toNat

/-- Miss registers a slice may use: Squall may hide some (R435). -/
def sliceRegisters (m : Module) : Nat := 256 - hiddenMisses m

/-- Whether a request for a line's bank is within the cap. -/
def Slice.underCap (s : Slice) (line : Nat) : Bool :=
  (s.misses.filter fun k => bankOf k.line == bankOf line).length < s.cap

/-- Whether a queued request waits for a miss register that it could take (R266, R267). -/
def Slice.wantsRegister (s : Slice) (r : Request) : Bool :=
  (s.miss (lineOf r.addr)).isNone && (s.find (lineOf r.addr)).isNone && s.underCap (lineOf r.addr)

/-- A new request to a line may take a miss register: one is free within the cap, and none that waits could have it. -/
def Slice.roomFor (s : Slice) (m : Module) (line : Nat) : Bool :=
  s.underCap line && s.misses.length < sliceRegisters m && !s.queue.any s.wantsRegister

/-- Number of a line among those of its slice: neighbours of a slice differ by one (R263). -/
def sliceIndex (line : Nat) : Nat := if line < extBase then line / 2048 else 2 ^ 30 + (line - extBase) / 8192

/-- The prefetcher follows the misses of each requester: a run begins where two in a row are neighbours (R269).
DEDUCED (log 26). -/
def MissRun.next (r : MissRun) (line : Nat) : MissRun :=
  { r with last := line, descends :=
      if sliceIndex line = sliceIndex r.last + 1 then some false
      else if sliceIndex line + 1 = sliceIndex r.last then some true
      else .none }

def Slice.noteMiss (s : Slice) (who line : Nat) : Slice :=
  match s.runs.find? fun r => r.who == who with
  | .none => { s with runs := { who := who, last := line } :: s.runs }
  | some r => { s with runs := r.next line :: s.runs.filter fun x => x.who != who }

/-- A requester of line misses: a thread, or the agents that are none. -/
def Ask.who : Ask → Nat
  | .load t _ _ _ | .atomic t _ _ _ _ _ | .reduce (some t) _ _ => t + 1
  | .access who _ => who
  | .reduce .none _ _ | .prefetch => 0

/-- Give a miss register to a request, and ask memory for the line. -/
def takeMiss (sl : Nat) (r : Request) (m : Module) : Module :=
  let s := sliceAt m sl
  let line := lineOf r.addr
  let s := if r.ask = .prefetch then s else s.noteMiss r.ask.who line
  let m := setSlice sl { s with misses := s.misses ++ [{ line := line, waiters := [r] }] } m
  let m := count .llc sl 1 1 m
  let m := if s.misses.length + 1 = 256 then edge (sl / 16) (66 + 4 * (sl % 16)) m else m
  if line < extBase then askRegister (stackOf line) (dramRequest line forSlice) m else m

/-- The miss register of a line is free again; Squall may take it as it frees (R436). -/
def freeMiss (sl line : Nat) (m : Module) : Module :=
  let s := sliceAt m sl
  let taken := if s.misses.length > sliceRegisters m then 1 else 0
  let m := setSlice sl { s with misses := s.misses.filter fun q => q.line != line } m
  count .squall 0 3 taken
    (if line < extBase then freeRegister (stackOf line) (dramRequest line forSlice) m else m)

/-- Registers that settings hide at once, over the ones the settings before them did: those of the slices and of the
stacks that are free. The others are taken as they free (R436). -/
def newlyHidden (before m : Module) : Nat :=
  let more (total held old new : Nat) : Nat := Nat.min new (total - held) - Nat.min old (total - held)
  ((List.range 64).map fun sl => more 256 (sliceAt m sl).misses.length (hiddenMisses before) (hiddenMisses m)).sum
    + (((List.range 8).filter (stackPresent m.board.part)).map fun st =>
        more 1024 (stackAt m st).held.length (hiddenRequests before) (hiddenRequests m)).sum

/-- The read of a line has its Basin request register, or needs none (R278). -/
def readGranted (m : Module) (line : Nat) : Bool :=
  line ≥ extBase || holdsRegister m line forSlice

/-! ## Applying to a line -/

/-- A reduction applied to line bytes: refused on a poisoned unit (R261, R425). DEDUCED (log 27). -/
def reduceLine (sl : Nat) (op : Nat) (addr operand : Nat) (data : List Byte) (poison : BitVec 4)
    (m : Module) : List Byte × Module :=
  let off := addr % 128
  let n := redBytes op
  if touchesPoison poison off n then
    (data, raiseError 3 0x26 (handleSlice sl) addr 0 m)
  else
    let v := redResult op (lineValue data off n) operand
    let m := count .llc sl 8 1 m
    (putLineValue data off n v, if redNonFinite op v then count .llc sl 10 1 m else m)

/-- Serve one waiter from a line that is held: the line's new bytes, whether they changed. -/
def serveWaiter (sl : Nat) (r : Request) (data : List Byte) (poison : BitVec 4) (m : Module) :
    (List Byte × Bool) × Module :=
  let off := r.addr % 128
  match r.ask with
  | .prefetch | .access _ _ => ((data, false), m)
  | .load t rd bytes sgn =>
    if touchesPoison poison off bytes then ((data, false), deliverPoison t rd 0x21 r.addr m)
    else
      ((data, false), deliver t rd (extendLoad (lineValue data off bytes) bytes sgn)
        (if r.hint = 3 then .none else some (lineOf r.addr, data, poison, r.hint)) m)
  | .atomic t rd op bytes operand compare =>
    if touchesPoison poison off bytes then ((data, false), deliverPoison t rd 0x26 r.addr m)
    else
      let old := lineValue data off bytes
      let v := atomicResult op.toNat (8 * bytes) old operand compare
      ((putLineValue data off bytes v, true),
        deliver t rd (extendLoad old bytes (bytes == 4)) .none (snoopGather (lineOf r.addr) m))
  | .reduce _ op operand =>
    let x := reduceLine sl op.toNat r.addr operand data poison m
    ((x.1, true), snoopGather (lineOf r.addr) x.2)

/-- Whether a request is a read, one that discards its line, or a reduction. -/
def Request.reads (r : Request) : Bool :=
  match r.ask with
  | .load _ _ _ _ | .prefetch => true
  | .access _ read => read
  | _ => false

def Request.discards (r : Request) : Bool :=
  r.hint == 3 && (match r.ask with
    | .load _ _ _ _ => true
    | _ => false)

def Request.reduces (r : Request) : Bool :=
  match r.ask with
  | .reduce _ _ _ => true
  | _ => false

/-- AGE and K of a line by a demand: the first since its fill gives the fill's, each later one a hit's (R256). An atomic
acts as normal, and so does a reduction at a fill. DESIGN CHOICE (log 26). -/
def LlcLine.use (hint : BitVec 2) (l : LlcLine) : LlcLine :=
  { (if l.untouched then fillAge hint l else hitAge hint l) with untouched := false, owed := .none }

/-- The line as a waiter of its fill leaves it: a prefetch as it is, and an access of another kind with its turn. -/
def Request.ages (r : Request) (l : LlcLine) : LlcLine :=
  match r.ask with
  | .prefetch => l
  | .access who _ => { l with owed := some who }
  | _ => l.use r.hint

/-- An access of another kind, which goes on once its agent makes it again. -/
def Request.comesAgain (r : Request) : Bool :=
  match r.ask with
  | .access _ _ => true
  | _ => false

/-- One waiter of a fill is served: a discard drops the line unless a reduction waits with it (R256, R257), and one served
after the drop finds what memory holds, `fresh`, and takes the entry out of the discard filter (R268). -/
def serveStep (sl : Nat) (pending : Bool) (fresh : LlcLine) (x : Option LlcLine × Module) (r : Request) :
    Option LlcLine × Module :=
  let y : LlcLine × Module := match x.1 with
    | some l => (l, x.2)
    | .none => (fresh, if r.reads then filterRead sl fresh.line x.2
        else setSlice sl ((sliceAt x.2 sl).leaveFilter fresh.line) x.2)
  if x.1.isNone && r.ask = .prefetch then (.none, y.2)
  else
    let z := serveWaiter sl r y.1.data y.1.poison y.2
    let l := { r.ages y.1 with data := z.1.1, dirty := y.1.dirty || z.1.2 }
    if !r.discards then (some l, z.2)
    else if pending then (some l, count .llc sl 6 1 z.2)
    else (.none, count .llc sl 5 1 (setSlice sl ((sliceAt z.2 sl).enterFilter fresh.line) z.2))

/-- Serve the waiters of a fill in arrival order, up to one that its agent must make again: those after it wait for
that (R266). -/
def serveWaiters (sl : Nat) (pending : Bool) (fresh : LlcLine) :
    List Request → Option LlcLine × Module → List Request × (Option LlcLine × Module)
  | [], x => ([], x)
  | r :: rs, x =>
    let y := serveStep sl pending fresh x r
    if r.comesAgain then (rs, y) else serveWaiters sl pending fresh rs y

/-- The waiters of a fill are served; the line is none where the last of them left none. -/
def serveFill (sl : Nat) (fresh : LlcLine) (waiters : List Request) (m : Module) : Option LlcLine × Module :=
  let x := serveWaiters sl (waiters.any (·.reduces)) fresh waiters (some fresh, m)
  let s := sliceAt x.2.2 sl
  (x.2.1, setSlice sl { s with queue := x.1.map (fun r => { r with joined := true }) ++ s.queue } x.2.2)

/-! ## Write-backs (R265) -/

/-- An entry leaves the eviction buffer, and the request register of its write-back is free (R265, R278). -/
def dropEntry (sl line : Nat) (m : Module) : Module :=
  let s := sliceAt m sl
  endWriteBack line (setSlice sl { s with evicted := s.evicted.filter fun k => k.line != line } m)

/-- The entry's write-back reaches memory and is acknowledged at once, with every later value. -/
def retireEntry (sl line : Nat) (m : Module) : Module :=
  let s := sliceAt m sl
  match s.entry line with
  | .none => m
  | some e =>
    writeDram line e.data e.poison (dropEntry sl line m)

/-- Apply one reduction that has arrived (R262, R265): in the array, in the eviction buffer, or, where no way may hold the
line, in memory. -/
def applyReduction (sl : Nat) (r : Request) (m : Module) : Module :=
  let s := sliceAt m sl
  let line := lineOf r.addr
  match r.ask with
  | .reduce _ op operand =>
    match s.find line with
    | some l =>
      let x := reduceLine sl op.toNat r.addr operand l.data l.poison m
      setSlice sl ((sliceAt x.2 sl).put { l with data := x.1, dirty := true, untouched := false }) x.2
    | .none =>
      match s.entry line with
      | some e =>
        let x := reduceLine sl op.toNat r.addr operand e.data e.poison m
        let m := count .llc sl 9 1 x.2
        setSlice sl ((sliceAt m sl).putEntry { e with data := x.1, redirty := e.sent || e.redirty }) m
      | .none =>
        let d := readDram line m
        let x := reduceLine sl op.toNat r.addr operand d.1.1 d.1.2 d.2
        writeDram line x.1 d.1.2 x.2
  | _ => m

/-- Apply the oldest pending reduction of a slice, if any. -/
def applyOldest (sl : Nat) (m : Module) : Module :=
  let s := sliceAt m sl
  match s.reds with
  | [] => m
  | r :: rest => snoopGather (lineOf r.addr) (applyReduction sl r (setSlice sl { s with reds := rest } m))

def applyOldestN (sl : Nat) : Nat → Module → Module
  | 0, m => m
  | n + 1, m => applyOldestN sl n (applyOldest sl m)

/-- Apply every pending reduction of a slice, in arrival order. -/
def drainReds (sl : Nat) (m : Module) : Module := applyOldestN sl (sliceAt m sl).reds.length m

/-- Make room for one fill at once: reductions applied, and, if all 32 entries stand, the oldest whose channel takes it
written back. -/
def makeRoom (sl : Nat) (m : Module) : Module :=
  let m := drainReds sl m
  let s := sliceAt m sl
  if s.evicted.length < 32 then m
  else match s.evicted.find? fun e => writeReady m e.line with
    | some e => retireEntry sl e.line m
    | .none => m

/-- Place a line, making room if it must; none while it must wait. With every way off or retired its bytes go to memory. -/
def forceInstall (sl : Nat) (l : LlcLine) (m : Module) : Option Module :=
  match install sl l m with
  | some m => some m
  | .none =>
    let m := makeRoom sl m
    match install sl l m with
    | some m => some m
    | .none =>
      if (List.range 16).any (sliceAt m sl).usable then .none
      else if !l.dirty then some m
      else if lineReady m l.line then some (writeDram l.line l.data l.poison m)
      else .none

/-! ## Arrival (R265, R266) -/

/-- Where a request goes that is not served at once. -/
inductive Arrival where
  | served
  | joined
  | registered
  | queued
  deriving DecidableEq, Repr

/-- A request joins the input queue of its slice. -/
def waitInQueue (sl : Nat) (r : Request) (m : Module) : Arrival × Module :=
  let s := sliceAt m sl
  (.queued, setSlice sl { s with queue := s.queue ++ [r] } m)

/-- A request hits a line in the array (R256, R257). A reduction leaves AGE and K as they are: DESIGN CHOICE (log 26). -/
def hitLine (sl : Nat) (r : Request) (l : LlcLine) (m : Module) : Module :=
  let useful (m : Module) : Module := if l.untouched && !r.joined then count .llc sl 13 1 m else m
  let hit (m : Module) : Module := useful (if r.joined then m else count .llc sl 0 1 m)
  match r.ask with
  | .prefetch => m
  | .reduce _ _ _ =>
    let s := (sliceAt m sl).put { l with untouched := false, owed := .none }
    useful (setSlice sl { s with reds := s.reds ++ [r] } m)
  | .access who _ => hit (setSlice sl ((sliceAt m sl).put { l with untouched := l.untouched && r.joined, owed := some who }) m)
  | _ =>
    let x := serveWaiter sl r l.data l.poison (hit m)
    let s := sliceAt x.2 sl
    let l := { l.use r.hint with data := x.1.1, dirty := l.dirty || x.1.2 }
    if !r.discards then setSlice sl (s.put l) x.2
    else if s.busy l.line then count .llc sl 6 1 (setSlice sl (s.put l) x.2)
    else count .llc sl 5 1 (setSlice sl ((s.drop l.line).enterFilter l.line) x.2)

/-- A request meets an entry of the eviction buffer (R257, R265). -/
def hitEntry (sl : Nat) (r : Request) (e : Evicted) (m : Module) : Module :=
  match r.ask with
  | .reduce _ _ _ => setSlice sl { sliceAt m sl with reds := (sliceAt m sl).reds ++ [r] } m
  | .prefetch | .access _ _ => m
  | _ =>
    let m := count .llc sl 11 1 m
    let x := serveWaiter sl r e.data e.poison m
    let s := sliceAt x.2 sl
    let e := { e with data := x.1.1, redirty := e.redirty || (x.1.2 && e.sent) }
    if !r.discards then setSlice sl (s.putEntry e) x.2
    else if s.busy e.line then count .llc sl 6 1 (setSlice sl (s.putEntry e) x.2)
    else
      let m := dropEntry sl e.line x.2
      count .llc sl 5 1 (setSlice sl ((sliceAt m sl).enterFilter e.line) m)

/-- The line is owed to a requester other than `who`, whose access comes first (R266). -/
def Slice.owesOther (s : Slice) (who line : Nat) : Bool :=
  match s.find line with
  | some l => l.owed.isSome && l.owed != some who
  | .none => false

/-- A request is taken by its slice: served on a hit, else it joins a miss register, takes one, or waits. -/
def takeRequest (sl : Nat) (r : Request) (m : Module) : Arrival × Module :=
  let line := lineOf r.addr
  let m := if r.reads then m else setSlice sl ((sliceAt m sl).leaveFilter line) m
  let s := sliceAt m sl
  match s.miss line with
  | some k =>
    if k.waiters.length < 16 then
      let m := setSlice sl { s with misses := s.misses.map fun q =>
        if q.line == line then { q with waiters := q.waiters ++ [r] } else q } m
      let m := count .llc sl 4 1 m
      let late := k.waiters.all fun w => w.ask == .prefetch
      (.joined, if late then count .llc sl 14 1 m else m)
    else waitInQueue sl r m
  | .none =>
    match s.find line with
    | some l =>
      if s.owesOther r.ask.who line && r.ask != .prefetch then waitInQueue sl r m else (.served, hitLine sl r l m)
    | .none =>
      match s.entry line with
      | some e => (.served, hitEntry sl r e m)
      | .none =>
        let m := if r.reads then filterRead sl line m else m
        if !(sliceAt m sl).underCap line then waitInQueue sl r (count .llc sl 3 1 m)
        else if (sliceAt m sl).roomFor m line then (.registered, takeMiss sl r m)
        else waitInQueue sl r m

/-- A request reaches its home slice (R265, R266): behind those to its line that wait in the input queue (R262). -/
def arrive (sl : Nat) (r : Request) (m : Module) : Arrival × Module :=
  if (sliceAt m sl).queue.any fun q => lineOf q.addr == lineOf r.addr then waitInQueue sl r m else takeRequest sl r m

/-- A line as memory gives it, before any waiter of its fill is served. -/
def filled (line : Nat) (d : List Byte × BitVec 4) : LlcLine :=
  { line := line, way := 0, data := d.1, poison := d.2, age := 2, untouched := true }

/-- The data for an open miss register arrives: its waiters are served in arrival order and the line they leave is placed
(by `force`, whatever must be made room for); none while the fill must wait. -/
def fill (force : Bool) (sl line : Nat) (m : Module) : Option Module :=
  match (sliceAt m sl).miss line with
  | .none => .none
  | some k =>
    let d := readDram line m
    let x := serveFill sl (filled line d.1) k.waiters (freeMiss sl line d.2)
    match x.1 with
    | .none => some x.2
    | some l => if force then forceInstall sl l x.2 else install sl l x.2

/-! ## Accesses served at once: every agent but a scalar load, an atomic or a reduction -/

/-- It is the turn of `who` at a line. -/
def Slice.turnOf (s : Slice) (who line : Nat) : Bool := (s.find line).any fun l => l.owed == some who

/-- A request is the place of an access of `who` to a line. -/
def Request.placeOf (r : Request) (who line : Nat) : Bool :=
  lineOf r.addr == line && match r.ask with
    | .access w _ => w == who
    | _ => false

/-- An access of `who` has its turn at the home slice of a line: no request to the line is before it, or it is the waiter
of the fill that comes now (R266); none while it must wait. -/
def settle (who : Nat) (read : Bool) (line : Nat) (m : Module) : Option Module :=
  let sl := homeSlice line
  let s := sliceAt m sl
  if s.turnOf who line then some m
  else if (s.queue.any fun q => lineOf q.addr == line) || s.owesOther who line then .none
  else match s.miss line with
    | .none => some m
    | some k =>
      if !(dramReady m line && readGranted m line) then .none
      else
        let m := if k.waiters.any (·.placeOf who line) then m
          else (takeRequest sl { ask := .access who read, addr := line } m).2
        match fill true sl line m with
        | some m => if (sliceAt m sl).turnOf who line then some m else .none
        | .none => .none

/-- A line with no open miss register: its fill comes now; none while it must wait. -/
def settleFill (line : Nat) (m : Module) : Option Module :=
  let sl := homeSlice line
  match (sliceAt m sl).miss line with
  | .none => some m
  | some _ => if dramReady m line && readGranted m line then fill true sl line m else .none

/-- Whether the read of a line that misses may be made and answered now: it holds its miss register and its request
register no longer than that (R266, R267, R278). DESIGN CHOICE (log 26). -/
def missReady (m : Module) (line : Nat) : Bool := lineReady m line && (sliceAt m (homeSlice line)).roomFor m line

/-- A hit of a line is counted, unless it is the turn of an access counted when it came (R266, R269). -/
def countHit (sl : Nat) (l : LlcLine) (m : Module) : Module :=
  if l.owed.isSome then m
  else
    let m := count .llc sl 0 1 m
    if l.untouched then count .llc sl 13 1 m else m

/-- Requester `who`'s read of a whole line at its home slice (R256, R264, R265, R268); none while it must wait. A read for
an atomic or a reduction (`reads` false) only takes the line's entry out of the discard filter. -/
def llcReadBy (who : Nat) (reads : Bool) (line : Nat) (hint : BitVec 2) (m : Module) :
    Option ((List Byte × BitVec 4) × Module) :=
  let sl := homeSlice line
  match settle who reads line m with
  | .none => .none
  | some m =>
    let s := sliceAt m sl
    match s.find line with
    | some l =>
      let m := countHit sl l m
      let s := sliceAt m sl
      if hint = 3 then
        if s.busy line then some ((l.data, l.poison), count .llc sl 6 1 (setSlice sl (s.put (l.use 2)) m))
        else some ((l.data, l.poison), count .llc sl 5 1 (setSlice sl ((s.drop line).enterFilter line) m))
      else some ((l.data, l.poison), setSlice sl (s.put (l.use hint)) m)
    | .none =>
      match s.entry line with
      | some e =>
        let m := count .llc sl 11 1 m
        if hint = 3 then
          if s.busy line then some ((e.data, e.poison), count .llc sl 6 1 m)
          else
            let m := dropEntry sl line m
            some ((e.data, e.poison), count .llc sl 5 1 (setSlice sl ((sliceAt m sl).enterFilter line) m))
        else some ((e.data, e.poison), m)
      | .none =>
        if !missReady m line then .none
        else
          let m := if reads then filterRead sl line m else setSlice sl (s.leaveFilter line) m
          let m := count .llc sl 1 1 m
          let m := setSlice sl ((sliceAt m sl).noteMiss who line) m
          let r := readDram line m
          if hint = 3 then
            some (r.1, count .llc sl 5 1 (setSlice sl ((sliceAt r.2 sl).enterFilter line) r.2))
          else
            (forceInstall sl (fillAge hint { line := line, way := 0, data := r.1.1, poison := r.1.2 }) r.2).map
              fun m => (r.1, m)

/-- A read of a whole line by an agent that is no thread. -/
abbrev llcRead (line : Nat) (hint : BitVec 2) (m : Module) : Option ((List Byte × BitVec 4) × Module) :=
  llcReadBy 0 true line hint m

/-- A write of some bytes of a line at its home slice: a whole line allocates without a read, a partial
one merges (R264, R265, R268); none while it must wait. -/
def llcWrite (line off : Nat) (bytes : List Byte) (mask : Nat → Bool) (hint : BitVec 2) (m : Module) :
    Option Module :=
  let sl := homeSlice line
  let whole := off == 0 && bytes.length == 128 && (List.range 128).all mask
  match settle 0 false line m with
  | .none => .none
  | some m =>
    let s := sliceAt m sl
    let m := snoopGather line (setSlice sl (s.leaveFilter line) m)
    let s := sliceAt m sl
    match s.find line with
    | some l =>
      let x := mergeLine l.data l.poison off bytes mask
      let m := countHit sl l m
      some (setSlice sl ((sliceAt m sl).put { l.use hint with data := x.1, poison := x.2, dirty := true }) m)
    | .none =>
      match s.entry line with
      | some e =>
        let x := mergeLine e.data e.poison off bytes mask
        let m := count .llc sl 11 1 m
        some (setSlice sl ((sliceAt m sl).putEntry
          { e with data := x.1, poison := x.2, redirty := e.redirty || e.sent }) m)
      | .none =>
        if !whole && !missReady m line then .none
        else
          let m := count .llc sl 1 1 m
          let m := setSlice sl ((sliceAt m sl).noteMiss 0 line) m
          let r := if whole then ((List.replicate 128 0, 0), m) else readDram line m
          let x := mergeLine r.1.1 r.1.2 off bytes mask
          forceInstall sl
            (fillAge hint { line := line, way := 0, data := x.1, poison := x.2, dirty := true }) r.2

/-- An access of requester `who` that waits takes its place at the home slice, unless it has one: among the waiters of
the line's fill, with a miss register of its own, or in the input queue (R266, R267). -/
def waitMiss (who line : Nat) (read : Bool) (m : Module) : Module :=
  let sl := homeSlice line
  let s := sliceAt m sl
  let waits := s.queue.any (·.placeOf who line) || (s.miss line).any fun k => k.waiters.any (·.placeOf who line)
  let free := !(s.queue.any fun q => lineOf q.addr == line) && !s.owesOther who line
    && ((s.find line).isSome || (s.entry line).isSome)
  if waits || free || s.turnOf who line then m else (arrive sl { ask := .access who read, addr := line } m).2

/-- A reduction performed at its home slice at once, after those that arrived before it. -/
def llcReduce (op : BitVec 3) (addr operand : Nat) (m : Module) : Option Module :=
  let line := lineOf addr
  let sl := homeSlice line
  match llcReadBy 0 false line 0 m with
  | .none => .none
  | some (_, m) =>
    let m := drainReds sl m
    some (snoopGather line (applyReduction sl { ask := .reduce .none op operand, addr := addr } m))

/-- What a line holds, wherever the newest copy of it stands: in the array, in the eviction buffer or in memory. -/
def heldLine (line : Nat) (m : Module) : List Byte × BitVec 4 :=
  let s := sliceAt m (homeSlice line)
  match s.find line with
  | some l => (l.data, l.poison)
  | .none =>
    match s.entry line with
    | some e => (e.data, e.poison)
    | .none => (memBytes m line 128, memPoison m line)

/-- New bytes for a line, where the newest copy of it stands. -/
def putHeld (line : Nat) (data : List Byte) (poison : BitVec 4) (m : Module) : Module :=
  let sl := homeSlice line
  let s := sliceAt m sl
  match s.find line with
  | some l => setSlice sl (s.put { l with data := data, dirty := true }) m
  | .none =>
    match s.entry line with
    | some e => setSlice sl (s.putEntry { e with data := data, redirty := e.redirty || e.sent }) m
    | .none => writeDram line data poison m

/-- An atomic performed at its home slice at once: the old value, or none on a poisoned unit. -/
def llcAtomic (op : BitVec 4) (bytes addr operand compare : Nat) (m : Module) : Option (Option Nat × Module) :=
  let line := lineOf addr
  let sl := homeSlice line
  match llcReadBy 0 false line 0 m with
  | .none => .none
  | some (_, m) =>
    let m := drainReds sl m
    let d := heldLine line m
    if touchesPoison d.2 (addr % 128) bytes then some (.none, m)
    else
      let old := lineValue d.1 (addr % 128) bytes
      let v := atomicResult op.toNat (8 * bytes) old operand compare
      some (some old, snoopGather line (putHeld line (putLineValue d.1 (addr % 128) bytes v) d.2 m))

/-- Write a line back if it is dirty or in the eviction buffer, pending reductions applied first, and keep
it valid and clean (R296); the flag tells that something was written back; none while it must wait. -/
def cleanLine (line : Nat) (m : Module) : Option (Bool × Module) :=
  let sl := homeSlice line
  match settleFill line m with
  | .none => .none
  | some m =>
    let m := if (sliceAt m sl).busy line then drainReds sl m else m
    let s := sliceAt m sl
    let inBuffer := (s.entry line).isSome
    let dirty := s.find line |>.filter (·.dirty)
    if (inBuffer || dirty.isSome) && !writeReady m line then .none
    else
      let m := retireEntry sl line m
      some (match dirty with
        | some l => (true, writeDram line l.data l.poison
            (setSlice sl ((sliceAt m sl).put { l with dirty := false }) (endWriteBack line m)))
        | .none => (inBuffer, m))

/-- A clean of a line that must wait has asked for the request register of its write-back (R278). -/
def waitClean (line : Nat) (m : Module) : Module :=
  let s := sliceAt m (homeSlice line)
  if (s.entry line).isSome || (s.find line).any (fun l => l.dirty || s.busy line) then waitWriteBack line m else m

/-- Write back and invalidate a line (R297): the flag tells that the slice held newer data; none while it must wait. -/
def invalidateLine (line : Nat) (m : Module) : Option (Bool × Module) :=
  (cleanLine line m).map fun x =>
    (x.1, setSlice (homeSlice line) ((sliceAt x.2 (homeSlice line)).drop line) x.2)

/-- The 32-byte unit of an address is marked poisoned: in memory, and in the line and the eviction entry of its home
slice (R274, R424). DEDUCED (log 27). -/
def markPoison (a : Nat) (m : Module) : Module :=
  let line := lineOf a
  let sl := homeSlice a
  let bit : BitVec 4 := 1#4 <<< (a % 128 / 32)
  let m := { m with poison := Sparse.set m.poison (a / 32) true }
  let m := match (sliceAt m sl).find line with
    | some l => setSlice sl ((sliceAt m sl).put { l with poison := l.poison ||| bit }) m
    | .none => m
  match (sliceAt m sl).entry line with
  | some e => setSlice sl ((sliceAt m sl).putEntry { e with poison := e.poison ||| bit }) m
  | .none => m

end Sys2Proof.Machine
end

