-- ==== Sys2Proof/Machine/Records.lean ====
section
/-! DEFINITION. Rings, completion records, interrupt moderation, retirement of pool entries and the cascade of
aborts (R38-R63), and the tokens (R84, R85). -/

namespace Sys2Proof.Machine

/-! ## Pointers (R38, R39) -/

/-- Used entries of a ring of `2 ^ n` entries. -/
def used (n head tail : Nat) : Nat := (tail + 2 ^ (n + 1) - head % 2 ^ (n + 1)) % 2 ^ (n + 1)

/-- The pointer after `k` more entries. -/
def advance (n p k : Nat) : Nat := (p + k) % 2 ^ (n + 1)

/-- Whether `v` is a pointer a write may move the head of a ring to (R42). -/
def headAllowed (n head tail v : Nat) : Bool := v / 2 ^ (n + 1) == 0 && used n head v ≤ used n head tail

def ringAt (m : Module) (r : Nat) : Ring := Sparse.get {} m.host.rings r
def setRing (r : Nat) (x : Ring) (m : Module) : Module :=
  { m with host := { m.host with rings := Sparse.set m.host.rings r x } }

/-! ## Fields of a descriptor (R49) -/

def opcodeOf (e : Entry) : Nat := byteAt e.bytes 0
/-- The opcodes of two slots (R50, R70). -/
def critical (op : Nat) : Bool := 0x80 ≤ op && op ≤ 0x86

def revOf (e : Entry) : Nat := byteAt e.bytes 1 / 16
def fenced (e : Entry) : Bool := natBit (byteAt e.bytes 1) 1
def noirq (e : Entry) : Bool := natBit (byteAt e.bytes 1) 0
def asidOf (e : Entry) : BitVec 6 := BitVec.ofNat 6 (byteAt e.bytes 2)
def tagOf (e : Entry) : Nat := field e.bytes 4 4

/-- The four 16-bit input or output words that stand at byte `at_` (R87). -/
def tokenWords (e : Entry) (at_ : Nat) : List Nat := (List.range 4).map fun i => field e.bytes (at_ + 2 * i) 2

/-- Where IN0 stands: byte 40 of a task, byte 32 of a layer update; other opcodes have no tokens. -/
def inWords (e : Entry) : List Nat :=
  if opcodeOf e = 1 then tokenWords e 40 else if opcodeOf e = 3 then tokenWords e 32 else []

def outWords (e : Entry) : List Nat :=
  if opcodeOf e = 1 then tokenWords e 48 else if opcodeOf e = 3 then tokenWords e 40 else []

/-- Tokens named by words with V = 1. -/
def validTokens (ws : List Nat) : List Nat := (ws.filter fun w => natBit w 15).map fun w => w % 4096

/-- Tokens named by input words with V and CONSUME. -/
def consumeTokens (e : Entry) : List Nat :=
  ((inWords e).filter fun w => natBit w 15 && natBit w 14).map fun w => w % 4096

/-! ## The pool -/

def entryAt (m : Module) (p : Nat) : Option Entry := m.hg.pool.find? fun e => e.id == p

def setEntry (e : Entry) (m : Module) : Module :=
  { m with hg := { m.hg with pool := m.hg.pool.map fun x => if x.id == e.id then e else x } }

def setPool (l : List Entry) (m : Module) : Module := { m with hg := { m.hg with pool := l } }

/-! ## Tokens (R84, R85) -/

/-- Set one token; a set of a set token counts (R85). -/
def setToken (t : Nat) (m : Module) : Module :=
  let m' := { m with hg := { m.hg with tokens := m.hg.tokens ||| (1#4096 <<< t) } }
  if m.hg.tokens.getLsbD t then count .hg 0 2 1 m' else m'

def clearToken (t : Nat) (m : Module) : Module :=
  { m with hg := { m.hg with tokens := m.hg.tokens &&& ~~~(1#4096 <<< t) } }

def setTokens : List Nat → Module → Module
  | [], m => m
  | t :: ts, m => setTokens ts (setToken t m)

/-! ## Completion records (R53-R58) -/

def maxU32 : Nat := 0xFFFFFFFF

/-- A count field, saturated (R55). -/
def sat32 (n : Nat) : Nat := if n > maxU32 then maxU32 else n

/-- The microseconds passed, in timestamp ticks of 1 ns. DESIGN CHOICE (log 2). -/
def micros (n : Nat) : Nat := 1000 * n

/-- Milliseconds, in timestamp ticks. -/
def millis (n : Nat) : Nat := 1000 * micros n

/-- The 32 bytes of a record; a PHASE bit under R54. -/
def recordBytes (m : Module) (e : Entry) (o : Closing) (phase : Bool) : List Byte :=
  let critical := critical (opcodeOf e)
  let saturated := o.count0 > maxU32 || o.count1 > maxU32 || o.count2 > maxU32
  let flag (b : Bool) (i : Nat) : Nat := if b then 2 ^ i else 0
  bytesOf 2 o.status ++ bytesOf 1 o.outcome
    ++ bytesOf 1 (flag phase 0 + flag e.squall 1 + flag critical 2 + flag saturated 3 + flag o.conflict 4)
    ++ bytesOf 4 (tagOf e) ++ bytesOf 2 e.ring ++ bytesOf 2 e.index.toNat
    ++ bytesOf 4 (sat32 o.count0) ++ bytesOf 4 (sat32 o.count1) ++ bytesOf 4 (sat32 o.count2)
    ++ bytesOf 8 m.time.toNat

/-- The interrupt moderation of one record that counts (R58). -/
def moderate (r : Nat) (emptyBefore : Bool) (m : Module) : Module :=
  let x := ringAt m r
  let first := if x.modPending = 0 then m.time else x.firstTime
  let pend : BitVec 16 := if x.modPending = BitVec.allOnes 16 then x.modPending else x.modPending + 1
  let due := emptyBefore || pend.toNat ≥ Nat.max x.modCount.toNat 1
    || (x.modTimer != 0 && (m.time - first).toNat ≥ micros x.modTimer.toNat)
  if due then signal x.vector (setRing r { x with modPending := 0, firstTime := first } m)
  else setRing r { x with modPending := pend, firstTime := first } m

/-- Write a record to completion ring `r` and signal it (R53, R54, R57, R58). -/
def writeRecordTo (r : Nat) (bytes : Bool → List Byte) (counts : Bool) (m : Module) : Module :=
  let x := ringAt m r
  let n := x.cqLog.toNat
  let tail := x.cqTail.toNat
  let emptyBefore := x.cqTail == x.cqHead
  let phase := !(tail.testBit n)
  let m := putHost (x.cqBase.toNat + 32 * (tail % 2 ^ n)) (bytes phase) m
  let m := setRing r { x with cqTail := BitVec.ofNat 17 (advance n tail 1), owed := x.owed - 1 } m
  if counts then moderate r emptyBefore m else m

/-! ## Retirement and aborts (R60-R63, R83) -/

/-- The abort runs of the pool, each changed by `f` of its id. -/
def mapAborts (ids : List Nat) (f : AbortRun → AbortRun) (m : Module) : Module :=
  setPool (m.hg.pool.map fun e =>
    if ids.contains e.id then
      (match e.work with
        | .abort r => { e with work := .abort (f r) }
        | _ => e)
    else e) m

/-- A target's record tells the aborts that count it how it ended (R62, R63). -/
def tellAborts (e : Entry) (outcome : Nat) (m : Module) : Module :=
  mapAborts e.abortedBy (fun r =>
    { r with
      targets := r.targets.filter (fun k => k != e.id)
      before := if outcome = 2 then r.before + 1 else r.before
      partly := if outcome = 3 then r.partly + 1 else r.partly
      done := if outcome = 2 ∨ outcome = 3 then r.done else r.done + 1
      tokens := if outcome = 2 ∨ outcome = 3 then validTokens (outWords e) ++ r.tokens else r.tokens }) m

/-- The first retirement of a step's commit update, with any status but GATE_REFUSED, is noted (R355).
DEDUCED (log 44). -/
def noteCommit (e : Entry) (status : Nat) (m : Module) : Module :=
  let step := BitVec.ofNat 48 (field e.bytes 48 6)
  if opcodeOf e == 3 && natBit (byteAt e.bytes 10) 6 && status != 0x20
      && !(step < m.gate.stepCount) && !(m.gate.commits.any fun c => c.1 == step) then
    { m with gate := { m.gate with commits := (step, BitVec.ofNat 32 (tagOf e), e.ring) :: m.gate.commits } }
  else m

/-- Whether the reservation of R98 is held for an entry. -/
def reservedFor (m : Module) (p : Nat) : Bool :=
  match m.hg.rsv with
  | some r => r.entry == p
  | .none => false

def dropReservation (p : Nat) (m : Module) : Module :=
  if reservedFor m p then { m with hg := { m.hg with rsv := .none } } else m

/-- A warm reset follows the record of a successful 0x86 by 10 µs (R415, R419). -/
def noteWarm (e : Entry) (status : Nat) (m : Module) : Module :=
  let flags := byteAt e.bytes 32
  let seed : Option Word := if natBit flags 0 then some (BitVec.ofNat 64 (field e.bytes 24 8)) else .none
  if opcodeOf e == 0x86 && status == 0 then
    { m with pendingReset := { m.pendingReset with warm := m.pendingReset.warm ++ [(m.time, seed, natBit flags 1)] } }
  else m

/-- Write an entry's record, free its place in the pool, end its reservation (R98), and count it with its aborts. -/
def finishEntry (e : Entry) (o : Closing) (m : Module) : Module :=
  let m := noteWarm e o.status (noteCommit e o.status m)
  let m := writeRecordTo e.ring (recordBytes m e o) (!noirq e) m
  let m := tellAborts e o.outcome m
  let m := dropReservation e.id { m with hg := { m.hg with moved := true, stuck := 0 } }
  setPool (m.hg.pool.filter fun x => x.id != e.id) m

/-- Whether an entry can still be aborted before its start. -/
def unadmitted (e : Entry) : Bool :=
  match e.stage with
  | .admitted => false
  | _ => true

/-- MODE.CASCADE of an abort (R59). -/
def cascades (e : Entry) : Bool := opcodeOf e == 5 && natBit (byteAt e.bytes 10) 0

/-- The abort run of an entry, when it is an abort past its abort point. -/
def abortRun (e : Entry) : Option AbortRun :=
  match e.work with
  | .abort r => some r
  | _ => .none

/-- The next descriptor a cascading abort takes, with the abort's id (R62). Where two aborts could take it, the first in
pool order counts it. DESIGN CHOICE (log 31). -/
def nextCascade (m : Module) : Option (Entry × Nat) :=
  let aborts := m.hg.pool.filterMap fun e =>
    match abortRun e with
    | some r => if cascades e then some (e.id, r.tokens) else .none
    | .none => .none
  m.hg.pool.findSome? fun e =>
    if unadmitted e then
      (aborts.find? fun a => (validTokens (inWords e)).any fun t => a.2.contains t).map fun a => (e, a.1)
    else .none

/-- The record of a target aborted before its start (R60). -/
def abortedBefore : Closing := { status := 0x10, outcome := 2 }

def cascade : Nat → Module → Module
  | 0, m => m
  | n + 1, m =>
    match nextCascade m with
    | .none => m
    | some (e, a) => cascade n (finishEntry { e with abortedBy := a :: e.abortedBy } abortedBefore m)

/-- A pool entry retires: its record, its place, and every cascade its record sets off (R62, R83). -/
def retireEntryWith (e : Entry) (o : Closing) (m : Module) : Module :=
  let m := finishEntry e o m
  cascade m.hg.pool.length m

/-- OUTCOME of an entry that ends by itself: 1 when a live abort counts it as a target (R60). -/
def ownOutcome (e : Entry) : Nat := if e.abortedBy.isEmpty then 0 else 1

/-- An entry ends: it retires, in phase 1 of the next cycle where the scan ends it (R83). -/
def endEntry (e : Entry) (o : Closing) (m : Module) : Module :=
  if m.hg.scan then setEntry { e with stage := .admitted, work := .ended o } m else retireEntryWith e o m

/-- An entry ends by itself with a status and counts. -/
def completeEntry (e : Entry) (status c0 c1 c2 : Nat) (m : Module) : Module :=
  endEntry e { status := status, outcome := ownOutcome e, count0 := c0, count1 := c1, count2 := c2 } m

/-- An entry that has ended retires; an abort that found it meanwhile counts it as done (R60). -/
def retireEnded (p : Nat) (m : Module) : Module :=
  match entryAt m p with
  | some e =>
    match e.work with
    | .ended o => retireEntryWith e { o with outcome := ownOutcome e } m
    | _ => m
  | .none => m

end Sys2Proof.Machine
end

