-- ==== Sys2Proof/Machine/Faults.lean ====
section
/-! DEFINITION. The fault ring (R64-R67), what ends with a killed fault, and how threads are stopped (R64, R133,
R211, R292, R399). -/

namespace Sys2Proof.Machine

/-! ## What waits behind a thread -/

/-- A job that counts with its posting thread: a posted one, or a Haze sample (R281, R329). -/
def Job.posted (j : Job) : Bool :=
  match j.kind with
  | some (.update _ _) | some (.commit _ _) => false
  | _ => true

/-- Jobs of a stack that a thread posted (R281). -/
def jobsOf (m : Module) (t : Nat) : List Job :=
  ((m.basins.map fun s => s.2.jobs).flatten).filter fun j => j.thread == t && j.posted

/-- A request a thread has outstanding at a slice. -/
def Request.of (r : Request) (t : Nat) : Bool :=
  match r.ask with
  | .load u _ _ _ | .atomic u _ _ _ _ _ => u == t
  | .reduce (some u) _ _ => u == t
  | _ => false

/-- Whether a fabric tag belongs to a thread's access. -/
def Requestor.of (w : Requestor) (t : Nat) : Bool :=
  match w with
  | .load u _ _ _ _ | .atomic u _ _ => u == t
  | .reduce (some u) | .write (.thread u) | .line (.thread u) => u == t
  | _ => false

/-- Whether the thread's earlier memory accesses have all been answered (R255). -/
def accessesDone (m : Module) (t : Nat) : Bool :=
  let th := threadAt m t
  th.loads.isEmpty && th.vec.pending.isEmpty && th.tile.queue.isEmpty && th.aperture.isNone
    && !(m.slices.any fun s => s.2.reds.any (·.of t) || s.2.queue.any (·.of t)
      || s.2.misses.any fun k => k.waiters.any (·.of t))
    && !((m.fabric.tags ++ m.fabric.failed).any fun g => g.who.of t && !g.quarantined)

/-- Whether nothing the thread did is unfinished, its jobs and batches included (R93, R281, R387). -/
def workDone (m : Module) (t : Nat) : Bool :=
  accessesDone m t && (threadAt m t).spills == 0 && (jobsOf m t).isEmpty
    && !(m.weir.batches.any fun b => b.thread == t) && !(m.weir.experts.any fun x => x.2.writer == some t)

/-! ## Stopping a thread (R64, R211, R292, R399) -/

/-- A fault's record keeps its place, but no suspension stands behind it any more (R64, R67). -/
def forgetFaults (p : FaultOwner → Bool) (m : Module) : Module :=
  let l := m.faults.suspended.map fun s => if p s.owner then { s with owner := .gone } else s
  { m with faults := { m.faults with suspended := l.filter fun s => !(s.owner == .gone && s.written) } }

def ownedBy (t : Nat) : FaultOwner → Bool
  | .thread u | .forwarded u | .wedged u => u == t
  | _ => false

/-- A job of a stopped thread (R292): one not started, or with a suspended chunk, ends with ABORTED; one whose DONE write
is suspended completes without it. DEDUCED (log 33). -/
def abortJob (j : Job) : Job :=
  if j.ending.isSome then { j with suspended := [], noDone := j.noDone || !j.suspended.isEmpty }
  else if !j.started then { j with ending := some (0x10, 0), suspended := [] }
  else if j.suspended.contains j.total then { j with suspended := [], noDone := true }
  else if !j.suspended.isEmpty then { j with ending := some (0x10, j.complete.length), suspended := [] }
  else j

/-- A batch of a stopped thread (R399). -/
def abortBatch (b : Batch) : Batch :=
  if b.ending.isSome then { b with waiting := false, noDone := b.noDone || b.waiting }
  else if b.stopped then { b with waiting := false }
  else if !b.started then { b with ending := some (0x10, 0), waiting := false }
  else { b with stopped := true, atStop := b.combined.length, waiting := false }

/-- Chunks of jobs of a thread that wait behind a fault record. -/
def chunkOf (m : Module) (t : Nat) : FaultOwner → Bool
  | .chunk s j _ => (stackAt m s).jobs.any fun k => k.id == j && k.thread == t && k.posted
  | .batch b => m.weir.batches.any fun k => k.id == b && k.thread == t
  | _ => false

/-- Requests that a killed fault held are never sent again, and no line is held against the requester. -/
def dropFailed (f : Requestor → Bool) (m : Module) : Module :=
  { m with fabric := { m.fabric with
      failed := m.fabric.failed.filter fun g => !f g.who
      lost := m.fabric.lost.filter fun x => !f x.1 } }

/-- A register write of a thread that waits is withdrawn, and has not been performed: a fold leaves the gate, and the
pending low half of a write by halves stands again, unless a newer one does (R11, R280, R311). DEDUCED (log 60).
DESIGN CHOICE (log 62). -/
def withdrawWrite (t : Nat) (m : Module) : Module :=
  let m := { m with gate := { m.gate with waiting := m.gate.waiting.filter fun w =>
      match w with
      | .fold u _ _ _ => u != t
      | _ => true } }
  match (threadAt m t).aperture with
  | some { low := some l, off := o, .. } =>
    if (Sparse.find m.host.lowHalf o).isSome then m
    else { m with host := { m.host with lowHalf := Sparse.set m.host.lowHalf o l } }
  | _ => m

/-- The thread begins to stop: tile instructions not issued are discarded, a waiting aperture write is
withdrawn, and its jobs and batches are aborted. -/
def beginThreadStop (t : Nat) (m : Module) : Module :=
  let th := threadAt m t
  let m := withdrawWrite t m
  let m := forgetFaults (fun o => ownedBy t o || chunkOf m t o) (dropFailed (fun w => w.of t) m)
  let m := setThread t { th with
      run := .stopping, stop := false, exc := .none, latch := .none, aperture := .none
      tile := { th.tile with queue := th.tile.queue.filter (·.issued), hold := .none } } m
  let stopJob (j : Job) : Job := if j.thread == t && j.posted then abortJob j else j
  { m with
    basins := m.basins.map fun s => (s.1, { s.2 with jobs := s.2.jobs.map stopJob })
    weir := { m.weir with batches := m.weir.batches.map fun b =>
      if b.thread == t then abortBatch b else b } }

/-- A stop request reaches a thread: it stops at once while suspended, forwarded or wedged (R64, R133, R143). -/
def requestStop (m : Module) (t : Nat) : Module :=
  let th := threadAt m t
  match th.run with
  | .suspended | .forwarded | .wedged => beginThreadStop t m
  | .running | .waiting | .filling => setThread t { th with stop := true } m
  | _ => m

/-- A task is to end other than by its threads (R64, R66, R69): its other threads are asked to stop. -/
def endTask (p : Nat) (e : Ending) (m : Module) : Module :=
  match entryAt m p with
  | .none => m
  | some x =>
    match x.work with
    | .task r =>
      if r.ending.isSome then m
      else
        let m := setEntry { x with work := .task { r with ending := some e } } m
        (r.threads.filter fun t => !r.finished.contains t && !r.stopped.contains t).foldl requestStop m
    | _ => m

/-! ## Jobs and their chunks -/

def jobAt (m : Module) (s j : Nat) : Option Job := (stackAt m s).jobs.find? fun k => k.id == j

def setJob (s : Nat) (j : Job) (m : Module) : Module :=
  let k := stackAt m s
  setStack s { k with jobs := k.jobs.map fun x => if x.id == j.id then j else x } m

/-- End a job with a status; COUNT is the number of chunks counted complete, turned into elements when DONE is
written. Its suspended chunks wait no more (R290, R292). -/
def endJob (s j status : Nat) (m : Module) : Module :=
  match jobAt m s j with
  | .none => m
  | some k =>
    if k.ending.isSome then m
    else
      forgetFaults (fun o => match o with
          | .chunk a b _ => a == s && b == j
          | _ => false)
        (setJob s { k with ending := some (BitVec.ofNat 16 status, k.complete.length), suspended := [] } m)

/-! ## Settling a fault (R66, R137, R143, R252, R290, R291) -/

/-- KILL = 1, or the fault ring disabled: `c0`, `c1` are the counts of KILLED_AFTER_FAULT (R68). -/
def settleKill (o : FaultOwner) (c0 c1 : Nat) (m : Module) : Module :=
  let e : Ending := { status := 0x12, count0 := c0, count1 := c1 }
  match o with
  | .thread t | .forwarded t | .wedged t => endTask (threadAt m t).task e m
  | .entry p =>
    match entryAt m p with
    | .none => m
    | some x =>
      match x.work with
      | .copy r => setEntry { x with work := .copy { r with ending := some e, waiting := false } } m
      | .update r => setEntry { x with work := .update { r with ending := some e, waiting := false } } m
      | _ => m
  | .chunk s j c =>
    match jobAt m s j with
    | .none => m
    | some k =>
      let m := endJob s j 0x12 m
      -- the fault of a DONE word's write stands behind no chunk: there is no DONE word
      let m := match jobAt m s j with
        | some x => if c ≥ x.total then setJob s { x with noDone := true, suspended := [] } m else m
        | .none => m
      match k.kind with
      | some (.update p _) =>
        match entryAt m p with
        | some x =>
          match x.work with
          | .update r => setEntry { x with work := .update { r with ending := some e, waiting := false } } m
          | _ => m
        | .none => m
      | _ => endTask k.task e m
  | .batch b =>
    let m' := { m with weir := { m.weir with batches := m.weir.batches.map fun k =>
      if k.id == b then { k with
          ending := some (0x12, k.combined.length), waiting := false, noDone := k.noDone || k.ending.isSome } else k } }
    match m.weir.batches.find? (fun k => k.id == b) with
    | some k => endTask k.task e m'
    | .none => m'
  | .scale _ k =>
    -- the tensor's record stays unwritten, and the commit goes on (R291)
    let next := k % 4096 + 1
    { m with gate := if k / 4096 = 0 then { m.gate with bank0 := { m.gate.bank0 with tensor := next } }
                     else { m.gate with bank1 := { m.gate.bank1 with tensor := next } } }
  | .gone => m

/-- KILL = 0: what waited tries again (R66, R137, R252); a wedged thread's task is killed all the same (R143). -/
def settleResume (o : FaultOwner) (c0 : Nat) (m : Module) : Module :=
  match o with
  | .thread t => setThread t { threadAt m t with run := .running } m
  | .forwarded t =>
    -- the thread goes back to its saved PC with its saved state (R137)
    let th := threadAt m t
    let set := if th.priv.es.state.getLsbD 63 then th.priv.es else th.priv.ma
    let priv := th.priv
    setThread t { th with
      run := .running, pc := set.rpc, lstat := BitVec.ofNat 4 (bitsOf set.state 11 8)
      latch := if set.shreg.getLsbD 5 then some (BitVec.ofNat 5 set.shreg.toNat, set.shval) else .none
      g := if priv.es.state.getLsbD 63 then Sparse.set th.g 31 priv.esG31 else th.g
      priv := { priv with
        level := BitVec.ofNat 2 (bitsOf set.state 5 4)
        es := { priv.es with state := putBit priv.es.state 63 false }
        su := if bitsOf set.state 5 4 = 0 then { priv.su with state := putBit priv.su.state 2 false }
              else priv.su } } m
  | .wedged t => endTask (threadAt m t).task { status := 0x12, count0 := c0, count1 := 1 } m
  | .entry p =>
    match entryAt m p with
    | .none => m
    | some x =>
      match x.work with
      | .copy r => setEntry { x with work := .copy { r with waiting := false } } m
      | .update r => setEntry { x with work := .update { r with waiting := false } } m
      | _ => m
  | .chunk s j c =>
    match jobAt m s j with
    | .none => m
    | some k => setJob s { k with suspended := k.suspended.filter fun x => x != c } m
  | .batch b =>
    { m with weir := { m.weir with batches := m.weir.batches.map fun k =>
      if k.id == b then { k with waiting := false } else k } }
  | .scale _ _ | .gone => m

/-! ## The fault ring (R65, R67) -/

/-- What a fault reports beside its sequence number and time. -/
structure FaultInfo where
  kind : Nat
  access : Nat := 0
  asid : BitVec 6 := 0
  thread : Nat := 0xFFFF
  unit : Nat
  tag : Nat := 0
  ring : Nat := 0
  element : Nat := 0
  vaddr : Nat := 0
  pc : Nat := 0
  deriving DecidableEq, Repr

/-- Bytes 0-62 of a fault record (R65). -/
def faultBytes (seq : BitVec 32) (time : Word) (f : FaultInfo) : List Byte :=
  bytesOf 4 seq.toNat ++ bytesOf 1 f.kind ++ bytesOf 1 f.access ++ bytesOf 1 f.asid.toNat ++ [0]
    ++ bytesOf 2 f.thread ++ bytesOf 2 f.unit ++ bytesOf 4 f.tag ++ bytesOf 2 f.ring ++ [0, 0]
    ++ bytesOf 4 f.element ++ bytesOf 8 f.vaddr ++ bytesOf 8 f.pc ++ bytesOf 8 time.toNat
    ++ List.replicate 15 0

def faultRingFull (f : FaultRing) : Bool :=
  used f.log.toNat f.head.toNat f.tail.toNat ≥ 2 ^ f.log.toNat

/-- Write the record of the oldest waiting fault, when the ring has space (R65, R67). -/
def drainFault (m : Module) : Module :=
  let f := m.faults
  match f.suspended.find? fun s => !s.written with
  | .none => m
  | some s =>
    if !f.enable || faultRingFull f then m
    else
      let n := f.log.toNat
      let tail := f.tail.toNat
      let phase : Byte := if tail.testBit n then 0 else 1
      let m := putHost (f.base.toNat + 64 * (tail % 2 ^ n)) (s.record ++ [phase]) m
      let list := (f.suspended.map fun x => if x.seq == s.seq then { x with written := true } else x).filter
        fun x => !(x.owner == .gone && x.written)
      signal f.vector
        { m with faults := { f with tail := BitVec.ofNat 13 (advance n tail 1), suspended := list } }

/-- A fault is raised for an owner (R65-R67, R252): its record is written or waits in order; while the ring is
disabled the owner is killed at once. -/
def raiseFault (o : FaultOwner) (f : FaultInfo) (m : Module) : Module :=
  if !m.faults.enable then
    settleKill o f.kind 0 { m with faults := { m.faults with disabledFault := true } }
  else
    let seq := m.faults.seq
    let s : Suspension := { seq := seq, kind := BitVec.ofNat 8 f.kind, owner := o, written := false,
                            record := faultBytes seq m.time f }
    let wait := faultRingFull m.faults || m.faults.suspended.any fun x => !x.written
    let m := { m with faults := { m.faults with
      seq := seq + 1, suspended := m.faults.suspended ++ [s], waitFull := m.faults.waitFull || wait } }
    drainFault m

/-- TAG and RING of a task's descriptor. -/
def taskTag (m : Module) (p : Nat) : Nat × Nat :=
  match entryAt m p with
  | some e => (tagOf e, e.ring)
  | .none => (0, 0)

/-- The state a thread is in while its fault waits for the host. -/
def suspendedRun : FaultOwner → Run
  | .forwarded _ => .forwarded
  | .wedged _ => .wedged
  | _ => .suspended

/-- A fault of a thread (R66, R137, R143, R252): it suspends behind its record. DEDUCED (log 34). -/
def suspendThread (t : Nat) (owner : Nat → FaultOwner) (kind access element vaddr : Nat) (pc : BitVec 48)
    (m : Module) : Module :=
  let th := threadAt m t
  let tag := taskTag m th.task
  let m := raiseFault (owner t)
    { kind := kind, access := access, asid := th.priv.asid, thread := t, unit := handleCore (t / 2),
      tag := tag.1, ring := tag.2, element := element, vaddr := vaddr, pc := pc.toNat }
    (setThread t { th with run := suspendedRun (owner t) } m)
  if th.stop then beginThreadStop t m else m

end Sys2Proof.Machine
end

