-- ==== Sys2Proof/Machine/Fabric.lean ====
section
/-! DEFINITION. Fabric messages, routes, egress queues and request tags (R368-R376). -/

namespace Sys2Proof.Machine

/-! ## Messages (R368) -/

/-- Virtual channel of a message type. -/
def vcOf (type : Nat) : Nat :=
  if type < 0x10 then 0 else if type < 0x20 then 1 else if type < 0x30 then 2 else 3

/-- Slots of a message, its header included. -/
def Msg.size (x : Msg) : Nat := 1 + ceilDiv x.payload.length 16

/-- The payload with whole slots. -/
def padSlots (bs : List Byte) : List Byte :=
  bs ++ List.replicate (16 * ceilDiv bs.length 16 - bs.length) 0

/-- The bytes of a message. -/
def encodeMsg (x : Msg) : List Byte :=
  bytesOf 1 x.type.toNat ++ bytesOf 1 (vcOf x.type.toNat + (if x.rev then 4 else 0))
    ++ bytesOf 1 (ceilDiv x.payload.length 16) ++ bytesOf 1 x.op.toNat ++ bytesOf 2 x.dst.toNat
    ++ bytesOf 2 x.src.toNat ++ bytesOf 2 x.tid.toNat ++ bytesOf 5 x.addr ++ [x.byte15]
    ++ padSlots x.payload

/-- The message that stands at the front of `bs`, and the bytes after it. -/
def decodeMsg (bs : List Byte) : Option (Msg × List Byte) :=
  let len := byteAt bs 2 % 32
  if bs.length < 16 + 16 * len then .none
  else
    some ({ type := BitVec.ofNat 8 (byteAt bs 0), rev := natBit (byteAt bs 1) 2
            op := BitVec.ofNat 8 (byteAt bs 3), dst := BitVec.ofNat 12 (field bs 4 2)
            src := BitVec.ofNat 12 (field bs 6 2), tid := BitVec.ofNat 16 (field bs 8 2)
            addr := field bs 10 5, byte15 := BitVec.ofNat 8 (byteAt bs 15)
            reserved := byteAt bs 1 / 8 != 0 || byteAt bs 2 / 32 != 0 || byteAt bs 5 / 16 != 0 || byteAt bs 7 / 16 != 0
            payload := (bs.drop 16).take (16 * len) },
          bs.drop (16 + 16 * len))

/-- Bits that the payload of a VOTE or RESULT leaves reserved are set (R319). -/
def controlReserved (type : Nat) (b : List Byte) : Bool :=
  byteAt b 1 / (if type = 0x30 then 2 else 4) != 0 || field b 2 2 / 2048 != 0 || field b 22 2 / 4096 != 0
    || field b 24 2 / 4096 != 0 || field b 26 6 != 0

/-- A reserved field of a message is not 0 (R368, R319, R455). Byte 15 is one, but in a CTL_ACK. -/
def Msg.unsound (x : Msg) : Bool :=
  x.reserved || x.payload.length > 256 || (x.byte15 != 0 && x.type != 0x32)
    || ((x.type == 0x30 || x.type == 0x31) && controlReserved x.type.toNat x.payload)

/-- The messages packed in `n` slots. -/
def decodeMsgs : Nat → List Byte → List Msg
  | 0, _ => []
  | n + 1, bs =>
    match decodeMsg bs with
    | some (x, rest) => x :: decodeMsgs n rest
    | .none => []

/-- Origins of a RED: up to four (SRC, TID) pairs; a pair whose SRC half has bits 15:12 set is unused. -/
def redOrigins (x : Msg) : List (BitVec 12 × BitVec 16) :=
  (List.range 4).filterMap fun i =>
    let s := field x.payload (4 * i) 2
    if s ≥ 4096 then .none else some (BitVec.ofNat 12 s, BitVec.ofNat 16 (field x.payload (4 * i + 2) 2))

def originSlot (l : List (BitVec 12 × BitVec 16)) : List Byte :=
  ((List.range 4).map fun i =>
    match l[i]? with
    | some (s, t) => bytesOf 2 s.toNat ++ bytesOf 2 t.toNat
    | .none => bytesOf 4 0xFFFFFFFF).flatten

/-- Who waits for the answer to a request. -/
def msgOrigins (x : Msg) : List (BitVec 12 × BitVec 16) :=
  if x.type = 0x04 then redOrigins x else [(x.src, x.tid)]

/-! ## Routes (R372, R373) -/

def wayAt (m : Module) (w : Nat) : Way := Sparse.get {} m.fabric.ways w
def setWay (w : Nat) (x : Way) (m : Module) : Module :=
  { m with fabric := { m.fabric with ways := Sparse.set m.fabric.ways w x } }

/-- Dimension of a way: 0 for X (E and W), 1 for Y (N and S). -/
def dimOf (w : Nat) : Nat := if w % 2 = 1 then 0 else 1

/-- The opposite way. -/
def opposite (w : Nat) : Nat := (w + 2) % 4

def coord (node dim : Nat) : Nat := if dim = 0 then node % 32 else node / 32 % 32

def ringSize (f : Fabric) (dim : Nat) : Nat := if dim = 0 then f.nx.toNat else f.ny.toNat

/-- Entry of the route table for a node (R372). -/
def tableEntry (f : Fabric) (node : Nat) : Nat := bitsOf f.table (4 * node + 3) (4 * node)

/-- REACH of a node. -/
def reachable (f : Fabric) (node : Nat) : Bool := natBit (tableEntry f node) 3

/-- The way a table entry gives in a dimension. -/
def tableWay (f : Fabric) (node dim : Nat) : Nat :=
  let e := tableEntry f node
  if dim = 0 then (if natBit e 0 then 3 else 1) else (if natBit e 1 then 0 else 2)

/-- Steps from `a` to `b` on a ring of `n`, leaving by way `w` (east and south count up). -/
def ringDistance (n a b w : Nat) : Nat :=
  if w = 1 ∨ w = 2 then (b + n - a % n) % n else (a + n - b % n) % n

/-- What becomes of a message. -/
inductive Route where
  | eject
  | send (way : Nat) (rev continues : Bool)
  | unreachable
  deriving DecidableEq, Repr

/-- Whether the slot of `d` lies strictly between this node and the neighbour on way `w`. -/
def bypassed (f : Fabric) (dim d w : Nat) : Bool :=
  let n := ringSize f dim
  let own := coord f.node.toNat dim
  let neigh := coord (Sparse.get {} f.ways w).neigh.toNat dim
  let far := ringDistance n own neigh w
  ringDistance n own d w < (if far = 0 then n else far)

/-- forward of R373, with the reversal it makes at most once. -/
def forwardBy (f : Fabric) (dim d w : Nat) (rev continues : Bool) : Route :=
  if (Sparse.get {} f.ways w).up then
    if bypassed f dim d w then .unreachable else .send w rev continues
  else if !rev then
    let v := opposite w
    if (Sparse.get {} f.ways v).up then
      if bypassed f dim d v then .unreachable else .send v true continues
    else .unreachable
  else .unreachable

/-- The route of a message that arrived on way `arr`, or was injected here (R373). -/
def route (f : Fabric) (arr : Option Nat) (x : Msg) : Route :=
  let dims := if f.order then [1, 0] else [0, 1]
  let first := dims.getD 0 0
  let second := dims.getD 1 0
  let leg (dim : Nat) : Route :=
    let d := coord x.dst.toNat dim
    match arr with
    | some a =>
      if dimOf a = dim then forwardBy f dim d (opposite a) x.rev true
      else forwardBy f dim d (tableWay f x.dst.toNat dim) false false
    | .none => forwardBy f dim d (tableWay f x.dst.toNat dim) false false
  if coord x.dst.toNat first != coord f.node.toNat first then
    if arr.map dimOf == some second then .unreachable else leg first
  else if coord x.dst.toNat second != coord f.node.toNat second then leg second
  else .eject

/-! ## Egress queues (R369, R376, R382) -/

/-- Requester queue of a message at a way egress. -/
def queueOf (x : Msg) (arr : Option Nat) : Nat := vcOf x.type.toNat + (if arr.isSome then 4 else 0)

/-- Width in bytes of a reduction's elements. -/
def redWidth (op : Nat) : Nat := redBytes op

/-- The line bytes of two reductions put together (R376). -/
def mergeData (op : Nat) (m1 m2 : Nat) (d1 d2 : List Byte) : List Byte :=
  let w := redWidth op
  ((List.range (128 / w)).map fun i =>
    let a := field d1 (w * i) w
    let b := field d2 (w * i) w
    let v := if natBit m1 (w * i) && natBit m2 (w * i) then redResult op a b
             else if natBit m1 (w * i) then a else b
    bytesOf w v).flatten

/-- Mask and line bytes a WR (after `skip` slots) or RED carries: data slots stand from the one ADDR names. -/
def lineData (x : Msg) (skip : Nat) : Nat × List Byte :=
  let at_ := 16 * (x.addr % 128 / 16)
  let body := x.payload.drop (16 * (skip + 1))
  (field x.payload (16 * skip) 16, List.replicate at_ 0 ++ body.take (128 - at_))

/-- Two RED messages that may merge (R376). -/
def mergeable (a b : Msg) : Bool :=
  a.type == 0x04 && b.type == 0x04 && a.dst == b.dst && a.op == b.op && a.addr / 128 == b.addr / 128
    && (redOrigins a).length + (redOrigins b).length ≤ 4

def mergeRed (a b : Msg) : Msg :=
  let da := lineData a 1
  let db := lineData b 1
  { a with
    addr := lineOf a.addr
    payload := originSlot (redOrigins a ++ redOrigins b) ++ bytesOf 16 (da.1 ||| db.1)
      ++ mergeData a.op.toNat da.1 db.1 da.2 db.2 }

/-- A RED joins a queued one it may merge with; the flag tells that it did. -/
def mergeInto (x : Msg) : List Queued → List Queued × Bool
  | [] => ([], false)
  | q :: qs =>
    if mergeable q.msg x then ({ q with msg := mergeRed q.msg x } :: qs, true)
    else
      let r := mergeInto x qs
      (q :: r.1, r.2)

/-- Slots of an arrival buffer are freed (R370). -/
def freeSlots (arr : Option Nat) (vc n : Nat) (m : Module) : Module :=
  match arr with
  | .none => m
  | some a =>
    let w := wayAt m a
    setWay a { w with freed := Sparse.set w.freed vc (Sparse.get 0 w.freed vc + n) } m

/-- The arrival buffer slots a message held are freed (R370). -/
def freeArrival (arr : Option Nat) (x : Msg) (m : Module) : Module := freeSlots arr (vcOf x.type.toNat) x.size m

/-- The arrival buffer slots that a queued message holds are freed. -/
def Queued.release (q : Queued) (m : Module) : Module := freeSlots q.arrived (vcOf q.msg.type.toNat) q.slots m

/-- Queue a message at a way egress, merging a reduction that may merge (R376, R382); it holds `slots` slots of its arrival
buffer. -/
def enqueue (w : Nat) (arr : Option Nat) (continues : Bool) (x : Msg) (slots : Nat) (m : Module) : Module :=
  let y := wayAt m w
  let q := queueOf x arr
  let l := Sparse.get [] y.queues q
  let r := if m.fabric.combine then mergeInto x l else (l, false)
  if r.2 then
    count .fabric 0 6 1
      (freeSlots arr (vcOf x.type.toNat) slots (setWay w { y with queues := Sparse.set y.queues q r.1 } m))
  else
    let k : Queued := { msg := x, continues := continues, arrived := arr, slots := slots }
    setWay w { y with queues := Sparse.set y.queues q (l ++ [k]) } m

/-! ## Sending (R373, R374) -/

/-- Whether a message is a request a home performs. -/
def isRequest (x : Msg) : Bool := 1 ≤ x.type.toNat && x.type.toNat ≤ 4

/-- The ERR a home or a forwarding module answers with. -/
def errMsg (m : Module) (op : Nat) (x : Msg) (to_ : BitVec 12 × BitVec 16) : Msg :=
  { type := 0x13, op := BitVec.ofNat 8 op, dst := to_.1, src := m.fabric.node, tid := to_.2, addr := x.addr }

/-- A Weir message is discarded (R365, R374, R398): a DISPATCH of this module counts as refused, so that its choice
tries the next replica. -/
def lostWeir (x : Msg) (m : Module) : Module :=
  let e := 65536 * (x.op.toNat % 2) + x.tid.toNat
  let m := count .weir 0 12 1 m
  match Sparse.find m.weir.entries e with
  | some c =>
    match c.phase with
    | .awaiting _ _ =>
      if x.type = 0x20 ∧ x.src = m.fabric.node then
        { m with weir := { m.weir with entries := Sparse.set m.weir.entries e { c with phase := .fresh } } }
      else m
    | _ => m
  | .none => m

/-- Route one message, which holds `slots` slots of its arrival buffer, and queue it; messages for this module itself are
handed back. One of this module that is unreachable, and is no request, raises source 269 (R374). `fuel` bounds the ERR an
unreachable request causes. -/
def emit : Nat → Option Nat → Msg → Nat → Module → List Msg × Module
  | 0, _, _, _, m => ([], m)
  | fuel + 1, arr, x, slots, m =>
    let freed := freeSlots arr (vcOf x.type.toNat) slots
    match route m.fabric arr x with
    | .eject => ([x], freed m)
    | .send w rev continues =>
      let m := if rev && !x.rev then count .way (opposite w) 5 1 m else m
      ([], enqueue w arr continues { x with rev := rev } slots m)
    | .unreachable =>
      let m := freed m
      let m := if x.src = m.fabric.node ∧ !isRequest x then edgeAll 269 m else m
      let at_ := arr.getD (tableWay m.fabric x.dst.toNat 0)
      if isRequest x then
        let m := count .way at_ 6 1 m
        (msgOrigins x).foldl (fun r o =>
          let e := errMsg r.2 3 x o
          if o.1 == r.2.fabric.node then (r.1 ++ [e], r.2)
          else
            let q := emit fuel .none e e.size r.2
            (r.1 ++ q.1, q.2)) ([], m)
      else if x.type = 0x30 ∨ x.type = 0x31 then ([], m)
      else if x.type.toNat ≥ 0x30 then ([], count .way at_ 8 1 m)
      else if x.type.toNat ≥ 0x20 then ([], lostWeir x m)
      else ([], count .way at_ 8 1 m)

/-- A Weir message that fits nothing is discarded (R389). -/
def badMsg (m : Module) : Module := count .weir 0 12 1 { m with weir := { m.weir with badMsg := true } }

/-- The message types of R368 but LINK, which no queue holds. -/
def knownType (t : Nat) : Bool := (1 ≤ t && t ≤ 4) || (0x10 ≤ t && t ≤ 0x13) || (0x20 ≤ t && t ≤ 0x24) || (0x30 ≤ t && t ≤ 0x32)

/-- A message whose type or a field is reserved is discarded: a Weir message under R389, any other counted under R374 at
the way it came by, or the one towards its sender (R455). DEDUCED (log 48). -/
def refuseMsg (way : Option Nat) (x : Msg) (m : Module) : Module :=
  if x.type.toNat / 16 = 2 then badMsg m else count .way (way.getD (tableWay m.fabric x.src.toNat 0)) 8 1 m

/-- Messages for this module wait until they are handled (R369); those of reserved types are discarded (R389). -/
def keepHere (way : Option Nat) (l : List Msg) (m : Module) : Module :=
  let bad := l.filter fun x => !knownType x.type.toNat
  let m := bad.foldl (fun m x => freeArrival way x (refuseMsg way x m)) m
  let l := l.filter fun x => knownType x.type.toNat
  { m with fabric := { m.fabric with inbox := m.fabric.inbox ++ l.map fun x =>
      { msg := { x with payload := padSlots x.payload }, way := way } } }

/-- Route a message that arrived on a way, or that this module injects; what is for this module itself waits here. -/
def post (arr : Option Nat) (x : Msg) (slots : Nat) (m : Module) : Module :=
  match route m.fabric arr x with
  | .eject => keepHere arr [x] m
  | _ =>
    let r := emit 3 arr x slots m
    keepHere .none r.1 r.2

/-- A message of this module. -/
def inject (x : Msg) (m : Module) : Module := post .none x x.size m

/-- How a command finds its message: it waits here behind another of its buffer, or may be handled; `some .none` where
no such message waits, so that the command itself brings it (log 15). -/
def takeMsg (f : Msg → Bool) (m : Module) : Option (Option Msg × Module) :=
  let box := m.fabric.inbox
  match box.findIdx? fun a => f a.msg with
  | .none => some (.none, m)
  | some i =>
    match box[i]? with
    | .none => .none
    | some a =>
      let before := (box.take i).any fun b => b.way == a.way && vcOf b.msg.type.toNat == vcOf a.msg.type.toNat
      if before then .none
      else
        some (some a.msg,
          freeArrival a.way a.msg { m with fabric := { m.fabric with inbox := box.eraseIdx i } })

/-- Handle the message a command names or brings. -/
def onMessage (type : Nat) (bytes : List Byte) (act : Msg → Module → Module) (m : Module) : Module :=
  match decodeMsg bytes with
  | .none => m
  | some (x, _) =>
    if x.type.toNat ≠ type ∨ x.dst ≠ m.fabric.node then m
    else if x.unsound then refuseMsg .none x m
    else
      match takeMsg (fun y => y == x) m with
      | some (_, m) => act x m
      | .none => m

/-! ## Request tags (R375) -/

/-- I/O die of a way: IOD-W holds N and W. -/
def wayDie (w : Nat) : Nat := if w = 0 ∨ w = 3 then 0 else 1

/-- The lowest free tag of an I/O die. DEDUCED (log 48). -/
def freeTag (m : Module) (die : Nat) : Option Nat :=
  (List.range 4096).find? fun i => !(m.fabric.tags.any fun g => g.tid.toNat == 4096 * die + i)

/-- How a request of this module was taken. -/
inductive Sending where
  | sent
  | wait
  | unreachable
  deriving DecidableEq, Repr

/-- Send a request of this module under a free tag (R371, R374, R375). -/
def sendRequest (who : Requestor) (va : Nat) (x : Msg) (m : Module) : Sending × Module :=
  match route m.fabric .none x with
  | .eject | .unreachable => (.unreachable, edgeAll 269 m)
  | .send w rev continues =>
    match freeTag m (wayDie w) with
    | .none => (.wait, m)
    | some i =>
      let tid := BitVec.ofNat 16 (4096 * wayDie w + i)
      let x := { x with src := m.fabric.node, tid := tid, rev := rev }
      let x := if x.type = 0x04 then
          { x with payload := originSlot [(m.fabric.node, tid)] ++ x.payload.drop 16 } else x
      let g : Tag := { tid := tid, who := who, node := x.dst, addr := x.addr, va := BitVec.ofNat 64 va, msg := x, sent := m.time,
                       way := w }
      let m := { m with fabric := { m.fabric with tags := g :: m.fabric.tags } }
      let m := count .fabric 0 0 1 m
      let m := if rev then count .way (opposite w) 5 1 m else m
      (.sent, enqueue w .none continues x x.size m)

/-- The byte-mask slot and eight data slots of a write of some bytes of a line. -/
def writePayload (mask : BitVec 128) (data : List Byte) : List Byte :=
  bytesOf 16 mask.toNat ++ (List.range 128).map fun i => data.getD i 0

/-- A RED of one element (R260). -/
def redPayload (op : Nat) (addr operand : Nat) : List Byte :=
  let n := redBytes op
  let off := addr % 128
  bytesOf 16 0 ++ bytesOf 16 ((2 ^ n - 1) * 2 ^ off) ++ putLineValue (List.replicate 128 0) off n operand

end Sys2Proof.Machine
end

