-- ==== Sys2Proof/Machine/Access.lean ====
section
/-! DEFINITION. Address translation (R240-R252), the data L1 (R253, R256), and reads and writes of the agents. -/

namespace Sys2Proof.Machine

/-! ## How an access can stop -/

/-- Why an access does not complete now. -/
inductive Stop where
  /-- Its channel is blocked, or a tag is lacking: nothing has happened. -/
  | wait
  /-- It waits at the home slice of a line, for a miss register if it finds none (R266). -/
  | miss (who line : Nat) (read : Bool)
  /-- It waits for a request register of its stack, unless its channel is blocked (R278). -/
  | register (line : Nat)
  /-- The write-back of a line waits for its request register, or for requests before it (R278, R296). -/
  | clean (line : Nat)
  /-- A line of another module must come first: the request for it is sent. -/
  | fetch (who : Requestor) (va node addr : Nat)
  /-- A translation fault (R252) with the ACCESS of R65. -/
  | fault (kind access va : Nat)
  /-- A translation fault of an access that a stack makes under another ASID than its job's. -/
  | faultUnder (asid : BitVec 6) (kind access va : Nat)
  /-- An exception of the thread (R131). -/
  | exc (cause fval : Nat)
  /-- Poisoned data at a virtual address (R425). -/
  | poison (va pa : Nat)
  /-- The host refused a descriptor's access, which ends it with a status (R68, R250). -/
  | host (status va : Nat)
  deriving DecidableEq, Repr

/-- An access: it may stop, and what it changed stays. -/
abbrev Acc (α : Type) := ExceptT Stop (StateM Module) α

/-- Run an access on a module. -/
def Acc.go {α : Type} (x : Acc α) (m : Module) : Except Stop α × Module := StateT.run (ExceptT.run x) m

def stop {α : Type} (s : Stop) : Acc α := throw s

/-- An operation that is not possible while a channel is blocked. -/
def orWait {α : Type} (f : Module → Option (α × Module)) : Acc α := do
  let m ← get
  match f m with
  | some r => set r.2; pure r.1
  | .none => stop .wait

def orWaitM (f : Module → Option Module) : Acc Unit := orWait fun m => (f m).map fun x => ((), x)

/-- An operation on a line that `s` says what it waits for. -/
def orStop {α : Type} (s : Stop) (f : Module → Option (α × Module)) : Acc α := do
  let m ← get
  match f m with
  | some r => set r.2; pure r.1
  | .none => stop s

/-- A line read at its home slice for requester `who`. -/
def readLine (who line : Nat) (hint : BitVec 2) : Acc (List Byte × BitVec 4) :=
  orStop (.miss who line true) (llcReadBy who true line hint)

/-- Bytes written at the home slice of a line. -/
def writeLine (line off : Nat) (bytes : List Byte) (mask : Nat → Bool) (hint : BitVec 2) : Acc Unit :=
  orStop (.miss 0 line false) fun m => (llcWrite line off bytes mask hint m).map fun x => ((), x)

/-! ## Per-core counters (R433, R434) -/

/-- Whether event `ev` counts at the core whatever the thread and level. -/
def coreScope (ev : Nat) : Bool := (8 ≤ ev && ev ≤ 0x0B) || ev == 0x15

/-- Count `n` events `ev` of thread `t` on its core. -/
def perf (t ev n : Nat) (m : Module) : Module :=
  let c := t / 2
  let k := coreAt m c
  let level := (threadAt m t).priv.level.toNat
  (List.range 8).foldl (fun m i =>
    let sel : BitVec 32 := Sparse.get 0x1F000000 k.pcSel i
    let mine := coreScope ev || (natBit (bitsOf sel 28 27) (t % 2) && natBit (bitsOf sel 26 24) level)
    if bitsOf sel 7 0 = ev && ev ≠ 0 && mine && !unitGated m (handleCore c) then
      let r := addStat .core c i n m
      if r.2 && sel.getLsbD 31 then edge (c / 48) (192 + c % 48) r.1 else r.1
    else m) m

/-! ## Who accesses -/

/-- What an access needs of its leaf (R248). -/
inductive Need where
  | read
  | write
  | fetch
  | update
  deriving DecidableEq, Repr

/-- ACCESS of R65. -/
def Need.code : Need → Nat
  | .read => 0
  | .write => 1
  | .fetch => 2
  | .update => 3

/-- An agent: its ASID, the level its accesses are checked at, the unit whose translation cache it uses, and
the thread it is, if it is one. -/
structure Agent where
  asid : BitVec 6
  level : Nat
  unit : Nat
  thread : Option Nat := .none
  deriving DecidableEq, Repr

def threadAgent (m : Module) (t : Nat) : Agent :=
  let th := threadAt m t
  { asid := th.priv.asid, level := th.priv.level.toNat, unit := handleCore (t / 2), thread := some t }

/-! ## Translation caches (R251) -/

def tlbOf (m : Module) (unit : Nat) : List TlbEntry :=
  if 163 ≤ unit ∧ unit < 355 then (coreAt m (unit - 163)).tlb else Sparse.get [] m.tlbs unit

def setTlb (unit : Nat) (l : List TlbEntry) (m : Module) : Module :=
  if 163 ≤ unit ∧ unit < 355 then
    setCore (unit - 163) { coreAt m (unit - 163) with tlb := l } m
  else { m with tlbs := Sparse.set m.tlbs unit l }

def TlbEntry.covers (e : TlbEntry) (asid : BitVec 6) (va : Nat) : Bool :=
  e.asid == asid && e.va >>> e.log == va >>> e.log

/-- Entries an invalidation removes (R251). A 64 KiB page is held as its 4 KiB parts. -/
def InvScope.names (s : InvScope) (e : TlbEntry) : Bool :=
  match s with
  | .all => true
  | .asid a => e.asid == a
  | .page a vpn =>
    let l := Nat.max e.log 16
    e.asid == a && e.va >>> l == (vpn.toNat * 4096) >>> l

/-- Table entries an invalidation removes. -/
def InvScope.namesWalk (s : InvScope) (e : WalkEntry) : Bool :=
  match s with
  | .all => true
  | .asid a => e.asid == a
  | .page a vpn => e.asid == a && e.va >>> e.log == (vpn.toNat * 4096) >>> e.log

/-! ## The walk (R246, R247) -/

/-- Node ID and local part of a physical address (R240). -/
def nodeOf (pa : Nat) : Nat := pa / 2 ^ 40
def localOf (pa : Nat) : Nat := pa % 2 ^ 40

/-- A local address with memory behind it: a present stack, or external memory outside the reserved part. -/
def plainMemory (m : Module) (a : Nat) : Bool :=
  if a < extBase then stackPresent m.board.part (stackOf a) else a < reservedBase

/-- table_ok of R246. -/
def tableOk (m : Module) (pa : Nat) : Bool :=
  nodeOf pa == m.fabric.node.toNat && plainMemory m (localOf pa)

/-- Eight bytes of a table, through the LLC with the normal hint. -/
def readEntry (a va : Nat) : Acc Nat := do
  let d ← readLine 0 (lineOf a) 0
  if touchesPoison d.2 (a % 128) 8 then stop (.poison va a)
  else pure (lineValue d.1 (a % 128) 8)

/-- A leaf a walk has found, with the table entries that led to it as (log of the range, table below). -/
structure Leaf where
  pa : Nat
  log : Nat
  perms : Nat
  path : List (Nat × Nat)
  deriving DecidableEq, Repr

/-- The walk from table `t` of level `fuel - 1` down to its leaf. DEDUCED (log 24). -/
def walkFrom (access va : Nat) : Nat → Nat → List (Nat × Nat) → Acc Leaf
  | 0, _, _ => stop (.fault 0x03 access va)
  | fuel + 1, t, path => do
    let lvl := fuel
    let m ← get
    if !tableOk m t then stop (.fault 0x04 access va)
    else
      let e ← readEntry (localOf t + 8 * natBits va (20 + 9 * lvl) (12 + 9 * lvl)) va
      if !natBit e 0 then stop (.fault 0x01 access va)
      else if natBits e 63 52 ≠ 0 ∨ natBits e 11 8 ≠ 0 ∨ natBit e 6 then stop (.fault 0x03 access va)
      else if natBit e 1 then
        if lvl = 0 ∨ natBits e 7 2 ≠ 0 then stop (.fault 0x03 access va)
        else walkFrom access va fuel (natBits e 51 12 * 4096) ((12 + 9 * lvl, natBits e 51 12 * 4096) :: path)
      else
        let sz := 12 + 9 * lvl
        if lvl = 3 ∨ (lvl > 0 ∧ natBit e 7) then stop (.fault 0x03 access va)
        else if lvl > 0 ∧ natBits e (sz - 1) 12 ≠ 0 then stop (.fault 0x03 access va)
        else if natBit e 7 ∧ natBits e 15 12 ≠ natBits va 15 12 then stop (.fault 0x03 access va)
        else pure { pa := natBits e 51 sz * 2 ^ sz, log := sz, perms := natBits e 5 2, path := path }

/-! ### Walk caches (R251) -/

def walksOf (m : Module) (unit : Nat) : List WalkEntry := Sparse.get [] m.walks unit

/-- The table a walk begins at, and its level plus one: below the deepest entry held, else at the root. -/
def walkStart (m : Module) (ag : Agent) (va root : Nat) : Nat × Nat :=
  let covers (log : Nat) (e : WalkEntry) : Bool := e.asid == ag.asid && e.log == log && e.va >>> log == va >>> log
  ([21, 30, 39].findSome? fun log => ((walksOf m ag.unit).find? (covers log)).map fun e => ((log - 12) / 9, e.table)).getD
    (4, root)

/-- The table entries of a walk that has succeeded are held; a cache holds 2,048. DESIGN CHOICE (log 24). -/
def noteWalk (ag : Agent) (va : Nat) (path : List (Nat × Nat)) (m : Module) : Module :=
  let new := path.map fun p => ({ asid := ag.asid, va := va >>> p.1 <<< p.1, log := p.1, table := p.2 } : WalkEntry)
  let old := (walksOf m ag.unit).filter fun e => !new.any fun x => x.asid == e.asid && x.log == e.log && x.va == e.va
  { m with walks := Sparse.set m.walks ag.unit ((new ++ old).take 2048) }

/-- A walk under an ASID, cached on success (R246, R251). -/
def walk (ag : Agent) (access va : Nat) : Acc TlbEntry := do
  let m ← get
  let reg : Word := Sparse.get 0 m.host.mmuAsid ag.asid.toNat
  if !reg.getLsbD 0 then stop (.fault 0x06 access va)
  else
    let start := walkStart m ag va (bitsOf reg 51 12 * 4096)
    let r ← walkFrom access va start.1 start.2 []
    let e : TlbEntry :=
      { asid := ag.asid, va := va >>> r.log <<< r.log, log := r.log, pa := r.pa, perms := BitVec.ofNat 4 r.perms }
    modify (noteWalk ag va r.path)
    modify fun m => setTlb ag.unit ((tlbOf m ag.unit ++ [e]).drop ((tlbOf m ag.unit).length + 1 - 2048)) m
    pure e

/-- Whether a leaf with rights R, W, X, U (bits 0-3) allows an access (R248). -/
def allowed (level : Nat) (need : Need) (perms : BitVec 4) : Bool :=
  (match need with
    | .read => perms.getLsbD 0
    | .write => perms.getLsbD 1
    | .fetch => perms.getLsbD 2
    | .update => perms.getLsbD 0 && perms.getLsbD 1)
  && (if level = 0 then perms.getLsbD 3 else !(need == .fetch && perms.getLsbD 3))

/-- A translation that fails, or leads nowhere, is held in no cache (R251): its leaf goes. -/
def dropLeaf (ag : Agent) (va : Nat) (m : Module) : Module :=
  setTlb ag.unit ((tlbOf m ag.unit).filter fun e => !e.covers ag.asid va) m

/-- Translate a virtual address below machine level (R246-R249). -/
def translate (ag : Agent) (need : Need) (va : Nat) : Acc Nat := do
  let m ← get
  let e ← match (tlbOf m ag.unit).find? (fun e => e.covers ag.asid va) with
    | some e => pure e
    | .none => do
      match ag.thread with
      | some t => modify fun m => perf t 0x0D 1 (perf t 0x0C 1 m)
      | .none => pure ()
      walk ag need.code va
  if allowed ag.level need e.perms then pure (e.pa + va % 2 ^ e.log)
  else
    modify (dropLeaf ag va)
    stop (.fault 0x02 need.code va)

/-! ## Places (R241-R244) -/

/-- Where a physical address leads. -/
inductive Place where
  | mem (a : Nat)
  | remote (node a : Nat)
  | host (a : Nat)
  | aperture (off : Nat)
  deriving DecidableEq, Repr

/-- The parts of the aperture reached below machine level (R243). -/
def apertureOpen (off : Nat) : Bool := off < 0x100000 || (0x1000000 ≤ off && off < 0x5000000)

/-- What a translated physical address names, or the fault kind (R241-R244, R248). -/
def locate (m : Module) (ag : Agent) (need : Need) (pa : Nat) : Except Nat Place :=
  let a := localOf pa
  if nodeOf pa ≠ m.fabric.node.toNat then
    if !wayPresent m.board.part 0 || !reachable m.fabric (nodeOf pa % 4096) then .error 0x08
    else if a ≥ apertureBase then .error 0x05
    else .ok (.remote (nodeOf pa) a)
  else if a < reservedBase then (if plainMemory m a then .ok (.mem a) else .error 0x05)
  else if a < hostBase then .error 0x05
  else if a < hostEnd then (if need = .fetch then .error 0x05 else .ok (.host a))
  else if a < apertureEnd then
    if need = .fetch ∨ ag.thread.isNone ∨ !apertureOpen (a - apertureBase) then .error 0x05
    else .ok (.aperture (a - apertureBase))
  else .error 0x05

/-- What an untranslated address names at machine level; none raises the address fault (R129, R241). -/
def locateMachine (m : Module) (need : Need) (a : Nat) : Option Place :=
  if a ≥ 2 ^ 40 then .none
  else if a < extBase then (if stackPresent m.board.part (stackOf a) then some (.mem a) else .none)
  else if a < extEnd then some (.mem a)
  else if a < hostBase then .none
  else if a < hostEnd then (if need = .fetch then .none else some (.host a))
  else if a < apertureEnd then (if need = .fetch then .none else some (.aperture (a - apertureBase)))
  else .none

/-- The place of an effective address whose bits 63:48 are zero. -/
def resolve (ag : Agent) (need : Need) (va : Nat) : Acc Place := do
  if ag.level = 2 then
    let m ← get
    match locateMachine m need va with
    | some p => pure p
    | .none => stop (.exc 0x05 va)
  else
    let pa ← translate ag need va
    let m ← get
    match locate m ag need pa with
    | .ok p => pure p
    | .error k =>
      modify (dropLeaf ag va)
      stop (.fault k need.code va)

/-- The place of an access that never reaches a register (R170, R199, R243, R248): the aperture, and for an
atomic or reduction the host window, raise the address fault of a thread. -/
def resolveMem (ag : Agent) (need : Need) (va : Nat) : Acc Place := do
  let p ← resolve ag need va
  match p with
  | .aperture _ => stop (.exc 0x05 va)
  | .host _ => if need = .update then stop (.exc 0x05 va) else pure p
  | _ => pure p

/-! ## The host window (R250) -/

/-- Bus address of a host-window address under an ASID. -/
def busAddress (m : Module) (asid : BitVec 6) (a : Nat) : Nat :=
  let reg : Word := Sparse.get 0 m.host.mmuHost asid.toNat
  bitsOf reg 63 36 * 2 ^ 36 + (a - hostBase)

/-- The translation an ASID uses at a page of bus addresses, as the host port holds it (R250). -/
def atsEntry (m : Module) (asid : BitVec 6) (a : Nat) : AtsEntry :=
  let reg : Word := Sparse.get 0 m.host.mmuHost asid.toNat
  { pasid := if reg.getLsbD 31 then some (BitVec.ofNat 20 reg.toNat) else .none, page := busAddress m asid a / 4096 }

/-- With AT = 1 the host port keeps the translation it used. -/
def useAts (asid : BitVec 6) (a : Nat) (m : Module) : Module :=
  let reg : Word := Sparse.get 0 m.host.mmuHost asid.toNat
  let e := atsEntry m asid a
  if reg.getLsbD 30 && !m.host.ats.contains e then { m with host := { m.host with ats := (e :: m.host.ats).take 1024 } }
  else m

/-- The host port translates a page of the host window for an access to come, which then holds the translation; with
AT = 0 there is nothing to translate. False where the host refuses (R250). -/
def grantHost (asid : BitVec 6) (a : Nat) (m : Module) : Bool :=
  let reg : Word := Sparse.get 0 m.host.mmuHost asid.toNat
  !reg.getLsbD 30 || m.host.ats.contains (atsEntry m asid a)
    || (Sparse.get 0 m.host.hostAnswers (busAddress m asid a / 4096) : BitVec 2) != 1

/-- How the host answers an access: a translation it has granted is held, and a posted write is not answered.
DESIGN CHOICE (log 6). -/
def hostAnswer (asid : BitVec 6) (a : Nat) (write : Bool) (m : Module) : BitVec 2 :=
  match (Sparse.get 0 m.host.hostAnswers (busAddress m asid a / 4096) : BitVec 2) with
  | 1 => if grantHost asid a m then 0 else 1
  | x => if write then 0 else x

/-- A host access that the host refuses: a descriptor ends with its status, any other agent faults with kind 0x07
(R250). -/
def hostRefused (who : Requestor) (status access va : Nat) : Stop :=
  match who with
  | .line (.entry _) | .write (.entry _) => .host status va
  | _ => .fault 0x07 access va

/-- A host access of `who` goes on when the host grants it; the error record of poisoned data has its local address. -/
def askHost (who : Requestor) (asid : BitVec 6) (a access va : Nat) (write : Bool) : Acc Unit := do
  let m ← get
  match hostAnswer asid a write m with
  | 0 => pure ()
  | 1 => stop (hostRefused who 0x52 access va)
  | 2 => stop (hostRefused who 0x50 access va)
  | _ => match who with
    | .line (.entry _) => stop (.host 0x50 va)
    | _ => stop (.poison va a)

def readHost (who : Requestor) (asid : BitVec 6) (va a n : Nat) : Acc (List Byte) := do
  askHost who asid a 0 va false
  modify (useAts asid a)
  let m ← get
  pure (getHost m (busAddress m asid a) n)

def writeHost (who : Requestor) (asid : BitVec 6) (va a : Nat) (bytes : List Byte) : Acc Unit := do
  askHost who asid a 1 va true
  modify fun m => putHost (busAddress m asid a) bytes (useAts asid a m)

/-! ## Lines of other modules (R244, R375) -/

/-- Key of a line in an L1 or among fetched lines: a local line by its address, another module's above 2^40. -/
def placeKey : Place → Nat
  | .mem a => lineOf a
  | .remote n a => (n + 1) * 2 ^ 40 + lineOf a
  | .host a | .aperture a => a

def keyNode (k : Nat) : Option Nat := if k < 2 ^ 40 then .none else some (k / 2 ^ 40 - 1)

/-- A write of some bytes of a line of another module is sent (R368). -/
def sendWrite (who : Requestor) (va node line : Nat) (mask : BitVec 128) (data : List Byte) : Acc Unit := do
  let m ← get
  let r := sendRequest who va
    { type := 0x02, dst := BitVec.ofNat 12 node, src := m.fabric.node, addr := line,
      payload := writePayload mask data } m
  match r.1 with
  | .sent => set r.2
  | .wait => stop .wait
  | .unreachable => set r.2; stop (.fault 0x08 1 va)

/-! ## The data L1 (R253, R256) -/

def l1Ways : Nat := 8
def l1Sets : Nat := 256
/-- DEDUCED (log 25). -/
def l1Set (key : Nat) : Nat := key / 128 % l1Sets

def l1Find (k : Core) (key : Nat) : Option L1Line := k.l1d.find? fun l => l.line == key

/-- Poisoned units of a line that it has stored bytes of (R424). -/
def L1Line.spoiled (l : L1Line) : List Nat :=
  (List.range 4).filter fun u => l.poison.getLsbD u && (l.mask >>> (32 * u)).setWidth 32 != 0#32

/-- A fetched line that the instruction may use again shows what the core has stored to it since. -/
def refreshRemote (l : L1Line) (m : Module) : Module :=
  if m.fabric.spent.contains l.line then
    { m with fabric := { m.fabric with remote := m.fabric.remote.map fun r =>
        if r.1 == l.line then (r.1, (mergeLine r.2.1 0 0 l.data fun i => l.mask.getLsbD i).1, r.2.2) else r } }
  else m

/-- The bytes of a line that leaves for another module: no value is stated for those of a poisoned unit.
DESIGN CHOICE (log 27). -/
def L1Line.leaving (l : L1Line) (m : Module) : List Byte × Module :=
  if l.spoiled.isEmpty then (l.data, m)
  else
    let f := takeFree 1024 m
    ((List.range 128).map fun i => if l.spoiled.contains (i / 32) then f.1.extractLsb' (8 * i) 8 else l.data.getD i 0, f.2)

/-- Write the stored bytes of a line back to its home; the marks of its units travel with them (R253, R424). -/
def writeBackLine (t : Nat) (l : L1Line) : Acc Unit := do
  if l.mask = 0 then pure ()
  else
    match keyNode l.line with
    | .none =>
      writeLine l.line 0 l.data (fun i => l.mask.getLsbD i) 0
      modify fun m => l.spoiled.foldl (fun m u => markPoison (l.line + 32 * u) m) m
    | some n =>
      let m ← get
      let d := l.leaving (refreshRemote l m)
      set d.2
      sendWrite (.write (.thread t)) l.line n (l.line % 2 ^ 40) l.mask d.1

/-- A line of the data L1 of core `c` is replaced in its place. -/
def l1Put (c : Nat) (l : L1Line) (m : Module) : Module :=
  let k := coreAt m c
  setCore c { k with l1d := k.l1d.map fun x => if x.line == l.line then l else x } m

/-- The line a set gives up: one marked next victim, else the oldest not kept, else the oldest. -/
def l1Victim (k : Core) (key : Nat) : Option L1Line :=
  let set := k.l1d.filter fun l => l1Set l.line == l1Set key
  if set.length < l1Ways then .none
  else
    match set.find? (fun l => l.hint.toNat ≥ 2) with
    | some l => some l
    | .none =>
      match set.find? (fun l => l.hint != 1) with
      | some l => some l
      | .none => set.head?

/-- The loads of a thread in flight no longer place the lines for which `f` holds in the L1. -/
def Thread.barFills (th : Thread) (f : Nat → Bool) : Thread :=
  { th with loads := th.loads.map fun p => if p.line.any f then { p with line := .none } else p }

/-- Key of the line of another module that a request asks for. -/
def remoteKey (g : Tag) : Nat := placeKey (.remote g.node.toNat g.addr)

/-- A request of core `c`'s prefetcher whose line the L1 may still take. -/
def Tag.prefetches (g : Tag) (c : Nat) : Bool :=
  match g.who with
  | .prefetch t keep => keep && t / 2 == c && !g.quarantined
  | _ => false

/-- A line leaves the L1, or is written: the loads and prefetches in flight of the core's threads, which may carry it
as it was, do not place it there (R258, R275). -/
def barFills (c : Nat) (f : Nat → Bool) (m : Module) : Module :=
  let m := [2 * c, 2 * c + 1].foldl (fun m t =>
    if (threadAt m t).loads.isEmpty then m else setThread t ((threadAt m t).barFills f) m) m
  if m.fabric.tags.any (·.prefetches c) then
    let tags := m.fabric.tags.map fun g =>
      if g.prefetches c && f (remoteKey g) then { g with who := .prefetch (2 * c) false } else g
    { m with fabric := { m.fabric with tags := tags } }
  else m

def l1Drop (c key : Nat) (m : Module) : Module :=
  let k := coreAt m c
  barFills c (· == key) (setCore c { k with l1d := k.l1d.filter fun x => x.line != key } m)

/-- Place a line in the data L1 as its newest, writing a victim back first. -/
def l1Install (t : Nat) (l : L1Line) : Acc Unit := do
  let m ← get
  match l1Victim (coreAt m (t / 2)) l.line with
  | some v =>
    writeBackLine t v
    if v.pf then modify (perf t 0x0B 1) else pure ()
    modify (l1Drop (t / 2) v.line)
  | .none => pure ()
  modify fun m =>
    let k := coreAt m (t / 2)
    setCore (t / 2) { k with l1d := (k.l1d.filter fun x => x.line != l.line) ++ [l] } m

/-- Use of a held line makes it the newest of its set, under the hint of the access. -/
def l1Touch (c : Nat) (l : L1Line) (hint : BitVec 2) (m : Module) : Module :=
  let k := coreAt m c
  setCore c { k with l1d := (k.l1d.filter fun x => x.line != l.line) ++ [{ l with hint := hint }] } m

/-- A demand access of thread `t` takes over the request its core's prefetcher has sent for the line: that prefetch is
late (R254). -/
def joinPrefetch (t : Nat) (who : Requestor) (va node addr : Nat) (m : Module) : Option Module :=
  match m.fabric.tags.find? fun g => g.prefetches (t / 2) && g.node.toNat == node && g.addr == addr with
  | .none => .none
  | some g =>
    let tags := m.fabric.tags.map fun h => if h.tid == g.tid then { h with who := who, va := BitVec.ofNat 64 va } else h
    some (perf t 0x0A 1 { m with fabric := { m.fabric with tags := tags } })

/-- A read of a whole line of another module is sent, or the prefetch that is on its way serves for it. -/
def sendLineRead (who : Requestor) (va node addr : Nat) (m : Module) : Sending × Module :=
  let joined := match who with
    | .line (.thread t) | .load t _ _ _ _ => joinPrefetch t who va node addr m
    | _ => .none
  match joined with
  | some m => (.sent, m)
  | .none =>
    sendRequest who va
      { type := 0x01, op := 7, dst := BitVec.ofNat 12 node, src := m.fabric.node, addr := addr } m

/-- Send the request a stopped access waits for, unless it is on its way (R371, R375). -/
def sendFetch (who : Requestor) (va node addr : Nat) (m : Module) : Sending × Module :=
  if m.fabric.tags.any (fun g => g.who == who && g.node.toNat == node && g.addr == addr && !g.quarantined) then
    (.sent, m)
  else sendLineRead who va node addr m

/-- An access takes a fetched line of another module; an element of a vector instruction leaves it to the elements after
it (R169, R173). -/
def takeRemote (keep : Bool) (key : Nat) (m : Module) : Module :=
  if keep then { m with fabric := { m.fabric with spent := key :: m.fabric.spent } }
  else { m with fabric := { m.fabric with remote := m.fabric.remote.filter fun x => x.1 != key } }

/-- A vector instruction of thread `t` ends: the fetched lines it has used are gone, and those it lost are asked for
anew. -/
def dropSpent (t : Nat) (m : Module) : Module :=
  { m with fabric := { m.fabric with
      remote := m.fabric.remote.filter fun x => !m.fabric.spent.contains x.1, spent := []
      lost := m.fabric.lost.filter fun x => x.1 != .line (.thread t) } }

/-- A line of another module: at hand once its data has come; until then its request is sent, which faults where the
node cannot be reached (R244) or the request failed (R374). -/
def remoteLine (who : Requestor) (va n a key : Nat) (keep : Bool) : Acc (List Byte × BitVec 4) := do
  let m ← get
  match m.fabric.remote.find? (fun r => r.1 == key) with
  | some r =>
    set (takeRemote keep key m)
    pure (r.2.1, if r.2.2 then 0xF else 0)
  | .none =>
    match m.fabric.lost.find? fun x => x.1 == who && x.2.1 == key with
    | some x =>
      if keep then pure () else set { m with fabric := { m.fabric with lost := m.fabric.lost.filter fun y => y != x } }
      stop (.fault x.2.2 0 va)
    | .none =>
      let r := sendFetch who va n (lineOf a) m
      match r.1 with
      | .unreachable => set r.2; stop (.fault 0x08 0 va)
      | _ => stop (.fetch who va n (lineOf a))

/-- A requester of line misses (R269). -/
def Requestor.key : Requestor → Nat
  | .line (.thread t) | .write (.thread t) | .prefetch t _ => t + 1
  | .line (.entry _) | .write (.entry _) => 500
  | .line (.batch _) | .write (.batch _) => 501
  | _ => 0

/-- A whole line of memory for an agent, past any L1 (R244, R256). -/
def lineRead (who : Requestor) (va : Nat) (p : Place) (hint : BitVec 2) (keep : Bool := false) :
    Acc (List Byte × BitVec 4) := do
  match p with
  | .mem a => readLine who.key (lineOf a) hint
  | .remote n a => remoteLine who va n a (placeKey p) keep
  | _ => stop .wait

/-- An access whose translation faults carry the ACCESS code `n` (R65). -/
def asAccess {α : Type} (n : Nat) (x : Acc α) : Acc α :=
  ExceptT.adapt (fun s => match s with
    | .fault k _ va => .fault k n va
    | s => s) x

/-- The prefetcher sees a data access of its thread (R254). -/
def Stride.next (r : Stride) (va : Nat) : Stride :=
  if va = r.last then r
  else
    let d : Int := (va : Int) - r.last
    { last := va, step := d, steady := d == r.step }

/-- A data access of thread `t` at `va` is noted for its prefetcher. DEDUCED (log 26). -/
def noteData (t va : Nat) (m : Module) : Module :=
  let k := coreAt m (t / 2)
  let r := match Sparse.find k.follow t with
    | some r => r.next va
    | .none => { last := va }
  setCore (t / 2) { k with follow := Sparse.set k.follow t r } m

/-- A line the prefetcher may fetch: one of the next four that a steady stride touches, in the same 4 KiB page. -/
def Stride.ahead (r : Stride) (line : Nat) : Bool :=
  let far : Int := if r.step.natAbs < 128 then 128 * r.step.sign else r.step
  r.steady && line / 4096 == r.last / 4096
    && (List.range 4).any fun k => ((r.last : Int) + far * (k + 1)) / 128 == ((line / 128 : Nat) : Int)

/-- The line of a place, in the data L1 of thread `t`'s core or brought there; `discard` on a load keeps no copy
(R256, R257), and a vector load drops it with each element: DESIGN CHOICE (log 25). -/
def l1Line (t va : Nat) (p : Place) (hint : BitVec 2) (isLoad : Bool) (keep : Bool := false) : Acc L1Line := do
  modify (noteData t va)
  let m ← get
  let c := t / 2
  let key := placeKey p
  match l1Find (coreAt m c) key with
  | some l =>
    modify (perf t 0x05 1)
    if l.pf then modify (perf t 0x09 1) else pure ()
    let l := { l with pf := false }
    if hint = 3 ∧ isLoad then modify (l1Drop c key) else modify (l1Touch c l hint)
    pure { l with hint := hint }
  | .none =>
    modify (perf t 0x06 1)
    let d ← lineRead (.line (.thread t)) va p (if hint = 3 ∧ !isLoad then 2 else hint) keep
    let l : L1Line := { line := key, data := d.1, poison := d.2, hint := hint }
    if hint = 3 ∧ isLoad then pure () else l1Install t l
    pure l

/-- Read `n` bytes (within one line) for thread `t`, through its L1 or from the host window. -/
def threadRead (t : Nat) (p : Place) (va n : Nat) (hint : BitVec 2) (keep : Bool := false) : Acc Nat := do
  match p with
  | .host a =>
    let m ← get
    let bs ← readHost (.line (.thread t)) (threadAt m t).priv.asid va a n
    pure (ofBytes bs)
  | .aperture _ => stop (.exc 0x05 va)
  | .mem a | .remote _ a =>
    let l ← l1Line t va p hint true keep
    if touchesPoison l.poison (a % 128) n then stop (.poison va a)
    else pure (lineValue l.data (a % 128) n)

/-- Bytes of a mask over 128. -/
def byteMask (off n : Nat) : BitVec 128 := BitVec.ofNat 128 ((2 ^ n - 1) * 2 ^ off)

/-- Write `n` bytes (within one line) for thread `t`, into its L1 or to the host window. -/
def threadWrite (t : Nat) (p : Place) (va n : Nat) (v : Nat) (hint : BitVec 2) (keep : Bool := false) : Acc Unit := do
  match p with
  | .host a =>
    let m ← get
    writeHost (.write (.thread t)) (threadAt m t).priv.asid va a (bytesOf n v)
  | .aperture _ => stop (.exc 0x05 va)
  | .mem a | .remote _ a =>
    let l ← asAccess 1 (l1Line t va p hint false keep)
    modify (barFills (t / 2) (· == l.line))
    let x := mergeLine l.data l.poison (a % 128) (bytesOf n v) (fun _ => true)
    modify fun m =>
      let asid := (threadAt m t).priv.asid
      l1Touch (t / 2) { l with
        data := x.1, poison := x.2, mask := l.mask ||| byteMask (a % 128) n
        asids := if l.asids.contains asid then l.asids else asid :: l.asids } hint m

/-- Write back and drop the core's L1 line of a place, as an atomic or reduction does first (R258). -/
def l1Evict (t : Nat) (p : Place) : Acc Unit := do
  let m ← get
  match l1Find (coreAt m (t / 2)) (placeKey p) with
  | .none => pure ()
  | some l => writeBackLine t l
  modify (l1Drop (t / 2) (placeKey p))

/-- Write back every dirty line for which `f` holds, keeping it clean, or dropping it with `inv`. DEDUCED (log 66). -/
def l1Clean (t : Nat) (f : L1Line → Bool) (inv : Bool) : Acc Unit := do
  let m ← get
  let c := t / 2
  for l in (coreAt m c).l1d do
    if f l then writeBackLine t l
  modify fun m =>
    let k := coreAt m c
    let l := if inv then k.l1d.filter fun x => !f x
             else k.l1d.map fun x => if f x then { x with mask := 0, asids := [] } else x
    let m := setCore c { k with l1d := l } m
    if inv then barFills c (fun key => f { line := key, data := [] }) m else m

/-! ## Accesses of engines and copies, a page at a time -/

/-- Split `[a, a + n)` at line boundaries: address and length of each piece. -/
def linePieces : Nat → Nat → Nat → List (Nat × Nat)
  | 0, _, _ => []
  | fuel + 1, a, n =>
    if n = 0 then []
    else
      let k := Nat.min n (128 - a % 128)
      (a, k) :: linePieces fuel (a + k) (n - k)

def pieces (a n : Nat) : List (Nat × Nat) := linePieces (n / 128 + 2) a n

/-- Read bytes of one line for an agent that is no thread. -/
def agentReadPiece (ag : Agent) (who : Requestor) (va n : Nat) (hint : BitVec 2) : Acc (List Byte) := do
  let p ← resolve ag .read (va % 2 ^ 48)
  match p with
  | .host a => readHost who ag.asid va a n
  | .aperture _ => stop (.fault 0x05 0 va)
  | .mem a | .remote _ a =>
    let d ← lineRead who va p hint
    if touchesPoison d.2 (a % 128) n then stop (.poison va a)
    else pure ((d.1.drop (a % 128)).take n)

/-- Read `n` bytes from a virtual address. -/
def agentRead (ag : Agent) (who : Requestor) (va n : Nat) (hint : BitVec 2 := 0) : Acc (List Byte) := do
  let mut out : List (List Byte) := []
  for q in pieces va n do
    let bs ← agentReadPiece ag who q.1 q.2 hint
    out := bs :: out
  pure out.reverse.flatten

/-- Write bytes of one line for an agent that is no thread. -/
def agentWritePiece (ag : Agent) (who : Requestor) (va : Nat) (bytes : List Byte) (hint : BitVec 2) : Acc Unit := do
  let p ← resolve ag .write (va % 2 ^ 48)
  match p with
  | .host a => writeHost who ag.asid va a bytes
  | .aperture _ => stop (.fault 0x05 1 va)
  | .mem a => writeLine (lineOf a) (a % 128) bytes (fun _ => true) hint
  | .remote n a =>
    let data := List.replicate (a % 128) 0 ++ bytes
    sendWrite who va n (lineOf a) (byteMask (a % 128) bytes.length) data

/-- Write bytes at a virtual address. -/
def agentWrite (ag : Agent) (who : Requestor) (va : Nat) (bytes : List Byte) (hint : BitVec 2 := 0) : Acc Unit := do
  for q in pieces va bytes.length do
    agentWritePiece ag who q.1 ((bytes.drop (q.1 - va)).take q.2) hint

/-- Translate every page of `[va, va + n)` for an access, without making it. -/
def agentProbe (ag : Agent) (need : Need) (va n : Nat) : Acc Unit := do
  for i in List.range (if n = 0 then 0 else (va + n - 1) / 4096 - va / 4096 + 1) do
    let p ← resolve ag need ((if i = 0 then va else (va / 4096 + i) * 4096) % 2 ^ 48)
    match p with
    | .aperture _ => stop (.fault 0x05 need.code va)
    | _ => pure ()

/-! ## What a stopped access leaves behind -/

/-- A stop that only makes its agent wait. -/
def Stop.waits : Stop → Bool
  | .wait | .fetch _ _ _ _ | .miss _ _ _ | .register _ | .clean _ => true
  | _ => false

/-- An access that waits has asked for what it waits for, unless it has done so before; else nothing has happened. -/
def Stop.asks (s : Stop) (m : Module) : Module :=
  match s with
  | .fetch who va node addr => (sendFetch who va node addr m).2
  | .miss who line read => waitMiss who line read m
  | .register line => if dramReady m line then waitRegister line forEngine m else m
  | .clean line => waitClean line m
  | _ => m

end Sys2Proof.Machine
end

