-- ==== Sys2Proof/Machine/IsaWord.lean ====
section
/-! DEFINITION. Instruction words (R100-R102, R157, R158, R189-R204, R255-R260): the words of an instruction and
the instruction words spell. -/

namespace Sys2Proof.Machine

/-! ## Forms (R101, R157) -/

/-- Form A: major, rd, rs1, rs2, function. -/
def wordA (major : BitVec 6) (rd rs1 rs2 : Reg) (funct : BitVec 11) : BitVec 32 :=
  major ++ rd ++ rs1 ++ rs2 ++ funct

/-- Form I: major, rd, rs1, imm16. -/
def wordI (major : BitVec 6) (rd rs1 : Reg) (imm : BitVec 16) : BitVec 32 := major ++ rd ++ rs1 ++ imm

/-- Form M. -/
def wordM (major : BitVec 6) (o : MemOp) : BitVec 32 :=
  major ++ o.rd ++ o.rb ++ o.mode ++ o.size ++ o.hint ++ o.disp

/-- Forms B and BI: major, rs1, rs2 or imm5, cond, off13. -/
def wordB (major : BitVec 6) (rs1 rs2 : Reg) (cond : BitVec 3) (off : BitVec 13) : BitVec 32 :=
  major ++ rs1 ++ rs2 ++ cond ++ off

/-- Form J. -/
def wordJ (major : BitVec 6) (off : BitVec 26) : BitVec 32 := major ++ off

/-- Form S: g, zero, sub-operation, imm12. -/
def wordS (g : Reg) (sub : BitVec 4) (imm : BitVec 12) : BitVec 32 := 0x20#6 ++ g ++ 0#5 ++ sub ++ imm

/-- Forms VA and VX. -/
def wordV (major : BitVec 6) (o : VecOp) (funct : BitVec 7) : BitVec 32 :=
  major ++ o.vd ++ o.vs1 ++ o.src2 ++ o.ty ++ o.m ++ funct

/-- Form VM with a hint and zero low bits, or a reduction's operation in bits 3:1 (R260). -/
def wordVM (major : BitVec 6) (o : VMemOp) (low : BitVec 4) : BitVec 32 :=
  major ++ o.v ++ o.rb ++ o.x ++ o.size ++ o.m ++ o.mode ++ o.ix ++ o.sc ++ low

/-- Words of TMMA (R190). -/
def wordsTmma (o : TmmaOp) : BitVec 32 × BitVec 32 :=
  (0x3F#6 ++ 0x0#4 ++ o.m ++ o.n ++ o.k ++ o.fa ++ o.acc,
   o.fw ++ o.acct ++ o.wt ++ o.t3 ++ o.t2 ++ o.t1 ++ o.t0 ++ o.amask ++ 0#7)

/-- Words of TLD, TST and TLDS (R197). -/
def wordsTileMem (top : BitVec 4) (o : TileMemOp) : BitVec 32 × BitVec 32 :=
  (0x3F#6 ++ top ++ o.rb ++ o.rs ++ o.tile ++ o.arr ++ o.tr ++ o.fmt ++ 0#1,
   o.rows ++ o.cols ++ o.hint ++ 0#18)

/-- Words of TACCV, TACCT and TACCS (R204). -/
def wordsTileMove (top : BitVec 4) (o : TileMoveOp) : BitVec 32 × BitVec 32 :=
  (0x3F#6 ++ top ++ o.rb ++ o.rs ++ o.arr ++ o.acct ++ o.fmt ++ 0#4,
   o.rows ++ o.gs ++ o.dtile ++ o.darr ++ o.hint ++ o.red ++ 0#13)

/-- Function field of an atomic: size, operation, five zero bits (R259). -/
def functAtomic (op : BitVec 4) (dbl : BitVec 1) : BitVec 11 := (1#1 ++ dbl) ++ op ++ 0#5

/-- Function field of a scalar reduction (R260). -/
def functRed (op : BitVec 3) : BitVec 11 := op ++ 0#8

/-- Major of an integer or floating-point vector instruction: the odd code for form VA, the next for VX. -/
def vecMajor (major : BitVec 6) (o : VecOp) : BitVec 6 := if o.scalar = 1#1 then major + 1 else major

/-! ## The words of an instruction -/

/-- A one-word instruction; its second word is none. -/
def one (x : BitVec 32) : Option (BitVec 32 × Option (BitVec 32)) := some (x, .none)

def two (x : BitVec 32 × BitVec 32) : Option (BitVec 32 × Option (BitVec 32)) := some (x.1, some x.2)

/-- The words of a command that is an instruction of a thread; none for every other command. -/
def wordsOf (i : Instr) : Option (BitVec 32 × Option (BitVec 32)) :=
  match i with
  | .add _ rd rs1 rs2 => one (wordA 0x01 rd rs1 rs2 0x000)
  | .sub _ rd rs1 rs2 => one (wordA 0x01 rd rs1 rs2 0x001)
  | .andR _ rd rs1 rs2 => one (wordA 0x01 rd rs1 rs2 0x002)
  | .orR _ rd rs1 rs2 => one (wordA 0x01 rd rs1 rs2 0x003)
  | .xorR _ rd rs1 rs2 => one (wordA 0x01 rd rs1 rs2 0x004)
  | .sll _ rd rs1 rs2 => one (wordA 0x01 rd rs1 rs2 0x005)
  | .srl _ rd rs1 rs2 => one (wordA 0x01 rd rs1 rs2 0x006)
  | .sra _ rd rs1 rs2 => one (wordA 0x01 rd rs1 rs2 0x007)
  | .minS _ rd rs1 rs2 => one (wordA 0x01 rd rs1 rs2 0x008)
  | .maxS _ rd rs1 rs2 => one (wordA 0x01 rd rs1 rs2 0x009)
  | .minu _ rd rs1 rs2 => one (wordA 0x01 rd rs1 rs2 0x00A)
  | .maxu _ rd rs1 rs2 => one (wordA 0x01 rd rs1 rs2 0x00B)
  | .addw _ rd rs1 rs2 => one (wordA 0x01 rd rs1 rs2 0x010)
  | .subw _ rd rs1 rs2 => one (wordA 0x01 rd rs1 rs2 0x011)
  | .mul _ rd rs1 rs2 => one (wordA 0x02 rd rs1 rs2 0x000)
  | .mulh _ rd rs1 rs2 => one (wordA 0x02 rd rs1 rs2 0x001)
  | .mulhu _ rd rs1 rs2 => one (wordA 0x02 rd rs1 rs2 0x002)
  | .divS _ rd rs1 rs2 => one (wordA 0x02 rd rs1 rs2 0x004)
  | .divu _ rd rs1 rs2 => one (wordA 0x02 rd rs1 rs2 0x005)
  | .rem _ rd rs1 rs2 => one (wordA 0x02 rd rs1 rs2 0x006)
  | .remu _ rd rs1 rs2 => one (wordA 0x02 rd rs1 rs2 0x007)
  | .seq _ rd rs1 rs2 => one (wordA 0x03 rd rs1 rs2 0x000)
  | .sne _ rd rs1 rs2 => one (wordA 0x03 rd rs1 rs2 0x001)
  | .slt _ rd rs1 rs2 => one (wordA 0x03 rd rs1 rs2 0x002)
  | .sge _ rd rs1 rs2 => one (wordA 0x03 rd rs1 rs2 0x003)
  | .sltu _ rd rs1 rs2 => one (wordA 0x03 rd rs1 rs2 0x004)
  | .sgeu _ rd rs1 rs2 => one (wordA 0x03 rd rs1 rs2 0x005)
  | .clz _ rd rs1 => one (wordA 0x01 rd rs1 0 0x00C)
  | .ctz _ rd rs1 => one (wordA 0x01 rd rs1 0 0x00D)
  | .popc _ rd rs1 => one (wordA 0x01 rd rs1 0 0x00E)
  | .addi _ rd rs1 imm => one (wordI 0x04 rd rs1 imm)
  | .andi _ rd rs1 imm => one (wordI 0x05 rd rs1 imm)
  | .ori _ rd rs1 imm => one (wordI 0x06 rd rs1 imm)
  | .xori _ rd rs1 imm => one (wordI 0x07 rd rs1 imm)
  | .slti _ rd rs1 imm => one (wordI 0x0B rd rs1 imm)
  | .sltiu _ rd rs1 imm => one (wordI 0x0C rd rs1 imm)
  | .cati _ rd rs1 imm => one (wordI 0x0D rd rs1 imm)
  | .rcati _ rd rs1 imm => one (wordI 0x0E rd rs1 imm)
  | .slli _ rd rs1 sh => one (wordI 0x08 rd rs1 (0#10 ++ sh))
  | .srli _ rd rs1 sh => one (wordI 0x09 rd rs1 (0#10 ++ sh))
  | .srai _ rd rs1 sh => one (wordI 0x0A rd rs1 (0#10 ++ sh))
  | .load _ op => one (wordM 0x10 op)
  | .loadS _ op => one (wordM 0x11 op)
  | .store _ op => one (wordM 0x12 op)
  | .fence _ => one (wordA 0x13 0 0 0 0x000)
  | .fenceWb _ rs1 rs2 => one (wordA 0x13 0 rs1 rs2 0x001)
  | .fenceInv _ rs1 rs2 => one (wordA 0x13 0 rs1 rs2 0x002)
  | .fenceI _ => one (wordA 0x13 0 0 0 0x003)
  | .aswap _ rd rs1 rs2 dbl => one (wordA 0x14 rd rs1 rs2 (functAtomic 0 dbl))
  | .aadd _ rd rs1 rs2 dbl => one (wordA 0x14 rd rs1 rs2 (functAtomic 1 dbl))
  | .aand _ rd rs1 rs2 dbl => one (wordA 0x14 rd rs1 rs2 (functAtomic 2 dbl))
  | .aor _ rd rs1 rs2 dbl => one (wordA 0x14 rd rs1 rs2 (functAtomic 3 dbl))
  | .axor _ rd rs1 rs2 dbl => one (wordA 0x14 rd rs1 rs2 (functAtomic 4 dbl))
  | .amin _ rd rs1 rs2 dbl => one (wordA 0x14 rd rs1 rs2 (functAtomic 5 dbl))
  | .amax _ rd rs1 rs2 dbl => one (wordA 0x14 rd rs1 rs2 (functAtomic 6 dbl))
  | .aminu _ rd rs1 rs2 dbl => one (wordA 0x14 rd rs1 rs2 (functAtomic 7 dbl))
  | .amaxu _ rd rs1 rs2 dbl => one (wordA 0x14 rd rs1 rs2 (functAtomic 8 dbl))
  | .acas _ rd rs1 rs2 dbl => one (wordA 0x14 rd rs1 rs2 (functAtomic 9 dbl))
  | .redInt32Add _ rs1 rs2 => one (wordA 0x15 0 rs1 rs2 (functRed 0))
  | .redFp32Add _ rs1 rs2 => one (wordA 0x15 0 rs1 rs2 (functRed 1))
  | .redBf16Add _ rs1 rs2 => one (wordA 0x15 0 rs1 rs2 (functRed 2))
  | .redInt32Max _ rs1 rs2 => one (wordA 0x15 0 rs1 rs2 (functRed 3))
  | .redFp32Max _ rs1 rs2 => one (wordA 0x15 0 rs1 rs2 (functRed 4))
  | .redBf16Max _ rs1 rs2 => one (wordA 0x15 0 rs1 rs2 (functRed 5))
  | .vredInt32Add _ op => one (wordVM 0x16 op (0#3 ++ 0#1))
  | .vredFp32Add _ op => one (wordVM 0x16 op (1#3 ++ 0#1))
  | .vredBf16Add _ op => one (wordVM 0x16 op (2#3 ++ 0#1))
  | .vredInt32Max _ op => one (wordVM 0x16 op (3#3 ++ 0#1))
  | .vredFp32Max _ op => one (wordVM 0x16 op (4#3 ++ 0#1))
  | .vredBf16Max _ op => one (wordVM 0x16 op (5#3 ++ 0#1))
  | .branch _ rs1 rs2 cond off => one (wordB 0x18 rs1 rs2 cond off)
  | .branchI _ rs1 imm cond off => one (wordB 0x19 rs1 imm cond off)
  | .jump _ off => one (wordJ 0x1A off)
  | .call _ off => one (wordJ 0x1B off)
  | .jr _ rs1 => one (wordA 0x1C 0 rs1 0 0x000)
  | .callr _ rs1 => one (wordA 0x1C 0 rs1 0 0x001)
  | .ret _ => one (wordA 0x1C 0 0 0 0x002)
  | .loopR _ n rs len => one (0x1D#6 ++ n ++ rs ++ 0#7 ++ len)
  | .loopi _ n count len => one (0x1E#6 ++ n ++ count ++ len)
  | .lclr _ n => one (0x1F#6 ++ n ++ 0#24)
  | .trap _ num => one (wordS 0 0x0 num)
  | .endTask _ => one (wordS 0 0x1 0)
  | .rfx _ => one (wordS 0 0x2 0)
  | .wait _ => one (wordS 0 0x3 0)
  | .mfsr _ g sr => one (wordS g 0x4 sr)
  | .mtsr _ g sr => one (wordS g 0x5 sr)
  | .sync _ => one (wordS 0 0x6 0)
  | .leaseWrite _ g => one (wordS g 0x5 0x050)
  | .vfstatClr _ g => one (wordS g 0x5 0x033)
  | .vld _ op => one (wordVM 0x21 op (op.hint ++ 0#2))
  | .vst _ op => one (wordVM 0x22 op (op.hint ++ 0#2))
  | .vadd _ op => one (wordV (vecMajor 0x23 op) op 0x00)
  | .vsub _ op => one (wordV (vecMajor 0x23 op) op 0x01)
  | .vmul _ op => one (wordV (vecMajor 0x23 op) op 0x02)
  | .vmulh _ op => one (wordV (vecMajor 0x23 op) op 0x03)
  | .vmulhu _ op => one (wordV (vecMajor 0x23 op) op 0x04)
  | .vmin _ op => one (wordV (vecMajor 0x23 op) op 0x05)
  | .vmax _ op => one (wordV (vecMajor 0x23 op) op 0x06)
  | .vminu _ op => one (wordV (vecMajor 0x23 op) op 0x07)
  | .vmaxu _ op => one (wordV (vecMajor 0x23 op) op 0x08)
  | .vand _ op => one (wordV (vecMajor 0x23 op) op 0x09)
  | .vor _ op => one (wordV (vecMajor 0x23 op) op 0x0A)
  | .vxor _ op => one (wordV (vecMajor 0x23 op) op 0x0B)
  | .vsll _ op => one (wordV (vecMajor 0x23 op) op 0x0C)
  | .vsrl _ op => one (wordV (vecMajor 0x23 op) op 0x0D)
  | .vsra _ op => one (wordV (vecMajor 0x23 op) op 0x0E)
  | .vsadd _ op => one (wordV (vecMajor 0x23 op) op 0x10)
  | .vsaddu _ op => one (wordV (vecMajor 0x23 op) op 0x11)
  | .vssub _ op => one (wordV (vecMajor 0x23 op) op 0x12)
  | .vssubu _ op => one (wordV (vecMajor 0x23 op) op 0x13)
  | .vsmulr _ op => one (wordV (vecMajor 0x23 op) op 0x14)
  | .vrsra _ op => one (wordV (vecMajor 0x23 op) op 0x15)
  | .vrsrl _ op => one (wordV (vecMajor 0x23 op) op 0x16)
  | .vnars _ op => one (wordV (vecMajor 0x23 op) op 0x17)
  | .vnaru _ op => one (wordV (vecMajor 0x23 op) op 0x18)
  | .vfadd _ op => one (wordV (vecMajor 0x25 op) op 0x00)
  | .vfsub _ op => one (wordV (vecMajor 0x25 op) op 0x01)
  | .vfmul _ op => one (wordV (vecMajor 0x25 op) op 0x02)
  | .vfma _ op => one (wordV (vecMajor 0x25 op) op 0x03)
  | .vfnms _ op => one (wordV (vecMajor 0x25 op) op 0x04)
  | .vfmin _ op => one (wordV (vecMajor 0x25 op) op 0x05)
  | .vfmax _ op => one (wordV (vecMajor 0x25 op) op 0x06)
  | .vfdiv _ op => one (wordV (vecMajor 0x25 op) op 0x07)
  | .vfsqrt _ op => one (wordV (vecMajor 0x25 op) op 0x08)
  | .vceq _ op => one (wordV 0x27 op 0x00)
  | .vcne _ op => one (wordV 0x27 op 0x01)
  | .vclt _ op => one (wordV 0x27 op 0x02)
  | .vcltu _ op => one (wordV 0x27 op 0x03)
  | .vcle _ op => one (wordV 0x27 op 0x04)
  | .vcleu _ op => one (wordV 0x27 op 0x05)
  | .vcfeq _ op => one (wordV 0x27 op 0x08)
  | .vcflt _ op => one (wordV 0x27 op 0x09)
  | .vcfle _ op => one (wordV 0x27 op 0x0A)
  | .vcfun _ op => one (wordV 0x27 op 0x0B)
  | .vrsum _ op => one (wordV 0x29 op 0x00)
  | .vrmax _ op => one (wordV 0x29 op 0x01)
  | .vrmin _ op => one (wordV 0x29 op 0x02)
  | .vrmaxu _ op => one (wordV 0x29 op 0x03)
  | .vrminu _ op => one (wordV 0x29 op 0x04)
  | .vrfsum _ op => one (wordV 0x29 op 0x08)
  | .vrfmax _ op => one (wordV 0x29 op 0x09)
  | .vrfmin _ op => one (wordV 0x29 op 0x0A)
  | .vmv _ op => one (wordV 0x2A op 0x00)
  | .vbcast _ op => one (wordV 0x2A op 0x01)
  | .vext _ op => one (wordV 0x2A op 0x02)
  | .vins _ op => one (wordV 0x2A op 0x03)
  | .vindex _ op => one (wordV 0x2A op 0x04)
  | .vshdn _ op => one (wordV 0x2A op 0x05)
  | .vshup _ op => one (wordV 0x2A op 0x06)
  | .vrng _ op => one (wordV 0x2A op 0x07)
  | .vmand _ op => one (wordV 0x2B op 0x00)
  | .vmor _ op => one (wordV 0x2B op 0x01)
  | .vmxor _ op => one (wordV 0x2B op 0x02)
  | .vmandn _ op => one (wordV 0x2B op 0x03)
  | .vmcount _ op => one (wordV 0x2B op 0x04)
  | .vmlow _ op => one (wordV 0x2B op 0x05)
  | .vcvt _ op => one (0x28#6 ++ op.vd ++ op.vs1 ++ op.vs2 ++ op.src ++ op.dst ++ 0#3)
  | .setvc _ rd rs1 size => one (0x2F#6 ++ rd ++ rs1 ++ 0#5 ++ size ++ 0#1 ++ 0#1 ++ 0x00#7)
  | .tmma _ op => two (wordsTmma op)
  | .tld _ op => two (wordsTileMem 0x1 op)
  | .tst _ op => two (wordsTileMem 0x2 op)
  | .tlds _ op => two (wordsTileMem 0x3 op)
  | .taccv _ op => two (wordsTileMove 0x4 op)
  | .tacct _ op => two (wordsTileMove 0x5 op)
  | .taccs _ op => two (wordsTileMove 0x6 op)
  | _ => .none

/-- The first word of an instruction, the FVAL of an illegal or privileged instruction (R131). -/
def firstWord (i : Instr) : Nat :=
  match wordsOf i with
  | some x => x.1.toNat
  | .none => 0

/-! ## The instruction words spell -/

/-- Bits `lo .. lo + n - 1` of a word. -/
abbrev bits (x : BitVec 32) (lo n : Nat) : BitVec n := x.extractLsb' lo n

def fieldRd (x : BitVec 32) : Reg := bits x 21 5
def fieldRs1 (x : BitVec 32) : Reg := bits x 16 5
def fieldRs2 (x : BitVec 32) : Reg := bits x 11 5

def memFields (x : BitVec 32) : MemOp :=
  { rd := fieldRd x, rb := fieldRs1 x, mode := bits x 14 2, size := bits x 12 2, hint := bits x 10 2, disp := bits x 0 10 }

def vecFields (scalar : BitVec 1) (x : BitVec 32) : VecOp :=
  { scalar := scalar, vd := fieldRd x, vs1 := fieldRs1 x, src2 := fieldRs2 x, ty := bits x 8 3, m := bits x 7 1 }

/-- Fields of form VM; a vector reduction has no hint. -/
def vmemFields (hint : BitVec 2) (x : BitVec 32) : VMemOp :=
  { v := fieldRd x, rb := fieldRs1 x, x := fieldRs2 x, size := bits x 9 2, m := bits x 8 1, mode := bits x 6 2,
    ix := bits x 5 1, sc := bits x 4 1, hint := hint }

def tmmaFields (x y : BitVec 32) : TmmaOp :=
  { m := bits x 17 5, n := bits x 12 5, k := bits x 5 7, fa := bits x 1 4, acc := bits x 0 1
    fw := bits y 28 4, acct := bits y 26 2, wt := bits y 23 3, t3 := bits y 20 3, t2 := bits y 17 3
    t1 := bits y 14 3, t0 := bits y 11 3, amask := bits y 7 4 }

def tileMemFields (x y : BitVec 32) : TileMemOp :=
  { rb := bits x 17 5, rs := bits x 12 5, tile := bits x 8 4, arr := bits x 6 2, tr := bits x 5 1, fmt := bits x 1 4
    rows := bits y 27 5, cols := bits y 20 7, hint := bits y 18 2 }

def tileMoveFields (x y : BitVec 32) : TileMoveOp :=
  { rb := bits x 17 5, rs := bits x 12 5, arr := bits x 10 2, acct := bits x 8 2, fmt := bits x 4 4
    rows := bits y 27 5, gs := bits y 22 5, dtile := bits y 18 4, darr := bits y 16 2, hint := bits y 14 2
    red := bits y 13 1 }

/-- Majors 0x01 to 0x03: function code to instruction. -/
def decodeAlu (t : Nat) (x : BitVec 32) : Option Instr :=
  let rd := fieldRd x
  let rs1 := fieldRs1 x
  let rs2 := fieldRs2 x
  match (bits x 26 6).toNat, (bits x 0 11).toNat with
  | 1, 0x00 => some (.add t rd rs1 rs2)
  | 1, 0x01 => some (.sub t rd rs1 rs2)
  | 1, 0x02 => some (.andR t rd rs1 rs2)
  | 1, 0x03 => some (.orR t rd rs1 rs2)
  | 1, 0x04 => some (.xorR t rd rs1 rs2)
  | 1, 0x05 => some (.sll t rd rs1 rs2)
  | 1, 0x06 => some (.srl t rd rs1 rs2)
  | 1, 0x07 => some (.sra t rd rs1 rs2)
  | 1, 0x08 => some (.minS t rd rs1 rs2)
  | 1, 0x09 => some (.maxS t rd rs1 rs2)
  | 1, 0x0A => some (.minu t rd rs1 rs2)
  | 1, 0x0B => some (.maxu t rd rs1 rs2)
  | 1, 0x10 => some (.addw t rd rs1 rs2)
  | 1, 0x11 => some (.subw t rd rs1 rs2)
  | 2, 0x00 => some (.mul t rd rs1 rs2)
  | 2, 0x01 => some (.mulh t rd rs1 rs2)
  | 2, 0x02 => some (.mulhu t rd rs1 rs2)
  | 2, 0x04 => some (.divS t rd rs1 rs2)
  | 2, 0x05 => some (.divu t rd rs1 rs2)
  | 2, 0x06 => some (.rem t rd rs1 rs2)
  | 2, 0x07 => some (.remu t rd rs1 rs2)
  | 3, 0x00 => some (.seq t rd rs1 rs2)
  | 3, 0x01 => some (.sne t rd rs1 rs2)
  | 3, 0x02 => some (.slt t rd rs1 rs2)
  | 3, 0x03 => some (.sge t rd rs1 rs2)
  | 3, 0x04 => some (.sltu t rd rs1 rs2)
  | 3, 0x05 => some (.sgeu t rd rs1 rs2)
  | 1, 0x0C => if rs2 = 0 then some (.clz t rd rs1) else .none
  | 1, 0x0D => if rs2 = 0 then some (.ctz t rd rs1) else .none
  | 1, 0x0E => if rs2 = 0 then some (.popc t rd rs1) else .none
  | _, _ => .none

/-- Majors 0x04 to 0x0E. -/
def decodeImm (t : Nat) (x : BitVec 32) : Option Instr :=
  let rd := fieldRd x
  let rs1 := fieldRs1 x
  let imm := bits x 0 16
  match (bits x 26 6).toNat with
  | 4 => some (.addi t rd rs1 imm)
  | 5 => some (.andi t rd rs1 imm)
  | 6 => some (.ori t rd rs1 imm)
  | 7 => some (.xori t rd rs1 imm)
  | 11 => some (.slti t rd rs1 imm)
  | 12 => some (.sltiu t rd rs1 imm)
  | 13 => some (.cati t rd rs1 imm)
  | 14 => some (.rcati t rd rs1 imm)
  | 8 => if bits x 6 10 = 0 then some (.slli t rd rs1 (bits x 0 6)) else .none
  | 9 => if bits x 6 10 = 0 then some (.srli t rd rs1 (bits x 0 6)) else .none
  | 10 => if bits x 6 10 = 0 then some (.srai t rd rs1 (bits x 0 6)) else .none
  | _ => .none

/-- Major 0x13 (R255). -/
def decodeFence (t : Nat) (x : BitVec 32) : Option Instr :=
  let rs1 := fieldRs1 x
  let rs2 := fieldRs2 x
  if fieldRd x ≠ 0 then .none
  else
    match (bits x 0 11).toNat with
    | 0 => if rs1 = 0 ∧ rs2 = 0 then some (.fence t) else .none
    | 1 => if rs2 = 0 ∧ rs1 ≠ 0 then .none else some (.fenceWb t rs1 rs2)
    | 2 => if rs2 = 0 ∧ rs1 ≠ 0 then .none else some (.fenceInv t rs1 rs2)
    | 3 => if rs1 = 0 ∧ rs2 = 0 then some (.fenceI t) else .none
    | _ => .none

/-- Major 0x14 (R259). -/
def decodeAtomic (t : Nat) (x : BitVec 32) : Option Instr :=
  let rd := fieldRd x
  let rs1 := fieldRs1 x
  let rs2 := fieldRs2 x
  let dbl := bits x 9 1
  if bits x 10 1 ≠ 1 ∨ bits x 0 5 ≠ 0 then .none
  else
    match (bits x 5 4).toNat with
    | 0 => some (.aswap t rd rs1 rs2 dbl)
    | 1 => some (.aadd t rd rs1 rs2 dbl)
    | 2 => some (.aand t rd rs1 rs2 dbl)
    | 3 => some (.aor t rd rs1 rs2 dbl)
    | 4 => some (.axor t rd rs1 rs2 dbl)
    | 5 => some (.amin t rd rs1 rs2 dbl)
    | 6 => some (.amax t rd rs1 rs2 dbl)
    | 7 => some (.aminu t rd rs1 rs2 dbl)
    | 8 => some (.amaxu t rd rs1 rs2 dbl)
    | 9 => some (.acas t rd rs1 rs2 dbl)
    | _ => .none

/-- Major 0x15 (R260). -/
def decodeRed (t : Nat) (x : BitVec 32) : Option Instr :=
  let rs1 := fieldRs1 x
  let rs2 := fieldRs2 x
  if fieldRd x ≠ 0 ∨ bits x 0 8 ≠ 0 then .none
  else
    match (bits x 8 3).toNat with
    | 0 => some (.redInt32Add t rs1 rs2)
    | 1 => some (.redFp32Add t rs1 rs2)
    | 2 => some (.redBf16Add t rs1 rs2)
    | 3 => some (.redInt32Max t rs1 rs2)
    | 4 => some (.redFp32Max t rs1 rs2)
    | 5 => some (.redBf16Max t rs1 rs2)
    | _ => .none

/-- Major 0x16 (R260). -/
def decodeVred (t : Nat) (x : BitVec 32) : Option Instr :=
  let op := vmemFields 0 x
  if bits x 0 1 ≠ 0 then .none
  else
    match (bits x 1 3).toNat with
    | 0 => some (.vredInt32Add t op)
    | 1 => some (.vredFp32Add t op)
    | 2 => some (.vredBf16Add t op)
    | 3 => some (.vredInt32Max t op)
    | 4 => some (.vredFp32Max t op)
    | 5 => some (.vredBf16Max t op)
    | _ => .none

/-- Majors 0x18 to 0x20. -/
def decodeControl (t : Nat) (x : BitVec 32) : Option Instr :=
  match (bits x 26 6).toNat with
  | 0x18 => some (.branch t (fieldRd x) (fieldRs1 x) (bits x 13 3) (bits x 0 13))
  | 0x19 => some (.branchI t (fieldRd x) (fieldRs1 x) (bits x 13 3) (bits x 0 13))
  | 0x1A => some (.jump t (bits x 0 26))
  | 0x1B => some (.call t (bits x 0 26))
  | 0x1C =>
    if fieldRd x ≠ 0 ∨ fieldRs2 x ≠ 0 then .none
    else
      match (bits x 0 11).toNat with
      | 0 => some (.jr t (fieldRs1 x))
      | 1 => some (.callr t (fieldRs1 x))
      | 2 => if fieldRs1 x = 0 then some (.ret t) else .none
      | _ => .none
  | 0x1D => if bits x 12 7 = 0 then some (.loopR t (bits x 24 2) (bits x 19 5) (bits x 0 12)) else .none
  | 0x1E => some (.loopi t (bits x 24 2) (bits x 12 12) (bits x 0 12))
  | 0x1F => if bits x 0 24 = 0 then some (.lclr t (bits x 24 2)) else .none
  | 0x20 =>
    let g := fieldRd x
    let imm := bits x 0 12
    if fieldRs1 x ≠ 0 then .none
    else
      match (bits x 12 4).toNat with
      | 0 => if g = 0 then some (.trap t imm) else .none
      | 1 => if g = 0 ∧ imm = 0 then some (.endTask t) else .none
      | 2 => if g = 0 ∧ imm = 0 then some (.rfx t) else .none
      | 3 => if g = 0 ∧ imm = 0 then some (.wait t) else .none
      | 4 => some (.mfsr t g imm)
      | 5 => some (.mtsr t g imm)
      | 6 => if g = 0 ∧ imm = 0 then some (.sync t) else .none
      | _ => .none
  | _ => .none

/-- Integer and floating-point vector arithmetic, majors 0x23 to 0x26, by the odd major. -/
def decodeVecArith (t : Nat) (major : Nat) (op : VecOp) (funct : Nat) : Option Instr :=
  match major, funct with
  | 0x23, 0x00 => some (.vadd t op)
  | 0x23, 0x01 => some (.vsub t op)
  | 0x23, 0x02 => some (.vmul t op)
  | 0x23, 0x03 => some (.vmulh t op)
  | 0x23, 0x04 => some (.vmulhu t op)
  | 0x23, 0x05 => some (.vmin t op)
  | 0x23, 0x06 => some (.vmax t op)
  | 0x23, 0x07 => some (.vminu t op)
  | 0x23, 0x08 => some (.vmaxu t op)
  | 0x23, 0x09 => some (.vand t op)
  | 0x23, 0x0A => some (.vor t op)
  | 0x23, 0x0B => some (.vxor t op)
  | 0x23, 0x0C => some (.vsll t op)
  | 0x23, 0x0D => some (.vsrl t op)
  | 0x23, 0x0E => some (.vsra t op)
  | 0x23, 0x10 => some (.vsadd t op)
  | 0x23, 0x11 => some (.vsaddu t op)
  | 0x23, 0x12 => some (.vssub t op)
  | 0x23, 0x13 => some (.vssubu t op)
  | 0x23, 0x14 => some (.vsmulr t op)
  | 0x23, 0x15 => some (.vrsra t op)
  | 0x23, 0x16 => some (.vrsrl t op)
  | 0x23, 0x17 => some (.vnars t op)
  | 0x23, 0x18 => some (.vnaru t op)
  | 0x25, 0x00 => some (.vfadd t op)
  | 0x25, 0x01 => some (.vfsub t op)
  | 0x25, 0x02 => some (.vfmul t op)
  | 0x25, 0x03 => some (.vfma t op)
  | 0x25, 0x04 => some (.vfnms t op)
  | 0x25, 0x05 => some (.vfmin t op)
  | 0x25, 0x06 => some (.vfmax t op)
  | 0x25, 0x07 => some (.vfdiv t op)
  | 0x25, 0x08 => some (.vfsqrt t op)
  | _, _ => .none

/-- Compares, reductions, permutation and mask logic, majors 0x27 and 0x29 to 0x2B. -/
def decodeVecOther (t : Nat) (major : Nat) (op : VecOp) (funct : Nat) : Option Instr :=
  match major, funct with
  | 0x27, 0x00 => some (.vceq t op)
  | 0x27, 0x01 => some (.vcne t op)
  | 0x27, 0x02 => some (.vclt t op)
  | 0x27, 0x03 => some (.vcltu t op)
  | 0x27, 0x04 => some (.vcle t op)
  | 0x27, 0x05 => some (.vcleu t op)
  | 0x27, 0x08 => some (.vcfeq t op)
  | 0x27, 0x09 => some (.vcflt t op)
  | 0x27, 0x0A => some (.vcfle t op)
  | 0x27, 0x0B => some (.vcfun t op)
  | 0x29, 0x00 => some (.vrsum t op)
  | 0x29, 0x01 => some (.vrmax t op)
  | 0x29, 0x02 => some (.vrmin t op)
  | 0x29, 0x03 => some (.vrmaxu t op)
  | 0x29, 0x04 => some (.vrminu t op)
  | 0x29, 0x08 => some (.vrfsum t op)
  | 0x29, 0x09 => some (.vrfmax t op)
  | 0x29, 0x0A => some (.vrfmin t op)
  | 0x2A, 0x00 => some (.vmv t op)
  | 0x2A, 0x01 => some (.vbcast t op)
  | 0x2A, 0x02 => some (.vext t op)
  | 0x2A, 0x03 => some (.vins t op)
  | 0x2A, 0x04 => some (.vindex t op)
  | 0x2A, 0x05 => some (.vshdn t op)
  | 0x2A, 0x06 => some (.vshup t op)
  | 0x2A, 0x07 => some (.vrng t op)
  | 0x2B, 0x00 => some (.vmand t op)
  | 0x2B, 0x01 => some (.vmor t op)
  | 0x2B, 0x02 => some (.vmxor t op)
  | 0x2B, 0x03 => some (.vmandn t op)
  | 0x2B, 0x04 => some (.vmcount t op)
  | 0x2B, 0x05 => some (.vmlow t op)
  | _, _ => .none

/-- Majors 0x21 to 0x2F. -/
def decodeVector (t : Nat) (x : BitVec 32) : Option Instr :=
  let f := (bits x 0 7).toNat
  match (bits x 26 6).toNat with
  | 0x21 => if bits x 0 2 = 0 then some (.vld t (vmemFields (bits x 2 2) x)) else .none
  | 0x22 => if bits x 0 2 = 0 then some (.vst t (vmemFields (bits x 2 2) x)) else .none
  | 0x23 => decodeVecArith t 0x23 (vecFields 0 x) f
  | 0x24 => decodeVecArith t 0x23 (vecFields 1 x) f
  | 0x25 => decodeVecArith t 0x25 (vecFields 0 x) f
  | 0x26 => decodeVecArith t 0x25 (vecFields 1 x) f
  | 0x27 => decodeVecOther t 0x27 (vecFields 0 x) f
  | 0x28 =>
    if bits x 0 3 = 0 then
      some (.vcvt t { vd := fieldRd x, vs1 := fieldRs1 x, vs2 := fieldRs2 x, src := bits x 7 4, dst := bits x 3 4 })
    else .none
  | 0x29 => decodeVecOther t 0x29 (vecFields 0 x) f
  | 0x2A => decodeVecOther t 0x2A (vecFields 0 x) f
  | 0x2B => decodeVecOther t 0x2B (vecFields 0 x) f
  | 0x2F =>
    if fieldRs2 x = 0 ∧ bits x 7 2 = 0 ∧ bits x 0 7 = 0 then
      some (.setvc t (fieldRd x) (fieldRs1 x) (bits x 9 2))
    else .none
  | _ => .none

/-- Tile instructions: major 0x3F, by TOP (R189). -/
def decodeTile (t : Nat) (x y : BitVec 32) : Option Instr :=
  match (bits x 22 4).toNat with
  | 0 => if bits y 0 7 = 0 then some (.tmma t (tmmaFields x y)) else .none
  | 1 => if bits x 0 1 = 0 ∧ bits y 0 18 = 0 then some (.tld t (tileMemFields x y)) else .none
  | 2 => if bits x 0 1 = 0 ∧ bits y 0 18 = 0 then some (.tst t (tileMemFields x y)) else .none
  | 3 => if bits x 0 1 = 0 ∧ bits y 0 18 = 0 then some (.tlds t (tileMemFields x y)) else .none
  | 4 => if bits x 0 4 = 0 ∧ bits y 0 13 = 0 then some (.taccv t (tileMoveFields x y)) else .none
  | 5 => if bits x 0 4 = 0 ∧ bits y 0 13 = 0 then some (.tacct t (tileMoveFields x y)) else .none
  | 6 => if bits x 0 4 = 0 ∧ bits y 0 13 = 0 then some (.taccs t (tileMoveFields x y)) else .none
  | _ => .none

/-- The instruction of thread `t` that word `x`, with `y` at the next address, spells; none where the fields
spell no instruction (R101). -/
def decodeWords (t : Nat) (x y : BitVec 32) : Option Instr :=
  let major := (bits x 26 6).toNat
  if major = 0 then .none
  else if major ≤ 3 then decodeAlu t x
  else if major < 0x10 then decodeImm t x
  else if major = 0x10 then some (.load t (memFields x))
  else if major = 0x11 then some (.loadS t (memFields x))
  else if major = 0x12 then some (.store t (memFields x))
  else if major = 0x13 then decodeFence t x
  else if major = 0x14 then decodeAtomic t x
  else if major = 0x15 then decodeRed t x
  else if major = 0x16 then decodeVred t x
  else if major ≤ 0x20 then decodeControl t x
  else if major ≤ 0x2F then decodeVector t x
  else if major = 0x3F then decodeTile t x y
  else .none

end Sys2Proof.Machine
end

