-- ==== Sys2Proof/Machine/Ops.lean ====
section
/-! DEFINITION. Operations every instruction shares: registers and the load shadow (R111-R114), retirement and
the end check (R119), the return stack (R117), exception entry, escalation and return (R130-R143). -/

namespace Sys2Proof.Machine

/-- A command that changes only the module, never the key slots nor the queue. -/
def onModule (f : Module → Module) (s : State) : Host.Outcome State Fault Refusal := .next { s with m := f s.m }

/-! ## General registers and the load shadow -/

/-- The value a register holds; g0 reads as zero (R99). -/
def Thread.reg (th : Thread) (r : Reg) : Word := if r = 0 then 0 else Sparse.get 0 th.g r.toNat

/-- A register written; a write of g0 is discarded. -/
def Thread.putReg (th : Thread) (r : Reg) (v : Word) : Thread :=
  if r = 0 then th else { th with g := Sparse.set th.g r.toNat v }

/-- Data for the register is still outstanding. -/
def Thread.outstanding (th : Thread) (r : Reg) : Bool := r != 0 && th.loads.any fun p => p.rd == r && !p.dead

/-- What the next instruction reads from a register: the shadow gives the old value (R111); a register whose
data is outstanding makes the instruction wait. -/
def Thread.src (th : Thread) (r : Reg) : Option Word :=
  match th.latch with
  | some (l, old) => if r ≠ 0 ∧ r = l then some old else if th.outstanding r then .none else some (th.reg r)
  | .none => if th.outstanding r then .none else some (th.reg r)

/-- Whether an instruction may write a register now: the result of an atomic is awaited (R259). -/
def Thread.writable (th : Thread) (r : Reg) : Bool := !(th.loads.any fun p => p.rd == r && p.atomic && r != 0)

/-- An instruction's result: the data of an earlier load to the register is discarded (R112). -/
def Thread.result (th : Thread) (r : Reg) (v : Word) : Thread :=
  { th.putReg r v with loads := th.loads.map fun p => if p.rd = r ∧ r ≠ 0 ∧ !p.atomic then { p with dead := true } else p }

/-! ## Running threads -/

/-- Whether thread `t` runs and nothing it has raised or written stands before its next instruction (R124).
DESIGN CHOICE (log 1). -/
def runsNext (m : Module) (t : Nat) : Bool :=
  let th := threadAt m t
  alive m && t < 384 && th.run == .running && th.exc.isNone && th.aperture.isNone
    && !unitGated m (handleCore (t / 2))

/-- Whether thread `t` may issue its next instruction: no tile memory instruction holds its dispatch (R194). -/
def issuable (m : Module) (t : Nat) : Bool := runsNext m t && (threadAt m t).tile.hold.isNone

/-- The end check of an instruction whose last word is at `a` (R119): loops `n - 1` down to 0. -/
def endCheck (a : BitVec 48) : Nat → Thread → Thread × Option (BitVec 48)
  | 0, th => (th, .none)
  | n + 1, th =>
    if th.lstat.getLsbD n then
      if Sparse.get 0 th.le n = a then
        let c : BitVec 32 := Sparse.get 0 th.lc n - 1
        let th := { th with lc := Sparse.set th.lc n c }
        if c ≠ 0 then (th, some (Sparse.get 0 th.ls n))
        else endCheck a n { th with lstat := putBit th.lstat n false }
      else (th, .none)
    else endCheck a n th

/-- An instruction of `words` words retires without a transfer. The one after it stands behind its last word: R119's
pseudocode, which adds the whole size to the address of the last word, would skip one after a tile instruction.
DESIGN CHOICE (log 63, 67). -/
def retire (t words : Nat) (m : Module) : Module :=
  let th := threadAt m t
  let a := th.pc + BitVec.ofNat 48 (4 * (words - 1))
  let r := endCheck a 4 th
  let next := r.2.getD (a + 4)
  perf t 0x02 1 (setThread t { r.1 with pc := next, latch := .none } m)

/-- An instruction retires with a transfer to `target`; no end check is made. -/
def transfer (t : Nat) (target : BitVec 48) (m : Module) : Module :=
  perf t 0x0E 1 (perf t 0x02 1 (setThread t { threadAt m t with pc := target, latch := .none } m))

/-- An instruction raises an exception before it changes any state (R131). -/
def raiseExc (t cause fval : Nat) (m : Module) : Module :=
  let th := threadAt m t
  let e : Exc :=
    { cause := BitVec.ofNat 8 cause, fval := BitVec.ofNat 64 fval, rpc := th.pc, target := th.priv.level }
  setThread t { th with exc := some e } m

/-- An illegal instruction (R101): FVAL is its first word. -/
def illegal (t : Nat) (i : Instr) (m : Module) : Module := raiseExc t 0x01 (firstWord i) m

/-- A privileged instruction (R122). -/
def privileged (t : Nat) (i : Instr) (m : Module) : Module := raiseExc t 0x02 (firstWord i) m

/-- A translation fault of a thread (R252): it suspends behind its record, and while its escalation handler runs it is
wedged (R143). -/
def faultThread (t kind access element va : Nat) (pc : BitVec 48) (m : Module) : Module :=
  if (threadAt m t).priv.es.state.getLsbD 63 then suspendThread t .wedged 0x7F 0 0 va pc m
  else perf t 0x19 1 (suspendThread t .thread kind access element va pc m)

/-- Poisoned data that an access of a thread meets is an error of its core (R425). -/
def noteError (t : Nat) (s : Stop) (m : Module) : Module :=
  match s with
  | .poison _ pa => raiseError 3 0x21 (handleCore (t / 2)) pa 0 m
  | _ => m

/-- What an instruction whose access stopped does: nothing while it waits, a suspension on a translation fault
(R252), an exception, or cause 0x0B on poisoned data (R425). `m` is the module before it, `m'` after the part of the
access that was performed. -/
def settleStop (t element : Nat) (s : Stop) (m m' : Module) : Module :=
  match s with
  | .wait | .fetch _ _ _ _ | .miss _ _ _ | .register _ | .clean _ => s.asks m
  | .fault kind access va | .faultUnder _ kind access va => faultThread t kind access element va (threadAt m t).pc m'
  | .exc cause fval => raiseExc t cause fval m'
  | .poison va _ => noteError t s (raiseExc t 0x0B va m')
  | .host _ va => faultThread t 0x07 0 element va (threadAt m t).pc m'

/-- Run an instruction's access: `k` continues with its value. -/
def withAccess {α : Type} (t : Nat) (x : Acc α) (k : α → Module → Module) (m : Module) : Module :=
  match x.go m with
  | (.ok a, m') => k a m'
  | (.error s, m') => settleStop t 0 s m m'

/-- A command that is the next instruction of thread `t`. -/
def issue (t : Nat) (f : Thread → Module → Module) (s : State) : Host.Outcome State Fault Refusal :=
  onModule (fun m => if issuable m t then f (threadAt m t) m else m) s

/-- An instruction that writes `rd` with a value of its sources and retires. -/
def alu (t : Nat) (rd : Reg) (v : Thread → Option Word) (s : State) : Host.Outcome State Fault Refusal :=
  issue t (fun th m =>
    match v th with
    | .none => m
    | some x => if th.writable rd then retire t 1 (setThread t (th.result rd x) m) else m) s

/-- One source register. -/
def src1 (rs1 : Reg) (f : Word → Word) (th : Thread) : Option Word := (th.src rs1).map f

/-- Two source registers. -/
def src2 (rs1 rs2 : Reg) (f : Word → Word → Word) (th : Thread) : Option Word :=
  match th.src rs1, th.src rs2 with
  | some a, some b => some (f a b)
  | _, _ => .none

/-! ## Order within a thread -/

/-- Bytes of two ranges meet. -/
def meets (a n b k : Nat) : Bool := a < b + k && b < a + n

/-- A queued or issued tile memory instruction names these bytes of a place, so that the access waits for it
(R170, R199). DEDUCED (log 46). -/
def tileOwns (th : Thread) (p : Place) (n : Nat) : Bool :=
  let a := match p with
    | .mem a | .host a | .aperture a => a
    | .remote k a => (k + 1) * 2 ^ 40 + a
  th.tile.queue.any fun e => e.rows.any fun r => r.2.any fun q => meets a n q.1 q.2

/-- Whether a serializing instruction may go on: every earlier instruction has completed (R123). -/
def serialReady (m : Module) (t : Nat) : Bool := accessesDone m t && (threadAt m t).spills == 0

/-! ## The return stack (R116, R117) -/

def rsDepth (th : Thread) : Nat := th.rstack.length

/-- Push a return address; none where a fifth spill would be outstanding. DEDUCED (log 20). -/
def pushReturn (a : BitVec 48) (th : Thread) : Option (Thread × Bool) :=
  if th.cached ≥ 16 then
    if th.spills ≥ 4 then .none
    else some ({ th with rstack := a :: th.rstack, spills := th.spills + 1 }, true)
  else some ({ th with rstack := a :: th.rstack, cached := th.cached + 1 }, false)

/-- Address of return-stack entry `k` of a thread in memory (R242). -/
def returnSlot (t k : Nat) : Nat := reservedBase + 0x8000 * t + 8 * k

/-! ## Instruction fetch (R248, R253) -/

/-- Sets and ways of the instruction L1: 64 KiB in four ways (R253). -/
def l1iSets : Nat := 128
def l1iWays : Nat := 4

/-- The instruction L1 with a line brought in: a full set gives up its oldest. DEDUCED (log 25). -/
def l1iPlace (key : Nat) (l : List Nat) : List Nat :=
  let same := l.filter fun x => x / 128 % l1iSets == key / 128 % l1iSets
  key :: (if same.length < l1iWays then l else l.filter fun x => some x != same.getLast?)

/-- Empty the instruction L1 of a core. -/
def dropFetched (c : Nat) (m : Module) : Module := setCore c { coreAt m c with l1i := [] } m

/-- The fetch of an instruction word at `pc`, checked at a level; its line is brought into the instruction L1. -/
def fetchCheck (t level : Nat) (pc : BitVec 48) : Acc Unit := do
  let m ← get
  let ag : Agent := { threadAgent m t with level := level }
  let p ← resolve ag .fetch pc.toNat
  let c := t / 2
  let m ← get
  if (coreAt m c).l1i.contains (placeKey p) then pure ()
  else
    modify (perf t 0x07 1)
    let d ← asAccess 2 (lineRead (.line (.thread t)) pc.toNat p 0)
    match p with
    | .mem a | .remote _ a =>
      if touchesPoison d.2 (a % 128) 4 then stop (.poison pc.toNat a) else pure ()
    | _ => pure ()
    modify fun m => setCore c { coreAt m c with l1i := l1iPlace (placeKey p) (coreAt m c).l1i } m

/-! ## Exception entry (R134, R135) -/

/-- The latch as an exception set saves it. -/
def savedLatch (th : Thread) : BitVec 6 × Word :=
  match th.latch with
  | some (r, old) => (1#1 ++ r, old)
  | .none => (0, 0)

/-- A set as an entry leaves it: ppl, plstat, cause, value, return PC and latch. -/
def ExcSet.saved (x : ExcSet) (th : Thread) (why fval : Word) (rpc : BitVec 48) : ExcSet :=
  { x with
    rpc := rpc, why := why, fval := fval
    state := putBits (putBits x.state 5 4 th.priv.level.toNat) 11 8 th.lstat.toNat
    shreg := (savedLatch th).1, shval := (savedLatch th).2 }

/-- WHY of an entry. -/
def whyWord (int : Bool) (info cause : Nat) : Word :=
  BitVec.ofNat 64 ((if int then 2 ^ 63 else 0) + info * 65536 + cause)

/-- NI of SU_STATE (R139). -/
def Thread.ni (th : Thread) : Bool := th.priv.su.state.getLsbD 2

/-- Whether setting NI opens a window that ends in the same cycle (R141). -/
def Priv.endsAtOnce (p : Priv) : Bool := !p.su.state.getLsbD 2 && p.nilimit == 0

/-- Set NI, opening a window when it was closed (R135, R140); with NILIMIT 0 it ends at once (R139, R141). -/
def openWindow (p : Priv) : Priv :=
  if p.su.state.getLsbD 2 then p
  else if p.endsAtOnce then { p with nicount := 0, su := { p.su with state := putBit p.su.state 3 true } }
  else { p with nicount := p.nilimit, su := { p.su with state := putBit p.su.state 2 true } }

/-- The level an exception is taken at: supervisor is machine where SU_HBASE is 0 (R134). -/
def takenAt (th : Thread) (want : Nat) : Nat := if want = 1 ∧ th.priv.su.hbase = 0 then 2 else want

/-- Where a handler begins (R135). -/
def handlerOffset (int : Bool) (cause : Nat) : BitVec 48 := if int then 0x200 else if cause = 0x0A then 0x100 else 0

def handlerAt (th : Thread) (level : Nat) (int : Bool) (cause : Nat) : BitVec 48 :=
  (if level = 1 then th.priv.su.hbase else th.priv.ma.hbase) + handlerOffset int cause

/-- Entry of a cause into the supervisor or machine set (R135). -/
def enterSet (th : Thread) (level : Nat) (int : Bool) (cause info : Nat) (fval : Word) (rpc : BitVec 48) : Thread :=
  let why := whyWord int info cause
  let priv :=
    if level = 1 then openWindow { th.priv with su := th.priv.su.saved th why fval rpc }
    else { th.priv with ma := th.priv.ma.saved th why fval rpc }
  { th with
    run := .running, exc := .none, latch := .none, lstat := 0
    pc := handlerAt th level int cause
    priv := { priv with level := BitVec.ofNat 2 level } }

/-- Whether an imprecise log entry is reported by an entry at this point (R175). -/
def LogEntry.due (th : Thread) (atEnd : Bool) (e : LogEntry) : Bool :=
  !e.rep && (e.level == th.priv.level || atEnd)

/-- Entry of cause 0x0C marks what it reports (R175). -/
def markReported (th : Thread) (cause : Nat) (atEnd : Bool) : Thread :=
  if cause = 0x0C then
    let log := th.vec.log.map fun x => if x.due th atEnd then { x with rep := true } else x
    { th with vec := { th.vec with lpend := false, log := log } }
  else th

/-- A fault on fetching the handler escalates (R142). -/
def escalate (th : Thread) (target cause : Nat) (rpc : BitVec 48) (addr : Nat) : Thread :=
  let es := th.priv.es.saved th (BitVec.ofNat 64 (target * 2 ^ 24 + cause * 2 ^ 16 + 0x80)) (BitVec.ofNat 64 addr) rpc
  { th with
    run := .running, exc := .none, latch := .none, lstat := 0
    pc := es.hbase
    g := Sparse.set th.g 31 th.priv.es.spare
    priv := { th.priv with
      level := 2, esG31 := th.reg 31, esLocked := true
      es := { es with state := putBit es.state 63 true } } }

/-- Firmware's service of a TRAP from supervisor or machine level, and its return (R144). DESIGN CHOICE (log 64). -/
def serviceTrap (th : Thread) (num : Nat) (rpc : BitVec 48) (revision : Nat) (cur : BitVec 2) (lstat : BitVec 4) : Thread :=
  let th := if num = 0 then (th.putReg 1 (BitVec.ofNat 64 revision)).putReg 2 0 else th.putReg 1 (BitVec.allOnes 64)
  { th with pc := rpc, lstat := lstat, priv := { th.priv with level := cur } }

/-- Version of the running firmware. -/
def firmwareRevision (m : Module) : Nat := m.board.running.toNat

/-- The address a stopped fetch faulted at. -/
def stopAddress (s : Stop) (pc : BitVec 48) : Nat :=
  match s with
  | .fault _ _ va | .exc _ va | .poison va _ => va
  | _ => pc.toNat

/-- Whether entry must still wait: for scalar loads and vector elements (R114, R135, R175). -/
def entryWaits (th : Thread) : Bool := th.loads.any (fun p => !p.atomic) || !th.vec.pending.isEmpty

/-- Exception or interrupt entry (R134, R135, R137, R142-R144). -/
def enter (t : Nat) (e : Exc) (int : Bool) (m : Module) : Module :=
  let th := threadAt m t
  let cause := e.cause.toNat
  if entryWaits th then m
  else if th.priv.es.state.getLsbD 63 && cause ≠ 0x0A && !int then
    -- a fault while the escalation handler runs wedges the thread (R143); VADDR is its FVAL, DESIGN CHOICE (log 67)
    suspendThread t .wedged 0x7F 0 0 e.fval.toNat e.rpc (setThread t { th with exc := .none } m)
  else
    let want := Nat.max 1 e.target.toNat
    let level := takenAt th want
    match (fetchCheck t level (handlerAt th level int cause)).go m with
    | (.ok _, m) =>
      let th := markReported (threadAt m t) cause e.atEnd
      let th' := enterSet th level int cause e.info.toNat e.fval e.rpc
      let m := perf t (if int then 0x17 else 0x16) 1 (setThread t th' m)
      let m := if level = 1 ∧ th.priv.endsAtOnce then perf t 0x18 1 m else m
      if level = 2 ∧ want = 1 then
        -- machine-level firmware forwards it to the host (R137)
        suspendThread t .forwarded (0x40 + cause) 0 0 e.fval.toNat e.rpc m
      else if level = 2 ∧ cause = 0x0A then
        setThread t (serviceTrap th' e.info.toNat e.rpc (firmwareRevision m) th.priv.level th.lstat) m
      else m
    | (.error s, m') =>
      let m₀ := m
      let m' := noteError t s m'
      let th := threadAt m' t
      if s.waits then s.asks m₀
      else if th.priv.es.state.getLsbD 63 then
        suspendThread t .wedged 0x7F 0 0 (stopAddress s th.pc) e.rpc (setThread t { th with exc := .none } m')
      else
        let addr := stopAddress s (handlerAt th level int cause)
        let esc := escalate (markReported th cause e.atEnd) level cause e.rpc addr
        match (fetchCheck t 2 esc.pc).go (setThread t esc m') with
        | (.ok _, m) => suspendThread t .forwarded (0x40 + cause) 0 0 addr e.rpc m
        | (.error s, m) =>
          if s.waits then s.asks m₀
          else suspendThread t .wedged 0x7F 0 0 (stopAddress s esc.pc) esc.pc (noteError t s m)

/-! ## Return (R138) -/

/-- The set an RFX returns from. -/
def returnSet (th : Thread) : ExcSet :=
  if th.priv.level = 2 then (if th.priv.es.state.getLsbD 63 then th.priv.es else th.priv.ma) else th.priv.su

/-- Whether the return is refused by the privilege check. -/
def returnRefused (th : Thread) : Bool :=
  let t := bitsOf (returnSet th).state 5 4
  t == 3 || (th.priv.level == 1 && t == 2)

/-- The thread after an RFX that the check allows. -/
def returned (th : Thread) : Thread :=
  let set := returnSet th
  let level := bitsOf set.state 5 4
  let fromEs := th.priv.level == 2 && th.priv.es.state.getLsbD 63
  { th with
    pc := set.rpc, lstat := BitVec.ofNat 4 (bitsOf set.state 11 8)
    latch := if set.shreg.getLsbD 5 then some (BitVec.ofNat 5 set.shreg.toNat, set.shval) else .none
    g := if fromEs then Sparse.set th.g 31 th.priv.esG31 else th.g
    priv := { th.priv with
      level := BitVec.ofNat 2 level
      es := if fromEs then { th.priv.es with state := putBit th.priv.es.state 63 false } else th.priv.es
      su := if level = 0 then { th.priv.su with state := putBit th.priv.su.state 2 false } else th.priv.su } }

/-! ## Interruptible boundaries (R132, R133) -/

/-- Whether thread `t` is at an interruptible boundary. DESIGN CHOICE (log 62). -/
def atBoundary (m : Module) (t : Nat) : Bool :=
  let th := threadAt m t
  (match th.run with
    | .running | .waiting => true
    | _ => false)
  && th.exc.isNone && th.latch.isNone && th.priv.level != 2 && !(th.ni && th.priv.level == 1)

/-- The event line of a core (R149). -/
def eventLine (m : Module) (c : Nat) : Bool :=
  let e := eventsOf m (c / 48)
  (List.range 384).any fun s =>
    e.pend.getLsbD s && e.en.getLsbD s && !e.held.getLsbD s
      && (Sparse.get 0 e.mask s : BitVec 48).getLsbD (c % 48)

/-- An external event the thread accepts is pending. -/
def eventAccepted (m : Module) (t : Nat) : Bool :=
  let th := threadAt m t
  eventLine m (t / 2) && th.priv.su.state.getLsbD 0 && th.priv.su.hbase != 0

/-- The timer condition of R145. -/
def timerDue (m : Module) (t : Nat) : Bool :=
  let th := threadAt m t
  th.priv.su.state.getLsbD 1 && th.priv.talarm ≤ m.time

end Sys2Proof.Machine
end

