-- ==== Sys2Proof/Machine/Rng.lean ====
section
/-! DEFINITION. The lane generators: one step and the seeding (R178, R179). -/

namespace Sys2Proof.Machine

/-- One step of a generator and its draw (R178). -/
def Gen.step (g : Gen) : Gen × Word :=
  let s1 := g.a ^^^ (g.a <<< 23)
  let b := s1 ^^^ g.b ^^^ (s1 >>> 17) ^^^ (g.b >>> 26)
  ({ a := g.b, b := b }, b + g.b)

/-- The mixing function of R179: the next x and its output. -/
def mixSeed (x : Word) : Word × Word :=
  let x := x + 0x9E3779B97F4A7C15
  let z := (x ^^^ (x >>> 30)) * 0xBF58476D1CE4E5B9
  let z := (z ^^^ (z >>> 27)) * 0x94D049BB133111EB
  (x, z ^^^ (z >>> 31))

/-- The generator of identity `id` under a seed (R179). -/
def Gen.seed (seed : Word) (id : Nat) : Gen :=
  let p := mixSeed (seed ^^^ (BitVec.ofNat 64 id <<< 32))
  let q := mixSeed p.1
  { a := p.2, b := if p.2 = 0 ∧ q.2 = 0 then 1 else q.2 }

end Sys2Proof.Machine
end

