-- ==== Sys2Proof/Machine/Arbiter.lean ====
section
/-! DEFINITION. The sluice arbiter: an arbiter cycle, its two phases, commits, and the flit a way egress fills
(R298-R309, R382). -/

namespace Sys2Proof.Machine

open Host

/-! ## Sites and settings (R298, R309, R382)

Instance numbers: channel `c` of Basin stack `s` is `32 s + c`, channel `h` of controller `p` is `256 + 4 p + h`, and
way `w` is `320 + w`. -/

/-- The handle of the unit an instance stands in, where that unit is present. -/
def arbUnit (m : Module) (a : Nat) : Option Nat :=
  if a < 256 then (if stackPresent m.board.part (a / 32) then some (handleStack (a / 32)) else .none)
  else if a < 320 then some (handleController ((a - 256) / 4))
  else if wayPresent m.board.part (a - 320) then some (handleWay (a - 320))
  else .none

/-- Requesters a site lists. DEDUCED (log 60). -/
def arbListed (a q : Nat) : Bool :=
  if a < 256 then q < 7 else if a < 320 then q < 5 else q < 8

/-- The settings of a requester after reset. -/
def arbDefault (a q : Nat) : Requester :=
  let p : Nat × Nat :=
    if a < 256 then (if q = 0 then (2, 512) else if q < 6 then (1, 0) else (0, 0))
    else if a < 320 then (if q < 4 then (1, 0) else (0, 0))
    else if q = 3 ∨ q = 7 then (3, 16) else if q = 0 ∨ q = 2 then (1, 0) else (2, 0)
  { shadowPrio := BitVec.ofNat 2 p.1, shadowQuota := BitVec.ofNat 11 p.2
    prio := BitVec.ofNat 2 p.1, quota := BitVec.ofNat 11 p.2 }

def arbAt (m : Module) (a : Nat) : Arbiter := Sparse.get {} m.arbs a
def setArb (a : Nat) (x : Arbiter) (m : Module) : Module := { m with arbs := Sparse.set m.arbs a x }

/-- A requester of an instance. -/
def Arbiter.req (x : Arbiter) (a q : Nat) : Requester := Sparse.get (arbDefault a q) x.reqs q
def Arbiter.setReq (x : Arbiter) (q : Nat) (r : Requester) : Arbiter := { x with reqs := Sparse.set x.reqs q r }

/-- The requesters a site lists, in number order. -/
def arbRequesters (a : Nat) : List Nat := (List.range 8).filter (arbListed a)

/-- Apply a change to every listed requester. -/
def Arbiter.each (x : Arbiter) (a : Nat) (f : Nat → Requester → Requester) : Arbiter :=
  (arbRequesters a).foldl (fun x q => x.setReq q (f q (x.req a q))) x

/-! ## Choosing the winner (R301) -/

/-- Tier of a requester. -/
def Requester.tier (r : Requester) : Nat :=
  if r.age ≥ 1024 then 0
  else if r.quota ≠ 0 && r.used ≥ r.quota.toNat then 3
  else if r.left > 0 then 2
  else 1

/-- A transfer is pending: it has beats that no grant has named, and the next data phase could move one. -/
def Requester.pending (r : Requester) : Bool := r.transfer.isSome && !r.blocked

/-- Requesters with a transfer pending. -/
def Arbiter.pendingReqs (x : Arbiter) (a : Nat) : List Nat :=
  (arbRequesters a).filter fun q => (x.req a q).pending

/-- Those of the lowest tier present, then of the highest PRIO among them. -/
def Arbiter.best (x : Arbiter) (a : Nat) (l : List Nat) : List Nat :=
  let tier := l.foldl (fun b q => Nat.min b (x.req a q).tier) 3
  let l := l.filter fun q => (x.req a q).tier == tier
  let prio := l.foldl (fun b q => Nat.max b (x.req a q).prio.toNat) 0
  l.filter fun q => (x.req a q).prio.toNat == prio

/-- The first of `l` after number `last`, ascending, wrapping from 7 to 0. -/
def firstAfter (last : Nat) (l : List Nat) : Option Nat :=
  ((List.range 8).map fun i => (last + 1 + i) % 8).find? l.contains

/-- The owner of this cycle's data phase, when the transfer it moved a beat of has beats left (R300): one that has become
pending since has moved none. -/
def Arbiter.holder (x : Arbiter) (a : Nat) : Option Nat :=
  match x.owner with
  | some q =>
    match (x.req a q).transfer with
    | some (_, done) => if done = 0 then .none else some q
    | .none => .none
  | .none => .none

/-- The winner among the pending requesters `l` (R301). -/
def Arbiter.choose (x : Arbiter) (a : Nat) (l : List Nat) : Option Nat :=
  let best := x.best a l
  let turn : Option Nat := match best with
    | [] => .none
    | q :: _ => firstAfter (Sparse.get 7 x.rr (x.req a q).prio.toNat) best
  match x.holder a with
  | some h => if best.contains h || (x.hold && l.contains h) then some h else turn
  | .none => turn

/-- The pending requesters in the order R301 ranks them. -/
def Arbiter.ranked (x : Arbiter) (a : Nat) : Nat → List Nat → List Nat
  | 0, _ => []
  | n + 1, l =>
    match x.choose a l with
    | some q => q :: x.ranked a n (l.filter fun k => k != q)
    | .none => []

/-! ## Commit (R306-R308) -/

/-- Requesters that have entered tier 3 between two views of an instance (R304). -/
def maskings (a : Nat) (x y : Arbiter) : Nat :=
  ((arbRequesters a).filter fun q => (x.req a q).tier != 3 && (y.req a q).tier == 3).length

/-- The copy of a pending commit, at the start of a phase. -/
def Arbiter.applyCommit (x : Arbiter) (a : Nat) : Arbiter :=
  match x.commit with
  | .none => x
  | some rst =>
    let y := x.each a fun _ r =>
      { r with prio := r.shadowPrio, quota := r.shadowQuota, used := if rst then 0 else r.used }
    { y with commit := .none, window := if rst then 0 else y.window, hold := (x.holder a).isSome }

/-! ## The arbitration phase (R301-R305) -/

/-- AGE, BACKOFF and LEFT of one requester at the end of a phase that `won` granted (R303, R305). -/
def Requester.afterPhase (r : Requester) (won : Bool) : Requester :=
  if won then { r with age := 0, backoff := 4, left := 0, used := Nat.min (r.used + 1) 1024 }
  else
    let s := { r with age := if r.pending then Nat.min (r.age + 1) 1024 else r.age }
    if r.pending && r.tier == 1 then
      { s with left := r.backoff, backoff := Nat.min (2 * r.backoff) 4096 }
    else { s with left := r.left - 1 }

/-- A draw of Squall's generator: its probability field and its delay field (R435). DESIGN CHOICE (log 61). -/
def squallDraw (m : Module) : (Nat × Nat) × Module :=
  let r := m.squall.gen.step
  ((bitsOf r.2 63 56, bitsOf r.2 55 40), { m with squall := { m.squall with gen := r.1 } })

/-- Squall's grant knob: a pending requester of tiers 1 and 2 in place of the winner; which one is a free value
(R436, log 4). -/
def squallGrant (a : Nat) (x : Arbiter) (winner : Nat) (m : Module) : Nat × Module :=
  let l := (x.pendingReqs a).filter fun q => (x.req a q).tier == 1 || (x.req a q).tier == 2
  let aged := (x.pendingReqs a).any fun q => (x.req a q).tier == 0
  if !knob m 1 || aged || (x.hold && (x.holder a).isSome) then (winner, m)
  else
    let d := squallDraw m
    if l.isEmpty || d.1.1 ≥ squallByte d.2 44 1 then (winner, d.2)
    else
      let f := takeFree 16 d.2
      (l.getD (f.1.toNat % l.length) winner, count .squall 0 1 1 f.2)

/-- The window counter at the end of a cycle: at its wrap every USED becomes 0 (R304). -/
def Arbiter.endWindow (x : Arbiter) (a : Nat) : Arbiter :=
  if x.window ≥ 1023 then { x.each a (fun _ r => { r with used := 0 }) with window := 0 }
  else { x with window := x.window + 1 }

/-- The arbitration phase, and the end of its cycle: the owner of the next data phase is chosen (R300-R305, R308). -/
def arbitrate (a : Nat) (m : Module) : Module :=
  let x0 := arbAt m a
  let x := x0.applyCommit a
  let m := count .arb a 2 (maskings a x0 x) m
  let l := x.pendingReqs a
  match x.choose a l with
  | .none =>
    let y := x.each a fun _ r => r.afterPhase false
    -- a held transfer that cannot move keeps the resource (R308)
    let held := x.hold && (x.holder a).isSome
    count .arb a 5 1 (setArb a (Arbiter.endWindow { y with owner := if held then y.owner else .none, hold := held } a) m)
  | some w =>
    let g := squallGrant a x w m
    let w := g.1
    let m := g.2
    let h := x.holder a
    let losses := (l.filter fun q => q != w && (x.req a q).tier == 1).length
    let agings := (l.filter fun q => q != w && (x.req a q).age == 1023).length
    let y := x.each a fun q r => r.afterPhase (q == w)
    let rr := if h == some w then y.rr else Sparse.set y.rr (x.req a w).prio.toNat w
    let y := Arbiter.endWindow { y with owner := some w, rr := rr, hold := x.hold && h == some w } a
    let m := setArb a y (count .arb a 2 (maskings a x y) m)
    let m := if h.isSome && h != some w then count .arb a 1 1 m else m
    count .arb a 4 agings (count .arb a 3 losses (count .arb a 0 1 m))

/-! ## Data phases -/

/-- The data phase of a memory channel: one beat of the owner moves (R299, R302). -/
def moveBeat (a : Nat) (x : Arbiter) : Arbiter :=
  match x.owner with
  | .none => x
  | some q =>
    let r := x.req a q
    match r.transfer with
    | some (len, done) =>
      x.setReq q { r with transfer := if done + 1 ≥ len then .none else some (len, done + 1) }
    | .none => x

/-- The channel whose arbiter an instance is. -/
def arbChannel (a : Nat) : Nat := if a < 256 then 64 + a else a - 256

/-- Accesses of a requester of a channel that wait for their transfer (R298). -/
def transfersWaiting (m : Module) (a q : Nat) : Nat :=
  if a < 320 then Sparse.get 0 (dramAt m (arbChannel a)).transfers q else 0

/-- Beats of a transfer: the spec gives 1 to 16 and no number, which the command names or a free value is. DESIGN CHOICE
(log 14). -/
def transferBeats (lengths : List (Nat × Nat)) (q : Nat) (m : Module) : Nat × Module :=
  match lengths.find? fun t => t.1 == q && 1 ≤ t.2 && t.2 ≤ 16 with
  | some t => (t.2, m)
  | .none =>
    let f := takeFree 4 m
    (f.1.toNat + 1, f.2)

/-- The next access of a requester that waits has its transfer pending, one for each requester (R299). -/
def startTransfer (a : Nat) (lengths : List (Nat × Nat)) (m : Module) (q : Nat) : Module :=
  let r := (arbAt m a).req a q
  let n := transfersWaiting m a q
  if r.transfer.isSome || n = 0 then m
  else
    let b := transferBeats lengths q m
    let d := dramAt b.2 (arbChannel a)
    setArb a ((arbAt b.2 a).setReq q { r with transfer := some (b.1, 0) })
      (setDram (arbChannel a) { d with transfers := Sparse.set d.transfers q (n - 1) } b.2)

/-! ## The flit of a way egress (R366-R370, R382) -/

/-- Receive buffer of a virtual channel, in slots (R369). -/
def vcSlots (vc : Nat) : Nat := if vc < 2 then 2048 else if vc = 2 then 4096 else 256

/-- Credits held for a virtual channel of a way (R370). -/
def Way.credit (y : Way) (vc : Nat) : Nat := Sparse.get (vcSlots vc) y.credits vc

/-- Whether a queued message meets R370 with `have_` credits. -/
def Queued.meets (q : Queued) (have_ : Nat) : Bool := q.msg.size + (if q.continues then 0 else 17) ≤ have_

/-- The first message of requester `q` of a way egress meets R370 (R365, R382). -/
def wayReady (m : Module) (w q : Nat) : Bool :=
  let y := wayAt m w
  m.fabric.valid && y.up &&
    (match Sparse.get [] y.queues q with
    | k :: _ => k.meets (y.credit (q % 4))
    | [] => false)

/-- Whether requester `q` of a way egress is pending: its first message meets R370, the retry buffer has room and
a port is ACTIVE (R365, R367, R382). -/
def wayPending (m : Module) (w q : Nat) : Bool := wayReady m w q && (wayAt m w).retry.length < 1024

/-- Messages of one queue that fit `slots` slots and `have_` credits, whole and in order, and what stays. -/
def fillFrom (slots have_ : Nat) : List Queued → List Queued × List Queued
  | [] => ([], [])
  | k :: ks =>
    if k.msg.size ≤ slots && k.meets have_ then
      let r := fillFrom (slots - k.msg.size) (have_ - k.msg.size) ks
      (k :: r.1, r.2)
    else ([], k :: ks)

/-- Fill a flit from the requesters of `order`. -/
def fillFlit (w : Nat) : List Nat → Nat → Module → List Queued × Module
  | [], _, m => ([], m)
  | q :: qs, slots, m =>
    let y := wayAt m w
    let r := fillFrom slots (y.credit (q % 4)) (Sparse.get [] y.queues q)
    let used := (r.1.map fun k => k.msg.size).foldl (· + ·) 0
    let m := setWay w { y with
      queues := Sparse.set y.queues q r.2, credits := Sparse.set y.credits (q % 4) (y.credit (q % 4) - used) } m
    let s := fillFlit w qs (slots - used) m
    (r.1 ++ s.1, s.2)

/-- The credit returns a flit carries, for each VC in 12 bits; Squall may hold them back (R366, R367, R436). -/
def returnCredits (w : Nat) (m : Module) : List Nat × Module :=
  let y := wayAt m w
  let clear (m : Module) : List Nat × Module :=
    ((List.range 4).map fun v => Nat.min 4095 (Sparse.get 0 y.freed v),
      setWay w { wayAt m w with
        freed := (y.freed.map fun p => (p.1, p.2 - 4095)).filter (fun p => p.2 != 0), heldBack := 0 } m)
  if y.freed.all fun p => p.2 == 0 then ([], m)
  else if y.heldBack > 1 then ([], setWay w { y with heldBack := y.heldBack - 1 } m)
  else if y.heldBack = 1 then clear m
  else if knob m 2 then
    let d := squallDraw m
    if d.1.1 < squallByte m 45 1 then
      ([], count .squall 0 2 1 (setWay w { y with heldBack := d.1.2 % (squallByte m 46 2 % 1024) + 1 } d.2))
    else clear d.2
  else clear m

/-- A flit goes out on a port, with the current ACK and the credit returns (R367). DEDUCED (log 48). -/
def putFlit (w port : Nat) (kind : BitVec 2) (seq : BitVec 16) (msgs : List Msg) (m : Module) : Module :=
  let r := returnCredits w m
  let y := wayAt r.2 w
  let f : Flit := { kind := kind, seq := seq, ack := y.ack, returns := r.1, msgs := msgs }
  setWay w { y with wire := y.wire ++ [(port, f)] } r.2

/-- A way begins to send. -/
def clearWire (w : Nat) (m : Module) : Module := setWay w { wayAt m w with wire := [] } m

/-- A data flit takes the next number, and is held for retry (R367). -/
def sendData (w port : Nat) (msgs : List Msg) (m : Module) : Module :=
  let y := wayAt m w
  let s : Sent := { seq := y.seq, msgs := msgs, port := port }
  let m := setWay w { y with
    seq := y.seq + 1, retry := y.retry ++ [s]
    retrySince := if y.retry.isEmpty then m.time else y.retrySince } m
  count .way w 0 1 (putFlit w port 0 s.seq msgs m)

/-- The LINK message of a port (R365). -/
def linkMsg (m : Module) (w i : Nat) : Msg :=
  let f := m.fabric
  { type := 0x38, dst := (wayAt m w).neigh, src := f.node
    payload := bytesOf 16 (Config.linkSlot f.node f.valid w i f.nx f.ny).toNat }

/-- LINK goes out on a port: in HANDSHAKE before the way numbers its flits, and on an up way in a data flit of its own.
DESIGN CHOICE (log 68). DEDUCED (log 49). -/
def sendLink (w : Nat) (m : Module) (i : Nat) : Module :=
  let y := wayAt m w
  let p : Port := Sparse.get {} y.ports i
  let x := linkMsg m w i
  if !p.linkDue then m
  else if p.state = .handshake then putFlit w i 0 0 [x] m
  else if p.matched && y.up && y.retry.length < 1024 && y.credit 3 ≥ x.size + 17 then
    let y := { y with
      ports := Sparse.set y.ports i { p with linkDue := false }, credits := Sparse.set y.credits 3 (y.credit 3 - x.size) }
    sendData w i [x] (setWay w y m)
  else m

/-- The ports of a way that carry flits, in number order. -/
def activePorts (y : Way) : List Nat :=
  (List.range 4).filter fun i => (Sparse.get {} y.ports i).matched

/-- A port with no data flit to send sends an idle one (R367). -/
def sendIdle (w : Nat) (m : Module) (port : Nat) : Module := putFlit w port 1 0 [] m

/-- The data flit of a way egress: messages of the owner and, in the slots left over, of the other pending requesters. Data
flits take the ACTIVE ports in turn (log 13); the port taken is answered. -/
def sendMessages (w q : Nat) (m : Module) : Nat × Module :=
  let a := 320 + w
  let x := arbAt m a
  let others := (arbRequesters a).filter fun k => k != q && wayPending m w k
  let f := fillFlit w (q :: x.ranked a 8 others) 63 m
  let m := f.1.foldl (fun m k => k.release m) f.2
  let y := wayAt m w
  let ports := activePorts y
  let port := ports.getD (y.seq.toNat % ports.length) 0
  let r := x.req a q
  let r := { r with transfer := match r.transfer with
    | some (_, k) => if k + 1 ≥ 16 then .none else some (16, k + 1)
    | .none => .none }
  (port, setArb a (x.setReq q r) (sendData w port (f.1.map fun k => k.msg) m))

/-- The data phase of a way egress: LINK messages that are due, a data flit of the owner, and idle flits. -/
def sendFlit (w : Nat) (m : Module) : Module :=
  let m := (List.range 4).foldl (sendLink w) (clearWire w m)
  let r : Option Nat × Module := match (arbAt m (320 + w)).owner with
    | some q => if wayPending m w q then (let s := sendMessages w q m; (some s.1, s.2)) else (.none, m)
    | .none => (.none, m)
  ((activePorts (wayAt r.2 w)).filter fun i => some i != r.1).foldl (sendIdle w) r.2

/-- Each requester of a way egress with a message that meets R370 has a transfer, which a full retry buffer blocks
(R367, R382). -/
def wayTransfers (w : Nat) (m : Module) : Module :=
  let a := 320 + w
  let x := arbAt m a
  let x := x.each a fun q r =>
    { r with
      transfer := if wayReady m w q then some (r.transfer.getD (16, 0)) else .none
      blocked := !wayPending m w q }
  setArb a x m

/-- The data phase of an instance, and the transfers pending after it. -/
def dataPhase (a : Nat) (lengths : List (Nat × Nat)) (m : Module) : Module :=
  if a < 320 then (arbRequesters a).foldl (startTransfer a lengths) (setArb a (moveBeat a (arbAt m a)) m)
  else wayTransfers (a - 320) (sendFlit (a - 320) m)

/-- Whether the registers of an instance can be written: its unit is present and not gated. -/
def arbReached (m : Module) (a : Nat) : Bool :=
  a < 324 && (match arbUnit m a with
    | some h => !unitGated m h
    | .none => false)

/-- Whether an instance has its clock: the DRAM channels of a gated stack keep running (R410). -/
def arbClocked (m : Module) (a : Nat) : Bool := arbReached m a || (a < 256 && (arbUnit m a).isSome)

/-- Whether an instance runs: it has its clock, and the module is alive. -/
def arbRuns (m : Module) (a : Nat) : Bool := alive m && arbClocked m a

/-- One arbiter cycle (R300). -/
def arbCycle (a : Nat) (lengths : List (Nat × Nat)) (m : Module) : Module :=
  arbitrate a (dataPhase a lengths m)

/-! ## Commands -/

/-- ARBITER_CYCLE: a beat of the current owner moves and the next owner is chosen (R300-R305). -/
def execArbiterCycle (a : Nat) (lengths : List (Nat × Nat)) (s : State) : Outcome State Fault Refusal :=
  onModule (fun m => if arbRuns m a then arbCycle a lengths m else m) s

/-- Whether the coming phase makes some AGE reach 1,024. -/
def agingDue (a : Nat) (m : Module) : Bool :=
  let y := arbAt (arbCycle a [] m) a
  (arbRequesters a).any fun q => ((arbAt m a).req a q).age == 1023 && (y.req a q).age == 1024

/-- AGING: the arbiter cycle in which a requester's AGE reaches 1,024 (R303, log 14). -/
def execAging (a : Nat) (s : State) : Outcome State Fault Refusal :=
  onModule (fun m => if arbRuns m a && agingDue a m then arbCycle a [] m else m) s

/-- QUOTA_WINDOW_WRAP: the arbiter cycle at whose end the window counter wraps (R304, log 14). -/
def execQuotaWindowWrap (a : Nat) (s : State) : Outcome State Fault Refusal :=
  onModule (fun m => if arbRuns m a && (arbAt m a).window == 1023 then arbCycle a [] m else m) s

/-- A write of ARB_COMMIT (R306). -/
def writeArbCommit (a : Nat) (v : Nat) (m : Module) : Module :=
  let x := arbAt m a
  if natBit v 0 then setArb a { x with commit := some (natBit v 1 || x.commit.getD false) } m else m

/-- ARB_COMMIT: a write requests the copy of the shadow settings, and one in a gated unit's window touches it
(R306, R412). -/
def execArbCommit (a : Nat) (value : BitVec 32) (s : State) : Outcome State Fault Refusal :=
  onModule (fun m =>
    match arbUnit m a with
    | some h =>
      if a ≥ 324 then m
      else if unitGated m h then touchGated h m
      else writeArbCommit a value.toNat m
    | .none => m) s

/-- COMMIT_APPLY: the first arbitration phase after the write arrived (R306-R308, log 14). -/
def execCommitApply (a : Nat) (s : State) : Outcome State Fault Refusal :=
  onModule (fun m => if arbRuns m a && (arbAt m a).commit.isSome then arbCycle a [] m else m) s

end Sys2Proof.Machine
end

