-- ==== Sys2Proof/Machine/Flags.lean ====
section
/-! DEFINITION. Flag computations: VFLAGS (R153, R224) and the sticky flags of the array halves (R210). -/

namespace Sys2Proof.Machine

/-- Sticky flags joined into VFLAGS. -/
def Thread.addFlags (th : Thread) (f : Fp.Flags) : Thread :=
  { th with vec := { th.vec with flags := th.vec.flags ||| f } }

/-- The flags an integer saturation sets (R160). -/
def satFlag (clamped : Bool) : Fp.Flags := if clamped then Fp.fSAT else 0

/-- Array flags as bits 3-0: NV, OF, NF, IW (R210). -/
abbrev ArrFlags := BitVec 4
def aNV : ArrFlags := 8
def aOF : ArrFlags := 4
def aNF : ArrFlags := 2
def aIW : ArrFlags := 1

/-- Sticky flags of half `h` of array `a` joined into TFLAGS: bits 8 a + 4 h to 8 a + 4 h + 3. -/
def joinArray (a h : Nat) (f : ArrFlags) (x : BitVec 32) : BitVec 32 := x ||| (f.setWidth 32 <<< (8 * a + 4 * h))

/-- What the flags of a conversion set at an array half: NV and OF; IW instead for an integer clamp. -/
def moveFlags (integer : Bool) (f : Fp.Flags) : ArrFlags :=
  if integer then (if f &&& Fp.fNV ≠ 0 then aIW else 0)
  else (if f &&& Fp.fNV ≠ 0 then aNV else 0) ||| (if f &&& (Fp.fOF ||| Fp.fSAT) ≠ 0 then aOF else 0)

end Sys2Proof.Machine
end

