-- ==== Sys2Proof/Machine/Operands.lean ====
section
/-! DEFINITION. Operand forms: the addresses of form M (R106-R108, R115), elements of vector registers and their
active sets (R154-R157), the element addresses of form VM (R169), and lane draws (R180). -/

namespace Sys2Proof

open Machine

/-- Bytes a form M instruction accesses. -/
def MemOp.bytes (o : MemOp) : Nat := 2 ^ o.size.toNat

/-- Register of the scaled index: bits 9:5 of the displacement field. -/
def MemOp.ri (o : MemOp) : Reg := BitVec.ofNat 5 (bitsOf o.disp 9 5)

/-- The displacement in bytes, sign-extended, and as the pre-decrement uses it. -/
def MemOp.step (o : MemOp) : Word := o.disp.signExtend 64 <<< o.size.toNat

def MemOp.down (o : MemOp) : Word := o.disp.setWidth 64 <<< o.size.toNat

/-- Bits 4:0 of a scaled index are zero (R101, R106). -/
def MemOp.wellFormed (o : MemOp) : Bool := o.mode != 3 || bitsOf o.disp 4 0 == 0

/-- The mode updates the base. -/
def MemOp.updates (o : MemOp) : Bool := o.mode == 1 || o.mode == 2

def VMemOp.bytes (o : VMemOp) : Nat := 2 ^ o.size.toNat

/-- Width of the index elements, 0 where there are none. -/
def VMemOp.indexWidth (o : VMemOp) : Nat := if o.mode = 2 then (if o.ix = 1 then 64 else 32) else 0

/-- W of R155: data and index. -/
def VMemOp.width (o : VMemOp) : Nat := Nat.max (8 * o.bytes) o.indexWidth

/-- The fields mode 0b11, IX, SC and field 15:11 allow; `load` adds the rule of an indexed load. -/
def VMemOp.legal (o : VMemOp) (load : Bool) : Bool :=
  o.mode != 3 && (o.mode == 2 || (o.ix == 0 && o.sc == 0)) && (o.mode != 0 || o.x == 0)
    && !(load && o.mode == 2 && o.v == o.x) && !(load && o.m == 1 && o.v == 0)

/-- Registers a form VM instruction uses. -/
def VMemOp.vregs (o : VMemOp) : List Reg :=
  o.v :: ((if o.m = 1 then [0] else []) ++ (if o.mode = 2 then [o.x] else []))

end Sys2Proof

namespace Sys2Proof.Machine

/-! ## Form M (R106) -/

/-- The effective address and the updated base, if any; none while a register is awaited. -/
def memAddress (o : MemOp) (th : Thread) : Option (Word × Option Word) :=
  match th.src o.rb with
  | .none => .none
  | some b =>
    match o.mode.toNat with
    | 0 => some (b + o.step, .none)
    | 1 => some (b, some (b + o.step))
    | 2 => some (b - o.down, some (b - o.down))
    | _ => (th.src o.ri).map fun (x : Word) => (b + (x <<< o.size.toNat), .none)

/-- The first fault of an effective address before translation (R108, R115, R129): misaligned, address, bound. -/
def addressFault (m : Module) (th : Thread) (need : Need) (viaStack : Bool) (a : Word) (bytes : Nat) : Option Nat :=
  if a.toNat % bytes ≠ 0 then some 0x03
  else if bitsOf a 63 48 ≠ 0 then some 0x05
  else if th.priv.level = 2 then
    (if (locateMachine m need a.toNat).isNone then some 0x05 else .none)
  else if viaStack && (a.toNat < th.sblo.toNat || a.toNat + bytes > th.sbhi.toNat) then some 0x06
  else .none

/-! ## Vector registers (R154) -/

def Thread.vreg (th : Thread) (r : Reg) : BitVec 4096 := Sparse.get 0 th.vec.v r.toNat
def Thread.putVreg (th : Thread) (r : Reg) (v : BitVec 4096) : Thread :=
  { th with vec := { th.vec with v := Sparse.set th.vec.v r.toNat v } }

/-- Element `i` of width `w`. -/
def elem (v : BitVec 4096) (w i : Nat) : Nat := (v.toNat >>> (w * i)) % 2 ^ w
def putElem (v : BitVec 4096) (w i x : Nat) : BitVec 4096 := putBits v (w * i + w - 1) (w * i) x

/-- VCMAX(w) (R155). -/
def vcMax (w : Nat) : Nat := Nat.min 512 (4096 / w)

/-- The element count of an instruction whose widest element has width `w` (R155). -/
def vecCount (th : Thread) (w : Nat) : Nat := Nat.min th.vec.count.toNat (vcMax w)

/-- The active elements, ascending (R156). -/
def actives (th : Thread) (w : Nat) (masked : Bool) : List Nat :=
  (List.range (vecCount th w)).filter fun i =>
    th.vec.start.toNat ≤ i && (!masked || (th.vreg 0).getLsbD i)

/-- Width of a type code (R157); 0 for the illegal code. -/
def typeWidth (ty : BitVec 3) : Nat :=
  match ty.toNat with
  | 0 => 8
  | 1 => 16
  | 2 => 32
  | 3 => 64
  | 4 | 5 => 16
  | 6 => 32
  | _ => 0

def isIntType (ty : BitVec 3) : Bool := ty.toNat ≤ 3
def isFloatType (ty : BitVec 3) : Bool := 4 ≤ ty.toNat && ty.toNat ≤ 6

/-- The format of a floating-point type code. -/
def typeFmt (ty : BitVec 3) : Fp.Fmt :=
  if ty = 4 then Fp.bf16 else if ty = 5 then Fp.fp16 else Fp.fp32

/-! ## Lane draws (R180) -/

/-- The lane that serves element `i` of width `w`. -/
def laneOf (w i : Nat) : Nat := i * w / 32 % 32

/-- One draw of a lane. -/
def drawLane (l : Nat) (g : Sparse Gen) : Word × Sparse Gen :=
  let r := (Sparse.get {} g l).step
  (r.2, Sparse.set g l r.1)

/-- The rounding mode of an element under FRMODE, which draws once when it is stochastic (R162, R219). -/
def elemMode (th : Thread) (w i : Nat) (g : Sparse Gen) : Fp.Mode × Sparse Gen :=
  let md (d : Nat) : Fp.Mode := { rm := th.vec.rm.toNat, ovs := th.vec.ovs, draw := d }
  if th.vec.rm = 2 then
    let r := drawLane (laneOf w i) g
    (md (bitsOf r.1 63 40), r.2)
  else (md 0, g)

/-- FRMODE with stochastic rounding as nearest-even (R164). -/
def foldMode (th : Thread) : Fp.Mode :=
  { rm := if th.vec.rm = 2 then 0 else th.vec.rm.toNat, ovs := th.vec.ovs, draw := 0 }

/-! ## Form VM (R169) -/

/-- Base and stride, once their registers hold data. -/
def vmemScalars (o : VMemOp) (th : Thread) : Option (Word × Word) :=
  match th.src o.rb with
  | .none => .none
  | some b => if o.mode = 1 then (th.src o.x).map fun x => (b, x) else some (b, 0)

/-- Address of element `i`. -/
def vmemAddress (o : VMemOp) (th : Thread) (base stride : Word) (i : Nat) : Word :=
  match o.mode.toNat with
  | 0 => base + BitVec.ofNat 64 (i * o.bytes)
  | 1 => base + BitVec.ofNat 64 i * stride
  | _ =>
    let x := elem (th.vreg o.x) o.indexWidth i
    base + (BitVec.ofNat 64 x <<< (if o.sc = 1 then o.size.toNat else 0))

/-- Whether a vector register waits for elements of an imprecise access (R173), or for an accumulator row (R205). -/
def Thread.vecAwaits (th : Thread) (l : List Reg) : Bool :=
  (th.vec.pending.any fun p => match p.vd with
    | some r => l.contains r
    | .none => false)
  || th.tile.queue.any fun e => match e.op with
    | .toVec o => l.contains o.rb
    | _ => false

/-! ## Event sources -/

/-- Source numbers that never become pending: of the Basin stacks, Step Gate, Sluiceway, Weir and module (R147, R297, R334,
R383, R401, R438). -/
def sourceReserved (s : Nat) : Bool :=
  (128 ≤ s && s < 192 && 6 ≤ s % 32) || (249 ≤ s && s < 256) || (273 ≤ s && s < 288) || (296 ≤ s && s < 320) || 327 ≤ s

end Sys2Proof.Machine
end

