-- ==== Sys2Proof/Machine/SysRegs.lean ====
section
/-! DEFINITION. The system registers of a thread: rights, reads and writes (R122, R130, R140, R141, R153, R174,
R207, R210, R218, R332, R459). -/

namespace Sys2Proof.Machine

/-! ## Rights (R122) -/

/-- Lowest level that may read a register, and lowest that may write it; no level writes an RO register. -/
structure SrRight where
  read : Nat
  write : Option Nat
  deriving DecidableEq, Repr

/-- The rights of a number; an unassigned number has none. DEDUCED (log 21). -/
def srRight (n : Nat) : Option SrRight :=
  if n ≤ 0x00C then some ⟨0, some 0⟩
  else if n = 0x010 then some ⟨0, .none⟩
  else if n = 0x011 ∨ n = 0x012 then some ⟨0, some 1⟩
  else if n = 0x020 ∨ n = 0x030 then some ⟨0, .none⟩
  else if n = 0x031 ∨ n = 0x032 then some ⟨0, some 0⟩
  else if n = 0x033 then some ⟨1, some 1⟩
  else if n = 0x041 then some ⟨0, some 1⟩
  else if 0x040 ≤ n ∧ n ≤ 0x044 then some ⟨0, some 0⟩
  else if 0x050 ≤ n ∧ n ≤ 0x052 then some ⟨0, some 0⟩
  else if 0x060 ≤ n ∧ n ≤ 0x06F then some ⟨1, .none⟩
  else if n = 0x100 then some ⟨0, .none⟩
  else if n = 0x101 ∨ (0x110 ≤ n ∧ n ≤ 0x117) then some ⟨1, some 1⟩
  else if n = 0x118 then some ⟨1, .none⟩
  else if (0x120 ≤ n ∧ n ≤ 0x127) ∨ (0x130 ≤ n ∧ n ≤ 0x138) ∨ n = 0x140 then some ⟨2, some 2⟩
  else .none

/-! ## Exception sets (R130) -/

/-- Register `k` of a set. -/
def excRead (x : ExcSet) (k : Nat) : Word :=
  match k with
  | 0 => x.state
  | 1 => x.rpc.setWidth 64
  | 2 => x.why
  | 3 => x.fval
  | 4 => x.shreg.setWidth 64
  | 5 => x.shval
  | 6 => x.hbase.setWidth 64
  | _ => x.spare

/-- Write register `k` (2-5 and 7) of a set; state, return PC and handler base have rules of their own. -/
def excWrite (x : ExcSet) (k : Nat) (v : Word) : ExcSet :=
  match k with
  | 1 => { x with rpc := putBits (v.setWidth 48) 1 0 0 }
  | 2 => { x with why := v &&& 0x80000000FFFF00FF }
  | 3 => { x with fval := v }
  | 4 => { x with shreg := v.setWidth 6 }
  | 5 => { x with shval := v }
  | 6 => { x with hbase := putBits (v.setWidth 48) 11 0 0 }
  | 7 => { x with spare := v }
  | _ => x

/-- PLSTAT and PPL of a written state word, over the other bits of the old one. -/
def stateFields (old v : Word) : Word := putBits (putBits old 11 8 (bitsOf v 11 8)) 5 4 (bitsOf v 5 4)

/-- A write of SU_STATE: NIEXP is cleared by 1, NI by its own rule, TEN and XEN as written (R139, R140). -/
def writeSuState (p : Priv) (v : Word) : Priv :=
  let s := stateFields p.su.state v
  let s := if v.getLsbD 3 then putBit s 3 false else s
  let s := putBit (putBit s 1 (v.getLsbD 1)) 0 (v.getLsbD 0)
  let p := { p with su := { p.su with state := s } }
  if v.getLsbD 2 then openWindow p else { p with su := { p.su with state := putBit s 2 false } }

/-! ## Tile flags (R210) -/

/-- The TFLAGS bits of half `h` of each array: bits 8 a + 4 h to 8 a + 4 h + 3. -/
def halfFlags (h : Nat) : BitVec 32 := if h = 0 then 0x0F0F0F0F else 0xF0F0F0F0

/-- The flags a thread reaches through its lease. -/
def leaseFlags (t : Nat) (lease : BitVec 2) : BitVec 32 :=
  if lease = 1 then BitVec.allOnes 32 else if lease = 2 then halfFlags (t % 2) else 0

/-- TLEASE as read. -/
def leaseWord (t : Nat) (x : TileState) : Word :=
  BitVec.ofNat 64 (16 * (t % 2) + 4 * x.grant.toNat + x.lease.toNat)

/-- The LEASE values a grant allows (R207). -/
def leaseAllowed (grant lease : Nat) : Bool :=
  if grant = 1 then lease ≤ 2 else if grant = 2 then lease = 0 || lease = 2 else lease = 0

/-! ## Reads -/

/-- VFSTAT as read. -/
def vfstatWord (x : VecState) : Word :=
  BitVec.ofNat 64 ((if x.lpend then 2 ^ 16 else 0) + 256 * x.lost.toNat + x.log.length)

/-- VFLOGA or VFLOGI of an entry. -/
def logWord (x : VecState) (n : Nat) : Word :=
  match x.log[n / 2]? with
  | .none => 0
  | some e =>
    if n % 2 = 0 then e.addr
    else e.pc ++ (BitVec.ofBool e.rep ++ e.level ++ e.kind ++ e.element)

/-- TSTAT (R130). -/
def tstatWord (t : Nat) (th : Thread) : Word :=
  BitVec.ofNat 64 (2 ^ 32 * th.priv.level.toNat + 2 ^ 24 * (t / 96) + 2 ^ 20 * (t / 2 % 48 / 4)
    + 2 ^ 9 * (t / 2) + t)

/-- The value MFSR reads from an assigned number. -/
def srRead (m : Module) (t n : Nat) : Word :=
  let th := threadAt m t
  if n ≤ 0x003 then (Sparse.get 0 th.ls n : BitVec 48).setWidth 64
  else if n ≤ 0x007 then (Sparse.get 0 th.le (n - 4) : BitVec 48).setWidth 64
  else if n ≤ 0x00B then (Sparse.get 0 th.lc (n - 8) : BitVec 32).setWidth 64
  else if 0x060 ≤ n ∧ n ≤ 0x06F then logWord th.vec (n - 0x060)
  else if 0x110 ≤ n ∧ n ≤ 0x117 then excRead th.priv.su (n - 0x110)
  else if 0x120 ≤ n ∧ n ≤ 0x127 then excRead th.priv.ma (n - 0x120)
  else if 0x130 ≤ n ∧ n ≤ 0x137 then excRead th.priv.es (n - 0x130)
  else match n with
    | 0x00C => th.lstat.setWidth 64
    | 0x010 => BitVec.ofNat 64 th.rstack.length
    | 0x011 => th.sblo.setWidth 64
    | 0x012 => th.sbhi.setWidth 64
    | 0x020 => m.time
    | 0x030 => th.vec.count.setWidth 64
    | 0x031 => th.vec.start.setWidth 64
    | 0x032 => th.vec.flags.setWidth 64
    | 0x033 => vfstatWord th.vec
    | 0x040 => BitVec.ofNat 64 ((if th.vec.ovs then 4 else 0) + th.vec.rm.toNat)
    | 0x041 => if th.vec.precise then 1 else 0
    | 0x042 => BitVec.ofNat 64 ((if (coreAt m (t / 2)).vecUp then 2 ^ 8 else 0) + 16 * th.vec.idle.toNat
        + (if th.vec.hold then 1 else 0))
    | 0x043 => th.vec.fxr.setWidth 64
    | 0x044 => if th.vec.ref then 1 else 0
    | 0x050 => leaseWord t th.tile
    | 0x051 => th.tile.start.setWidth 64
    | 0x052 => ((coreAt m (t / 2)).tflags &&& leaseFlags t th.tile.lease).setWidth 64
    | 0x100 => tstatWord t th
    | 0x101 => th.priv.talarm
    | 0x118 => th.priv.nicount.setWidth 64
    | 0x138 => th.priv.esG31
    | _ => th.priv.nilimit.setWidth 64

/-! ## Writes -/

/-- A write of VFSTAT: CLR empties the log, LPEND is cleared by 1 (R174). -/
def writeVfstat (x : VecState) (v : Word) : VecState :=
  if v.getLsbD 31 then { x with log := [], lost := 0, lpend := false }
  else if v.getLsbD 16 then { x with lpend := false }
  else x

/-- A write of VPOWER; HOLD = 1 while the unit is down starts a wake (R182). -/
def writeVpower (t : Nat) (v : Word) (m : Module) : Module :=
  let th := threadAt m t
  let k := coreAt m (t / 2)
  let m := if v.getLsbD 0 && !k.vecUp then setCore (t / 2) { k with waking := true } m else m
  setThread t { th with vec := { th.vec with idle := BitVec.ofNat 4 (bitsOf v 7 4), hold := v.getLsbD 0 } } m

/-- A write of REF: ignored when it is 0 under FORCE (R332). -/
def writeRef (force : Bool) (x : VecState) (v : Word) : VecState :=
  if v.getLsbD 0 then { x with ref := true } else if force then x else { x with ref := false }

/-- A write to one of the escalation set's registers. -/
def writeEs (p : Priv) (k : Nat) (v : Word) : Priv :=
  if k = 0 then { p with es := { p.es with state := stateFields p.es.state v } }
  else if (k = 6 ∨ k = 7) ∧ p.esLocked then p
  else { p with es := excWrite p.es k v }

/-- Write a number that its level may write; none for a value that is an illegal instruction. -/
def srWrite (t n : Nat) (v : Word) (m : Module) : Option Module :=
  let th := threadAt m t
  let p := th.priv
  let put (x : Thread) : Option Module := some (setThread t x m)
  if n ≤ 0x003 then put { th with ls := Sparse.set th.ls n (putBits (v.setWidth 48) 1 0 0) }
  else if n ≤ 0x007 then put { th with le := Sparse.set th.le (n - 4) (putBits (v.setWidth 48) 1 0 0) }
  else if n ≤ 0x00B then put { th with lc := Sparse.set th.lc (n - 8) (v.setWidth 32) }
  else if n = 0x110 then
    let m := setThread t { th with priv := writeSuState p v } m
    some (if v.getLsbD 2 && p.endsAtOnce then perf t 0x18 1 m else m)
  else if 0x111 ≤ n ∧ n ≤ 0x117 then put { th with priv := { p with su := excWrite p.su (n - 0x110) v } }
  else if n = 0x120 then put { th with priv := { p with ma := { p.ma with state := stateFields p.ma.state v } } }
  else if 0x121 ≤ n ∧ n ≤ 0x127 then put { th with priv := { p with ma := excWrite p.ma (n - 0x120) v } }
  else if 0x130 ≤ n ∧ n ≤ 0x137 then put { th with priv := writeEs p (n - 0x130) v }
  else match n with
    | 0x00C => put { th with lstat := v.setWidth 4 }
    | 0x011 => put { th with sblo := v.setWidth 48 }
    | 0x012 => put { th with sbhi := v.setWidth 48 }
    | 0x031 => put { th with vec := { th.vec with start := v.setWidth 9 } }
    | 0x032 => put { th with vec := { th.vec with flags := v.setWidth 6 } }
    | 0x033 => put { th with vec := writeVfstat th.vec v }
    | 0x040 =>
      if bitsOf v 1 0 = 3 then .none
      else put { th with vec := { th.vec with ovs := v.getLsbD 2, rm := v.setWidth 2 } }
    | 0x041 => put { th with vec := { th.vec with precise := v.getLsbD 0 } }
    | 0x042 => some (writeVpower t v m)
    | 0x043 => put { th with vec := { th.vec with fxr := v.setWidth 2 } }
    | 0x044 => put { th with vec := writeRef m.gate.force th.vec v }
    | 0x050 =>
      if leaseAllowed th.tile.grant.toNat (bitsOf v 1 0) then
        put { th with tile := { th.tile with lease := v.setWidth 2 } }
      else .none
    | 0x051 => put { th with tile := { th.tile with start := v.setWidth 5 } }
    | 0x052 =>
      let k := coreAt m (t / 2)
      some (setCore (t / 2) { k with tflags := k.tflags &&& ~~~(v.setWidth 32 &&& leaseFlags t th.tile.lease) } m)
    | 0x101 => put { th with priv := { p with talarm := v } }
    | 0x138 => put { th with priv := { p with esG31 := v } }
    | 0x140 => put { th with priv := { p with nilimit := BitVec.ofNat 13 (Nat.min 4096 v.toNat) } }
    | _ => some m

/-! ## Report points (R175) -/

/-- Number of the VFLOGA register of the lowest entry that is due. -/
def dueEntry (th : Thread) (atEnd : Bool) : Option Nat :=
  ((List.range th.vec.log.length).find? fun k => match th.vec.log[k]? with
    | some e => e.due th atEnd
    | .none => false).map fun k => 0x060 + 2 * k

/-- Raise cause 0x0C. With LPEND alone there is no entry to name, and FVAL is a free value. DEDUCED (log 19). -/
def raiseReport (t : Nat) (th : Thread) (atEnd : Bool) (m : Module) : Module :=
  let e (fval : Word) : Exc :=
    { cause := 0x0C, fval := fval, rpc := th.pc, target := th.priv.level, atEnd := atEnd }
  match dueEntry th atEnd with
  | some k => setThread t { th with exc := some (e (BitVec.ofNat 64 k)) } m
  | .none =>
    let r := takeFree 64 m
    setThread t { th with exc := some (e r.1) } r.2

/-- At a report point: wait for vector elements, raise cause 0x0C, or go on with `k`. -/
def atReport (t : Nat) (atEnd : Bool) (k : Module → Module) (m : Module) : Module :=
  let th := threadAt m t
  if !th.vec.pending.isEmpty then m
  else if th.vec.lpend || (dueEntry th atEnd).isSome then raiseReport t th atEnd m
  else k m

/-! ## MFSR and MTSR (R121-R123) -/

/-- MFSR of number `n` into `g`; TFLAGS waits for the thread's tile instructions (R210). It is not serializing, as R123 does
not list it: DEDUCED (log 21). -/
def readSr (t : Nat) (i : Instr) (g : Reg) (n : Nat) (s : State) : Host.Outcome State Fault Refusal :=
  issue t (fun th m =>
    match srRight n with
    | .none => illegal t i m
    | some r =>
      if th.priv.level.toNat < r.read then privileged t i m
      else if n = 0x052 ∧ !th.tile.queue.isEmpty then m
      else if th.writable g then retire t 1 (setThread t (th.result g (srRead m t n)) m) else m) s

/-- MTSR of `g` to number `n`. -/
def writeSr (t : Nat) (i : Instr) (g : Reg) (n : Nat) (s : State) : Host.Outcome State Fault Refusal :=
  issue t (fun th m =>
    if !serialReady m t then m
    else match srRight n with
      | .none => illegal t i m
      | some r =>
        let go (m : Module) : Module :=
          match th.src g with
          | .none => m
          | some v =>
            match srWrite t n v m with
            | some m => retire t 1 m
            | .none => illegal t i m
        match r.write with
        | .none => if th.priv.level.toNat < r.read then privileged t i m else retire t 1 m
        | some l =>
          if th.priv.level.toNat < l then privileged t i m
          else if n = 0x041 then atReport t false go m
          else go m) s

end Sys2Proof.Machine
end

