-- ==== Sys2Proof/Machine/Scalar.lean ====
section
/-! DEFINITION. Scalar integer instructions, control transfer, loops and the system group (06). -/

namespace Sys2Proof.Machine

open Host (Outcome)

/-! ## Values of the integer instructions (R103-R105) -/

def boolWord (b : Bool) : Word := if b then 1 else 0

def smin (a b : Word) : Word := if a.slt b then a else b
def smax (a b : Word) : Word := if a.slt b then b else a
def umin (a b : Word) : Word := if a < b then a else b
def umax (a b : Word) : Word := if a < b then b else a

/-- Leading zeros; 64 for zero. -/
def countLeading (a : Word) : Word := BitVec.ofNat 64 (64 - Fp.bitLen a.toNat)

/-- Trailing zeros; 64 for zero. -/
def countTrailing (a : Word) : Word := BitVec.ofNat 64 (((List.range 64).find? fun i => a.getLsbD i).getD 64)

/-- Set bits. -/
def countOnes (a : Word) : Word := BitVec.ofNat 64 ((List.range 64).filter fun i => a.getLsbD i).length

/-- Sign extension of the low 32 bits. -/
def signW (a : Word) : Word := (a.setWidth 32).signExtend 64

/-- Bits 127:64 of the signed or unsigned product. -/
def mulHigh (a b : Word) : Word := BitVec.ofInt 64 (a.toInt * b.toInt / 2 ^ 64)
def mulHighU (a b : Word) : Word := BitVec.ofNat 64 (a.toNat * b.toNat / 2 ^ 64)

/-- Quotients and remainders; a zero divisor gives all ones and the dividend (R104). -/
def divide (a b : Word) : Word := if b = 0 then BitVec.allOnes 64 else a.sdiv b
def divideU (a b : Word) : Word := if b = 0 then BitVec.allOnes 64 else a / b
def remainder (a b : Word) : Word := if b = 0 then a else a.srem b
def remainderU (a b : Word) : Word := if b = 0 then a else a % b

/-! ## Integer instructions -/

/-- ADD (R103). -/
def execAdd (t : Nat) (rd rs1 rs2 : Reg) (s : State) : Outcome State Fault Refusal :=
  alu t rd (src2 rs1 rs2 ((· + ·))) s

/-- SUB (R103). -/
def execSub (t : Nat) (rd rs1 rs2 : Reg) (s : State) : Outcome State Fault Refusal :=
  alu t rd (src2 rs1 rs2 ((· - ·))) s

/-- AND (R103). -/
def execAndR (t : Nat) (rd rs1 rs2 : Reg) (s : State) : Outcome State Fault Refusal :=
  alu t rd (src2 rs1 rs2 ((· &&& ·))) s

/-- OR (R103). -/
def execOrR (t : Nat) (rd rs1 rs2 : Reg) (s : State) : Outcome State Fault Refusal :=
  alu t rd (src2 rs1 rs2 ((· ||| ·))) s

/-- XOR (R103). -/
def execXorR (t : Nat) (rd rs1 rs2 : Reg) (s : State) : Outcome State Fault Refusal :=
  alu t rd (src2 rs1 rs2 ((· ^^^ ·))) s

/-- SLL (R103). -/
def execSll (t : Nat) (rd rs1 rs2 : Reg) (s : State) : Outcome State Fault Refusal :=
  alu t rd (src2 rs1 rs2 (fun a b => a <<< bitsOf b 5 0)) s

/-- SRL (R103). -/
def execSrl (t : Nat) (rd rs1 rs2 : Reg) (s : State) : Outcome State Fault Refusal :=
  alu t rd (src2 rs1 rs2 (fun a b => a >>> bitsOf b 5 0)) s

/-- SRA (R103). -/
def execSra (t : Nat) (rd rs1 rs2 : Reg) (s : State) : Outcome State Fault Refusal :=
  alu t rd (src2 rs1 rs2 (fun a b => a.sshiftRight (bitsOf b 5 0))) s

/-- MIN (R103). -/
def execMinS (t : Nat) (rd rs1 rs2 : Reg) (s : State) : Outcome State Fault Refusal :=
  alu t rd (src2 rs1 rs2 (smin)) s

/-- MAX (R103). -/
def execMaxS (t : Nat) (rd rs1 rs2 : Reg) (s : State) : Outcome State Fault Refusal :=
  alu t rd (src2 rs1 rs2 (smax)) s

/-- MINU (R103). -/
def execMinu (t : Nat) (rd rs1 rs2 : Reg) (s : State) : Outcome State Fault Refusal :=
  alu t rd (src2 rs1 rs2 (umin)) s

/-- MAXU (R103). -/
def execMaxu (t : Nat) (rd rs1 rs2 : Reg) (s : State) : Outcome State Fault Refusal :=
  alu t rd (src2 rs1 rs2 (umax)) s

/-- ADDW (R103). -/
def execAddw (t : Nat) (rd rs1 rs2 : Reg) (s : State) : Outcome State Fault Refusal :=
  alu t rd (src2 rs1 rs2 (fun a b => signW (a + b))) s

/-- SUBW (R103). -/
def execSubw (t : Nat) (rd rs1 rs2 : Reg) (s : State) : Outcome State Fault Refusal :=
  alu t rd (src2 rs1 rs2 (fun a b => signW (a - b))) s

/-- MUL (R103). -/
def execMul (t : Nat) (rd rs1 rs2 : Reg) (s : State) : Outcome State Fault Refusal :=
  alu t rd (src2 rs1 rs2 ((· * ·))) s

/-- MULH (R103). -/
def execMulh (t : Nat) (rd rs1 rs2 : Reg) (s : State) : Outcome State Fault Refusal :=
  alu t rd (src2 rs1 rs2 (mulHigh)) s

/-- MULHU (R103). -/
def execMulhu (t : Nat) (rd rs1 rs2 : Reg) (s : State) : Outcome State Fault Refusal :=
  alu t rd (src2 rs1 rs2 (mulHighU)) s

/-- DIV (R104). -/
def execDivS (t : Nat) (rd rs1 rs2 : Reg) (s : State) : Outcome State Fault Refusal :=
  alu t rd (src2 rs1 rs2 (divide)) s

/-- DIVU (R104). -/
def execDivu (t : Nat) (rd rs1 rs2 : Reg) (s : State) : Outcome State Fault Refusal :=
  alu t rd (src2 rs1 rs2 (divideU)) s

/-- REM (R104). -/
def execRem (t : Nat) (rd rs1 rs2 : Reg) (s : State) : Outcome State Fault Refusal :=
  alu t rd (src2 rs1 rs2 (remainder)) s

/-- REMU (R104). -/
def execRemu (t : Nat) (rd rs1 rs2 : Reg) (s : State) : Outcome State Fault Refusal :=
  alu t rd (src2 rs1 rs2 (remainderU)) s

/-- SEQ (R103). -/
def execSeq (t : Nat) (rd rs1 rs2 : Reg) (s : State) : Outcome State Fault Refusal :=
  alu t rd (src2 rs1 rs2 (fun a b => boolWord (a == b))) s

/-- SNE (R103). -/
def execSne (t : Nat) (rd rs1 rs2 : Reg) (s : State) : Outcome State Fault Refusal :=
  alu t rd (src2 rs1 rs2 (fun a b => boolWord (a != b))) s

/-- SLT (R103). -/
def execSlt (t : Nat) (rd rs1 rs2 : Reg) (s : State) : Outcome State Fault Refusal :=
  alu t rd (src2 rs1 rs2 (fun a b => boolWord (a.slt b))) s

/-- SGE (R103). -/
def execSge (t : Nat) (rd rs1 rs2 : Reg) (s : State) : Outcome State Fault Refusal :=
  alu t rd (src2 rs1 rs2 (fun a b => boolWord (!a.slt b))) s

/-- SLTU (R103). -/
def execSltu (t : Nat) (rd rs1 rs2 : Reg) (s : State) : Outcome State Fault Refusal :=
  alu t rd (src2 rs1 rs2 (fun a b => boolWord (a < b))) s

/-- SGEU (R103). -/
def execSgeu (t : Nat) (rd rs1 rs2 : Reg) (s : State) : Outcome State Fault Refusal :=
  alu t rd (src2 rs1 rs2 (fun a b => boolWord (!(a < b)))) s

/-- CLZ (R103). -/
def execClz (t : Nat) (rd rs1 : Reg) (s : State) : Outcome State Fault Refusal :=
  alu t rd (src1 rs1 countLeading) s

/-- CTZ (R103). -/
def execCtz (t : Nat) (rd rs1 : Reg) (s : State) : Outcome State Fault Refusal :=
  alu t rd (src1 rs1 countTrailing) s

/-- POPC (R103). -/
def execPopc (t : Nat) (rd rs1 : Reg) (s : State) : Outcome State Fault Refusal :=
  alu t rd (src1 rs1 countOnes) s

/-- ADDI (R102, R105). -/
def execAddi (t : Nat) (rd rs1 : Reg) (imm : BitVec 16) (s : State) : Outcome State Fault Refusal :=
  alu t rd (src1 rs1 (fun a => a + imm.signExtend 64)) s

/-- ANDI (R102, R105). -/
def execAndi (t : Nat) (rd rs1 : Reg) (imm : BitVec 16) (s : State) : Outcome State Fault Refusal :=
  alu t rd (src1 rs1 (fun a => a &&& imm.setWidth 64)) s

/-- ORI (R102, R105). -/
def execOri (t : Nat) (rd rs1 : Reg) (imm : BitVec 16) (s : State) : Outcome State Fault Refusal :=
  alu t rd (src1 rs1 (fun a => a ||| imm.setWidth 64)) s

/-- XORI (R102, R105). -/
def execXori (t : Nat) (rd rs1 : Reg) (imm : BitVec 16) (s : State) : Outcome State Fault Refusal :=
  alu t rd (src1 rs1 (fun a => a ^^^ imm.setWidth 64)) s

/-- SLTI (R102, R105). -/
def execSlti (t : Nat) (rd rs1 : Reg) (imm : BitVec 16) (s : State) : Outcome State Fault Refusal :=
  alu t rd (src1 rs1 (fun a => boolWord (a.slt (imm.signExtend 64)))) s

/-- SLTIU (R102, R105). -/
def execSltiu (t : Nat) (rd rs1 : Reg) (imm : BitVec 16) (s : State) : Outcome State Fault Refusal :=
  alu t rd (src1 rs1 (fun a => boolWord (a < imm.signExtend 64))) s

/-- CATI (R102, R105). -/
def execCati (t : Nat) (rd rs1 : Reg) (imm : BitVec 16) (s : State) : Outcome State Fault Refusal :=
  alu t rd (src1 rs1 (fun a => a.setWidth 48 ++ imm)) s

/-- RCATI (R102, R105). -/
def execRcati (t : Nat) (rd rs1 : Reg) (imm : BitVec 16) (s : State) : Outcome State Fault Refusal :=
  alu t rd (src1 rs1 (fun a => imm ++ BitVec.ofNat 48 (bitsOf a 63 16))) s

/-- SLLI (R103). -/
def execSlli (t : Nat) (rd rs1 : Reg) (sh : BitVec 6) (s : State) : Outcome State Fault Refusal :=
  alu t rd (src1 rs1 (fun a => a <<< sh.toNat)) s

/-- SRLI (R103). -/
def execSrli (t : Nat) (rd rs1 : Reg) (sh : BitVec 6) (s : State) : Outcome State Fault Refusal :=
  alu t rd (src1 rs1 (fun a => a >>> sh.toNat)) s

/-- SRAI (R103). -/
def execSrai (t : Nat) (rd rs1 : Reg) (sh : BitVec 6) (s : State) : Outcome State Fault Refusal :=
  alu t rd (src1 rs1 (fun a => a.sshiftRight sh.toNat)) s

/-! ## Control transfer (R109, R110) -/

/-- A condition of BR or BRI; codes 6 and 7 are illegal. -/
def condition (cond : BitVec 3) (a b : Word) : Option Bool :=
  match cond.toNat with
  | 0 => some (a == b)
  | 1 => some (a != b)
  | 2 => some (a.slt b)
  | 3 => some (!a.slt b)
  | 4 => some (a < b)
  | 5 => some (!(a < b))
  | _ => .none

/-- A PC-relative target: the offset in words, modulo 2^48. -/
def relative {w : Nat} (pc : BitVec 48) (off : BitVec w) : BitVec 48 := pc + (off.signExtend 48 <<< 2)

/-- A compare and branch on two values. -/
def branchOn (t : Nat) (i : Instr) (cond : BitVec 3) (a b : Option Word) (off : BitVec 13) (m : Module) : Module :=
  let th := threadAt m t
  match a, b with
  | some a, some b =>
    match condition cond a b with
    | .none => illegal t i m
    | some true => transfer t (relative th.pc off) m
    | some false => retire t 1 m
  | _, _ => m

/-- BR (R109). -/
def execBranch (t : Nat) (rs1 rs2 : Reg) (cond : BitVec 3) (off : BitVec 13) (s : State) : Outcome State Fault Refusal :=
  issue t (fun th => branchOn t (.branch t rs1 rs2 cond off) cond (th.src rs1) (th.src rs2) off) s

/-- BRI (R109). -/
def execBranchI (t : Nat) (rs1 : Reg) (imm : BitVec 5) (cond : BitVec 3) (off : BitVec 13) (s : State) :
    Outcome State Fault Refusal :=
  issue t (fun th =>
    branchOn t (.branchI t rs1 imm cond off) cond (th.src rs1) (some (imm.signExtend 64)) off) s

/-- J (R110). -/
def execJump (t : Nat) (off : BitVec 26) (s : State) : Outcome State Fault Refusal :=
  issue t (fun th => transfer t (relative th.pc off)) s

/-- The fault of a target in a register: misaligned fetch first, then address (R110, R129). DEDUCED (log 20). -/
def targetFault (m : Module) (th : Thread) (a : Word) : Option Nat :=
  if bitsOf a 1 0 ≠ 0 then some 0x04
  else if bitsOf a 63 48 ≠ 0 then some 0x05
  else if th.priv.level = 2 ∧ (locateMachine m .read a.toNat).isNone then some 0x05
  else .none

/-- Push PC + 4 and go to a target (R110, R117). -/
def callTo (t : Nat) (target : BitVec 48) (m : Module) : Module :=
  let th := threadAt m t
  if th.rstack.length ≥ 4096 then raiseExc t 0x07 0 m
  else
    match pushReturn (th.pc + 4) th with
    | .none => m
    | some (th, spilled) =>
      let m := setThread t th m
      transfer t target (if spilled then perf t 0x0F 1 m else m)

/-- CALL (R110, R117). -/
def execCall (t : Nat) (off : BitVec 26) (s : State) : Outcome State Fault Refusal :=
  issue t (fun th => callTo t (relative th.pc off)) s

/-- Go to a register target with `k`, unless it faults. -/
def toRegister (t : Nat) (rs1 : Reg) (k : BitVec 48 → Module → Module) (th : Thread) (m : Module) : Module :=
  match th.src rs1 with
  | .none => m
  | some a =>
    match targetFault m th a with
    | some cause => raiseExc t cause a.toNat m
    | .none => k (a.setWidth 48) m

/-- JR (R110). -/
def execJr (t : Nat) (rs1 : Reg) (s : State) : Outcome State Fault Refusal :=
  issue t (toRegister t rs1 (transfer t)) s

/-- CALLR (R110, R117). -/
def execCallr (t : Nat) (rs1 : Reg) (s : State) : Outcome State Fault Refusal :=
  issue t (toRegister t rs1 (callTo t)) s

/-- Pop the return stack and go there. -/
def popReturn (t : Nat) (m : Module) : Module :=
  let th := threadAt m t
  match th.rstack with
  | [] => m
  | a :: rest => transfer t a (setThread t { th with run := .running, rstack := rest, cached := th.cached - 1 } m)

/-- RET (R110, R117): with no cached entry it fetches entries and waits for them. -/
def execRet (t : Nat) (s : State) : Outcome State Fault Refusal :=
  issue t (fun th m =>
    if th.rstack.isEmpty then raiseExc t 0x08 0 m
    else if th.cached = 0 then perf t 0x0F 1 (setThread t { th with run := .filling } m)
    else popReturn t m) s

/-- The value of return-stack entry `k` in memory (R242), through the LLC. -/
def readReturn (t k : Nat) : Acc Nat := do
  let a := returnSlot t k
  let d ← readLine (t + 1) (lineOf a) 0
  if touchesPoison d.2 (a % 128) 8 then stop (.poison a a) else pure (lineValue d.1 (a % 128) 8)

/-- The entries `lo + n - 1` down to `lo`, newest first. -/
def readReturns (t lo : Nat) : Nat → Acc (List (BitVec 48))
  | 0 => pure []
  | n + 1 => do
    let v ← readReturn t (lo + n)
    let rest ← readReturns t lo n
    pure (BitVec.ofNat 48 v :: rest)

/-- RETURN_STACK_FILL (R117): up to eight entries arrive, and the RET proceeds. -/
def execReturnStackFill (t : Nat) (s : State) : Outcome State Fault Refusal :=
  onModule (fun m =>
    let th := threadAt m t
    if alive m && th.run == .filling && th.spills == 0 then
      let n := Nat.min 8 th.rstack.length
      withAccess t (readReturns t (th.rstack.length - n) n) (fun l m =>
        let th := threadAt m t
        popReturn t (setThread t { th with rstack := l ++ th.rstack.drop n, cached := n } m)) m
    else m) s

/-- RETURN_STACK_SPILL_COMPLETE (R117): the oldest outstanding spill reaches memory. -/
def execReturnStackSpillComplete (t : Nat) (s : State) : Outcome State Fault Refusal :=
  onModule (fun m =>
    let th := threadAt m t
    if th.spills = 0 then m
    else
      let k := th.rstack.length - th.cached - th.spills
      let a := returnSlot t k
      let v := (th.rstack.reverse.getD k 0).toNat
      match llcWrite (lineOf a) (a % 128) (bytesOf 8 v) (fun _ => true) 0 m with
      | .none => waitMiss 0 (lineOf a) false m
      | some m => setThread t { threadAt m t with spills := th.spills - 1 } m) s

/-! ## Hardware loops (R118) -/

/-- Set up loop `n` with a count, or skip its body. The end check of the instruction itself sees the registers it has
just written, as that of a write by LCLR or MTSR does. DESIGN CHOICE (log 67). -/
def startLoop (t : Nat) (i : Instr) (n : BitVec 2) (count : BitVec 32) (len : BitVec 12) (m : Module) : Module :=
  let th := threadAt m t
  if len = 0 then illegal t i m
  else if count = 0 then transfer t (th.pc + 4 + (len.setWidth 48 <<< 2)) m
  else
    retire t 1 (setThread t { th with
      ls := Sparse.set th.ls n.toNat (th.pc + 4)
      le := Sparse.set th.le n.toNat (th.pc + (len.setWidth 48 <<< 2))
      lc := Sparse.set th.lc n.toNat count
      lstat := putBit th.lstat n.toNat true } m)

/-- LOOP (R118). -/
def execLoopR (t : Nat) (n : BitVec 2) (rs : Reg) (len : BitVec 12) (s : State) : Outcome State Fault Refusal :=
  issue t (fun th m =>
    match th.src rs with
    | .none => m
    | some c => startLoop t (.loopR t n rs len) n (c.setWidth 32) len m) s

/-- LOOPI (R118). -/
def execLoopi (t : Nat) (n : BitVec 2) (count : BitVec 12) (len : BitVec 12) (s : State) : Outcome State Fault Refusal :=
  issue t (fun _ => startLoop t (.loopi t n count len) n (count.setWidth 32) len) s

/-- LCLR (R118). -/
def execLclr (t : Nat) (n : BitVec 2) (s : State) : Outcome State Fault Refusal :=
  issue t (fun th m => retire t 1 (setThread t { th with lstat := putBit th.lstat n.toNat false } m)) s

/-! ## The system group (R121) -/

/-- TRAP (R121, R144): it retires, and its system call awaits entry. -/
def execTrap (t : Nat) (num : BitVec 12) (s : State) : Outcome State Fault Refusal :=
  issue t (fun th m =>
    if serialReady m t then
      let m := transfer t (th.pc + 4) m
      let e : Exc :=
        { cause := 0x0A, info := num.setWidth 16, rpc := th.pc + 4, target := if th.priv.level = 0 then 1 else 2 }
      setThread t { threadAt m t with exc := some e } m
    else m) s

/-- INV_END of the thread's task (R87). -/
def invalidatesAtEnd (m : Module) (t : Nat) : Bool :=
  match entryAt m (threadAt m t).task with
  | some e => natBit (byteAt e.bytes 12) 5
  | .none => false

/-- The task counts a thread as finished (R93). -/
def countFinished (t : Nat) (m : Module) : Module :=
  match entryAt m (threadAt m t).task with
  | .none => m
  | some e =>
    match e.work with
    | .task r => setEntry { e with work := .task { r with finished := t :: r.finished } } m
    | _ => m

/-- A thread ends: the core writes back its dirty L1 lines; INV_END also empties both L1s (R93, R253). -/
def endClean (t : Nat) : Acc Unit := do
  let m ← get
  l1Clean t (fun _ => true) (invalidatesAtEnd m t)
  if invalidatesAtEnd m t then modify (dropFetched (t / 2)) else pure ()

/-- END (R93, R121): once every earlier instruction has completed, its jobs and batches included (R281, R387), the core
writes back its dirty L1 lines and the thread finishes. -/
def execEndTask (t : Nat) (s : State) : Outcome State Fault Refusal :=
  issue t (fun _ m =>
    if workDone m t then
      atReport t true (fun m =>
        withAccess t (endClean t) (fun _ m =>
          let m := transfer t (threadAt m t).pc m
          countFinished t (setThread t { threadAt m t with run := .finished } m)) m) m
    else m) s

/-- RFX (R138). -/
def execRfx (t : Nat) (s : State) : Outcome State Fault Refusal :=
  issue t (fun th m =>
    if th.priv.level = 0 then privileged t (.rfx t) m
    else if !serialReady m t then m
    else if returnRefused th then raiseExc t 0x09 (bitsOf (returnSet th).state 5 4) m
    else perf t 0x0E 1 (perf t 0x02 1 (setThread t (returned th) m))) s

/-- A wake-up condition of WAIT holds (R145). -/
def wakes (m : Module) (t : Nat) : Bool :=
  eventLine m (t / 2) || timerDue m t || (threadAt m t).stop

/-- WAIT (R145). -/
def execWait (t : Nat) (s : State) : Outcome State Fault Refusal :=
  issue t (fun _ m =>
    if serialReady m t then
      let m := retire t 1 m
      if wakes m t then m else setThread t { threadAt m t with run := .waiting } m
    else m) s

/-- MFSR (R121, R122). -/
def execMfsr (t : Nat) (g : Reg) (sr : BitVec 12) (s : State) : Outcome State Fault Refusal :=
  readSr t (.mfsr t g sr) g sr.toNat s

/-- MTSR (R121-R123, R140). -/
def execMtsr (t : Nat) (g : Reg) (sr : BitVec 12) (s : State) : Outcome State Fault Refusal :=
  writeSr t (.mtsr t g sr) g sr.toNat s

/-- SYNC (R121, R175). -/
def execSync (t : Nat) (s : State) : Outcome State Fault Refusal :=
  issue t (fun _ m => if serialReady m t then atReport t false (retire t 1) m else m) s

/-- LEASE_WRITE (R207): the MTSR of TLEASE. -/
def execLeaseWrite (t : Nat) (g : Reg) (s : State) : Outcome State Fault Refusal :=
  writeSr t (.leaseWrite t g) g 0x050 s

/-- VFSTAT_CLR (R174): the MTSR of VFSTAT. -/
def execVfstatClr (t : Nat) (g : Reg) (s : State) : Outcome State Fault Refusal :=
  writeSr t (.vfstatClr t g) g 0x033 s

/-- SETVC (R155). DEDUCED (log 17). -/
def execSetvc (t : Nat) (rd rs1 : Reg) (size : BitVec 2) (s : State) : Outcome State Fault Refusal :=
  issue t (fun th m =>
    match th.src rs1 with
    | .none => m
    | some a =>
      if th.writable rd then
        let n := Nat.min a.toNat (Nat.min 512 (4096 / (8 * 2 ^ size.toNat)))
        let th := th.result rd (BitVec.ofNat 64 n)
        retire t 1 (setThread t { th with vec := { th.vec with count := BitVec.ofNat 10 n } } m)
      else m) s

end Sys2Proof.Machine
end

