-- ==== Sys2Proof/Machine/Vector.lean ====
section
/-! DEFINITION. Vector arithmetic, compares, conversions, reductions, permutations, random bits, masks and vector
power (08, 10). -/

namespace Sys2Proof.Machine

open Host (Outcome)

/-! ## Issue of a vector instruction (R156, R158, R181, R182) -/

/-- Beats of an arithmetic instruction (R183). -/
def vecBeats (n w : Nat) : Nat := Nat.max 1 (ceilDiv (n * w) 1024)

/-- The vector unit of the core is up; otherwise the instruction starts a wake and waits (R182). -/
def wakeVector (t : Nat) (m : Module) : Module :=
  setCore (t / 2) { coreAt m (t / 2) with waking := true } m

/-- A vector instruction retires: VBEGIN := 0 (R156). DEDUCED (log 17). -/
def vecRetire (t beats : Nat) (th : Thread) (m : Module) : Module :=
  perf t 0x10 beats (retire t 1 (setThread t { th with vec := { th.vec with start := 0 } } m))

/-- A vector arithmetic instruction: illegal forms (R158), wake, waiting registers, then its effect on the thread. -/
def vecIssue (t : Nat) (i : Instr) (legal : Bool) (regs : List Reg) (beats : Thread → Nat)
    (k : Thread → Option Thread) (s : State) : Outcome State Fault Refusal :=
  issue t (fun th m =>
    if !legal then illegal t i m
    else if !(coreAt m (t / 2)).vecUp then wakeVector t m
    else if th.vecAwaits regs then m
    else match k th with
      | some th' => vecRetire t (beats th) th' m
      | .none => m) s

/-- Mask register of an operation, where it is read. -/
def maskReg (o : VecOp) : List Reg := if o.m = 1 then [0] else []

/-- Registers of forms VA and VX. -/
def vecRegs (o : VecOp) : List Reg :=
  o.vd :: o.vs1 :: ((if o.scalar = 1 then [] else [o.src2]) ++ maskReg o)

/-- m = 1 with vd = v0 is illegal in a form that writes a vector register (R158). -/
def maskLegal (o : VecOp) : Bool := !(o.m == 1 && o.vd == 0)

/-- The second operand of element `i`: the scalar's low bits, or vs2 (R157, R159). -/
def operandB (o : VecOp) (th : Thread) (w : Nat) : Option (Nat → Nat) :=
  if o.scalar = 1 then (th.src o.src2).map fun (g : Word) => fun _ => g.toNat % 2 ^ w
  else some fun i => elem (th.vreg o.src2) w i

/-- Write the elements `f` gives, with the flags they set. -/
def mapElems (w : Nat) (l : List Nat) (f : Nat → Nat × Fp.Flags) (v : BitVec 4096) : BitVec 4096 × Fp.Flags :=
  l.foldl (fun a i => let r := f i; (putElem a.1 w i r.1, a.2 ||| r.2)) (v, 0)

/-! ## Integer and fixed-point arithmetic (R159-R161) -/

/-- An integer element: its low `w` bits, and whether a clamp changed it. -/
abbrev IntFn := BitVec 2 → Nat → Nat → Nat → Int × Bool

/-- sat_s and sat_u (R160). -/
def satS (x : Int) (w : Nat) : Int × Bool :=
  let y := min (max x (-(2 ^ (w - 1) : Int))) (2 ^ (w - 1) - 1)
  (y, y != x)
def satU (x : Int) (w : Nat) : Int × Bool :=
  let y := min (max x 0) (2 ^ w - 1)
  (y, y != x)

/-- rnd(x, d) under FXMODE (R161). -/
def rnd (fxr : BitVec 2) (x : Int) (d : Nat) : Int :=
  if d = 0 then x
  else
    let q := x / 2 ^ d
    let f := x % 2 ^ d
    let h : Int := 2 ^ (d - 1)
    match fxr.toNat with
    | 0 => if f ≥ h then q + 1 else q
    | 1 => if f > h ∨ (f = h ∧ q % 2 = 1) then q + 1 else q
    | 2 => q
    | _ => if f ≠ 0 ∧ q % 2 = 0 then q + 1 else q

/-- An element function that never clamps, on the unsigned and on the signed elements. -/
def plain (f : Nat → Nat → Nat → Int) : IntFn := fun _ w a b => (f w a b, false)
def plainS (f : Nat → Int → Int → Int) : IntFn := fun _ w a b => (f w (natSigned w a) (natSigned w b), false)

/-- An integer instruction of elements of width `w`; vs1 is read at width `wa`. -/
def vecIntAt (t : Nat) (i : Instr) (o : VecOp) (wide : Bool) (f : IntFn) (s : State) : Outcome State Fault Refusal :=
  let w := typeWidth o.ty
  let wa := if wide then 2 * w else w
  vecIssue t i (isIntType o.ty && maskLegal o && !(wide && o.ty == 3)) (vecRegs o)
    (fun th => vecBeats (vecCount th wa) wa)
    (fun th => (operandB o th w).map fun b =>
      let r := mapElems w (actives th wa (o.m == 1)) (fun k =>
        let y := f th.vec.fxr w (elem (th.vreg o.vs1) wa k) (b k)
        (intLow w y.1, satFlag y.2)) (th.vreg o.vd)
      (th.putVreg o.vd r.1).addFlags r.2) s

def vecInt (t : Nat) (i : Instr) (o : VecOp) (f : IntFn) (s : State) : Outcome State Fault Refusal :=
  vecIntAt t i o false f s

/-! ## Floating point (R162) -/

/-- An element of a floating-point instruction: format, mode, old vd, a and b. -/
abbrev FloatFn := Fp.Fmt → Fp.Mode → Nat → Nat → Nat → Nat × Fp.Flags

/-- What a floating-point instruction has written so far. -/
structure FloatAcc where
  v : BitVec 4096
  flags : Fp.Flags
  gens : Sparse Gen
  deriving DecidableEq, Repr

/-- A floating-point instruction; every active element draws once when rounding is stochastic. -/
def vecFloat (t : Nat) (i : Instr) (o : VecOp) (legal : Bool) (slow : Nat) (f : FloatFn) (s : State) :
    Outcome State Fault Refusal :=
  let w := typeWidth o.ty
  vecIssue t i (legal && isFloatType o.ty && maskLegal o) (vecRegs o)
    (fun th => slow * vecBeats (vecCount th w) w)
    (fun th => (operandB o th w).map fun b =>
      let r := (actives th w (o.m == 1)).foldl (fun (a : FloatAcc) k =>
        let md := elemMode th w k a.gens
        let y := f (typeFmt o.ty) md.1 (elem (th.vreg o.vd) w k) (elem (th.vreg o.vs1) w k) (b k)
        { v := putElem a.v w k y.1, flags := a.flags ||| y.2, gens := md.2 })
        { v := th.vreg o.vd, flags := 0, gens := th.gens }
      { (th.putVreg o.vd r.v).addFlags r.flags with gens := r.gens }) s

/-! ## Compares (R163) -/

/-- A compare into mask bits; `legal` names the types of its function. -/
def vecCompare (t : Nat) (i : Instr) (o : VecOp) (legal : Bool) (f : Nat → Nat → Nat → Bool × Fp.Flags) (s : State) :
    Outcome State Fault Refusal :=
  let w := typeWidth o.ty
  vecIssue t i (legal && maskLegal o) (o.vd :: o.vs1 :: o.src2 :: maskReg o)
    (fun th => vecBeats (vecCount th w) w)
    (fun th =>
      let r := (actives th w (o.m == 1)).foldl (fun (a : BitVec 4096 × Fp.Flags) k =>
        let y := f w (elem (th.vreg o.vs1) w k) (elem (th.vreg o.src2) w k)
        (putBit a.1 k y.1, a.2 ||| y.2)) (th.vreg o.vd, 0)
      some ((th.putVreg o.vd r.1).addFlags r.2)) s

def intCompare (t : Nat) (i : Instr) (o : VecOp) (f : Nat → Nat → Nat → Bool) (s : State) : Outcome State Fault Refusal :=
  vecCompare t i o (isIntType o.ty) (fun w a b => (f w a b, 0)) s

/-- A floating-point compare; a signalling NaN sets NV (R224). -/
def floatCompare (t : Nat) (i : Instr) (o : VecOp) (f : Fp.Val → Fp.Val → Bool) (s : State) : Outcome State Fault Refusal :=
  vecCompare t i o (isFloatType o.ty) (fun _ a b =>
    let x := Fp.decode (typeFmt o.ty) a
    let y := Fp.decode (typeFmt o.ty) b
    (f x y, if x.isSig || y.isSig then Fp.fNV else 0)) s

/-! ## Reductions (R164) -/

/-- Combine two partial values, either of which may be empty. -/
def joinParts (f : Nat → Nat → Nat × Fp.Flags) (a b : Option Nat) : Option Nat × Fp.Flags :=
  match a, b with
  | some x, some y => let r := f x y; (some r.1, r.2)
  | some x, .none => (some x, 0)
  | .none, y => (y, 0)

/-- One level of the pairwise tree. -/
def treeLevel (f : Nat → Nat → Nat × Fp.Flags) : List (Option Nat) → List (Option Nat) × Fp.Flags
  | a :: b :: l =>
    let r := joinParts f a b
    let q := treeLevel f l
    (r.1 :: q.1, r.2 ||| q.2)
  | l => (l, 0)

/-- The pairwise tree over at most `2 ^ fuel` positions. -/
def treeFold (f : Nat → Nat → Nat × Fp.Flags) : Nat → List (Option Nat) → Option Nat × Fp.Flags
  | 0, l => (l.headD .none, 0)
  | n + 1, l =>
    if l.length ≤ 1 then (l.headD .none, 0)
    else
      let r := treeLevel f l
      let q := treeFold f n r.1
      (q.1, r.2 ||| q.2)

/-- Position partials: elements of one residue modulo `p` are added in ascending order. -/
def beatParts (f : Nat → Nat → Nat × Fp.Flags) (p : Nat) (xs : List (Nat × Nat)) : List (Option Nat) × Fp.Flags :=
  let r := (List.range p).map fun j =>
    ((xs.filter fun x => x.1 % p == j).foldl (fun (a : Option Nat × Fp.Flags) x =>
      let q := joinParts f a.1 (some x.2)
      (q.1, a.2 ||| q.2)) (.none, 0))
  (r.map (·.1), r.foldl (fun a x => a ||| x.2) 0)

/-- The sum of R164 over indexed values with `p` positions; none when there are none. -/
def orderedSum (f : Nat → Nat → Nat × Fp.Flags) (p : Nat) (xs : List (Nat × Nat)) : Option Nat × Fp.Flags :=
  let r := beatParts f p xs
  let q := treeFold f 10 r.1
  (q.1, r.2 ||| q.2)

/-- A fold in ascending order, for the exact functions. -/
def plainFold (f : Nat → Nat → Nat × Fp.Flags) (xs : List (Nat × Nat)) : Option Nat × Fp.Flags :=
  xs.foldl (fun a x => let q := joinParts f a.1 (some x.2); (q.1, a.2 ||| q.2)) (.none, 0)

/-- A reduction of the active elements of vs1 with element 0 of vs2. -/
def vecReduce (t : Nat) (i : Instr) (o : VecOp) (legal : Bool) (ordered : Bool)
    (f : Thread → Nat → Nat → Nat → Nat × Fp.Flags) (s : State) : Outcome State Fault Refusal :=
  let w := typeWidth o.ty
  vecIssue t i (legal && maskLegal o) (o.vd :: o.vs1 :: o.src2 :: maskReg o)
    (fun th => vecBeats (vecCount th w) w)
    (fun th =>
      let xs := (actives th w (o.m == 1)).map fun k => (k, elem (th.vreg o.vs1) w k)
      let g := f th w
      let r := if ordered then orderedSum g (1024 / w) xs else plainFold g xs
      let q := joinParts g (some (elem (th.vreg o.src2) w 0)) r.1
      if th.vec.start.toNat ≥ vecCount th w then some th
      else some ((th.putVreg o.vd (putElem (th.vreg o.vd) w 0 (q.1.getD 0))).addFlags (r.2 ||| q.2))) s

/-- An exact integer reduction. -/
def intReduce (t : Nat) (i : Instr) (o : VecOp) (f : Nat → Nat → Nat → Nat) (s : State) : Outcome State Fault Refusal :=
  vecReduce t i o (isIntType o.ty) false (fun _ w a b => (f w a b, 0)) s

/-! ## Conversions (R165, R225-R228) -/

/-- Element width of a format code. -/
def codeWidth (c : Nat) : Nat :=
  match c with
  | 0 | 6 => 32
  | 1 | 2 => 16
  | 9 | 10 => 6
  | 11 => 4
  | _ => 8

/-- The pairs VCVT accepts (R225). -/
def cvtPair (src dst : Nat) : Bool :=
  src != dst &&
    ((src ≤ 4 && dst ≤ 4) || (src == 0 && 5 ≤ dst && dst ≤ 11) || (5 ≤ src && src ≤ 11 && dst == 0))

/-- The element format of a Microscaling code. -/
def mxFmt (c : Nat) : Fp.Fmt := (Fp.ofCode c).getD Fp.fp32

/-- Shared exponent of a block of FP32 encodings, or none when a value is not finite (R227). -/
def blockExponent (dst : Nat) (blk : List Nat) : Option Int :=
  let vs := blk.map fun x => Fp.decode Fp.fp32 x
  if vs.any (·.nonFinite) then .none
  else
    let xs := (vs.filter fun v => !v.isZero).map fun v => Fp.log2Val v - Fp.emaxOf dst
    some (xs.foldl max (-127))

/-- One element of a conversion, with its mode and the block scale read or chosen. -/
def cvtElem (src dst : Nat) (md : Fp.Mode) (scale : Nat) (x : Nat) : Nat × Fp.Flags :=
  if Fp.isMx dst then
    if scale = 0xFF then (0, Fp.fNV)
    else Fp.encodeMx (mxFmt dst) md ((Fp.decode Fp.fp32 x).scale (127 - (scale : Int)))
  else if Fp.isMx src then
    if scale = 0xFF then (Fp.canonicalNan Fp.fp32, 0)
    else Fp.encodeVal Fp.fp32 md ((Fp.decode (mxFmt src) x).scale ((scale : Int) - 127))
  else Fp.encodeCode dst md (Fp.decodeCode src x)

/-- The scale byte of block `j` that a conversion into a Microscaling format writes. -/
def blockScale (dst : Nat) (v : BitVec 4096) (l : List Nat) (j : Nat) : Nat :=
  match blockExponent dst ((l.filter fun k => k / 32 == j).map fun k => elem v 32 k) with
  | .none => 0xFF
  | some xs => (xs + 127).toNat

/-- The effect of VCVT on the thread. -/
def convertElems (th : Thread) (o : CvtOp) : Thread :=
  let src := o.src.toNat
  let dst := o.dst.toNat
  let w := Nat.max (codeWidth src) (codeWidth dst)
  let l := actives th w false
  let v1 := th.vreg o.vs1
  let scaleOf (k : Nat) : Nat :=
    if Fp.isMx dst then blockScale dst v1 l (k / 32)
    else if Fp.isMx src then elem (th.vreg o.vs2) 8 (k / 32) else 0
  let r := l.foldl (fun (a : FloatAcc) k =>
    let md := elemMode th w k a.gens
    let y := cvtElem src dst md.1 (scaleOf k) (elem v1 (codeWidth src) k)
    { v := putElem a.v (codeWidth dst) k y.1, flags := a.flags ||| y.2, gens := md.2 })
    { v := th.vreg o.vd, flags := 0, gens := th.gens }
  let th' := { (th.putVreg o.vd r.v).addFlags r.flags with gens := r.gens }
  if Fp.isMx dst then
    th'.putVreg o.vs2 ((l.map (· / 32)).eraseDups.foldl
      (fun x j => putElem x 8 j (blockScale dst v1 l j)) (th'.vreg o.vs2))
  else th'

/-- Bits that VCVT writes both as an active element and as a scale byte, where its two results name one register. -/
def cvtClash (th : Thread) (o : CvtOp) : BitVec 4096 :=
  let w := codeWidth o.dst.toNat
  let l := actives th (Nat.max (codeWidth o.src.toNat) w) false
  l.foldl (fun x k => putElem x w k (2 ^ w - 1)) 0
    &&& (l.map (· / 32)).eraseDups.foldl (fun x j => putElem x 8 j 0xFF) 0

/-- VCVT (R225-R228). Bits that are both an element and a scale byte of one register have no stated value: a free value.
DESIGN CHOICE (log 29). -/
def execVcvt (t : Nat) (o : CvtOp) (s : State) : Outcome State Fault Refusal :=
  let mx := Fp.isMx o.src.toNat || Fp.isMx o.dst.toNat
  let clash := Fp.isMx o.dst.toNat && o.vd == o.vs2
  let r := takeFree 4096 s.m
  vecIssue t (.vcvt t o) (cvtPair o.src.toNat o.dst.toNat && (mx || o.vs2 == 0))
    (o.vd :: o.vs1 :: (if mx then [o.vs2] else []))
    (fun th => let w := Nat.max (codeWidth o.src.toNat) (codeWidth o.dst.toNat); vecBeats (vecCount th w) w)
    (fun th =>
      let th' := convertElems th o
      let both := cvtClash th o
      some (if clash then th'.putVreg o.vd ((th'.vreg o.vd &&& ~~~both) ||| (r.1 &&& both)) else th'))
    (if clash then { s with m := r.2 } else s)

/-! ## Permutation, random bits and masks (R167, R168) -/

/-- A permutation that writes a vector register through `f`; none while a register is awaited. DEDUCED (log 18). -/
def vecPermute (t : Nat) (i : Instr) (o : VecOp) (legal : Bool) (regs : List Reg)
    (f : Thread → Nat → Option (Nat → Option Nat)) (s : State) : Outcome State Fault Refusal :=
  let w := typeWidth o.ty
  vecIssue t i (legal && w != 0 && maskLegal o) (o.vd :: (regs ++ maskReg o))
    (fun th => vecBeats (vecCount th w) w)
    (fun th => (f th w).map fun g =>
      th.putVreg o.vd ((actives th w (o.m == 1)).foldl (fun v k => match g k with
        | some x => putElem v w k x
        | .none => v) (th.vreg o.vd))) s

/-- The scalar operand as a number: the low `w` bits of gs. -/
def scalarB (o : VecOp) (th : Thread) (w : Nat) : Option Nat := (th.src o.src2).map fun (g : Word) => g.toNat % 2 ^ w

/-- VMV (R167). -/
def execVmv (t : Nat) (o : VecOp) (s : State) : Outcome State Fault Refusal :=
  vecPermute t (.vmv t o) o (o.src2 == 0) [o.vs1]
    (fun th w => some fun k => some (elem (th.vreg o.vs1) w k)) s

/-- VBCAST (R167). -/
def execVbcast (t : Nat) (o : VecOp) (s : State) : Outcome State Fault Refusal :=
  vecPermute t (.vbcast t o) o (o.vs1 == 0) []
    (fun th w => (scalarB o th w).map fun b => fun _ => some b) s

/-- VINDEX (R167). -/
def execVindex (t : Nat) (o : VecOp) (s : State) : Outcome State Fault Refusal :=
  vecPermute t (.vindex t o) o (isIntType o.ty && o.vs1 == 0 && o.src2 == 0) []
    (fun _ _ => some fun k => some k) s

/-- VSHDN (R167). -/
def execVshdn (t : Nat) (o : VecOp) (s : State) : Outcome State Fault Refusal :=
  vecPermute t (.vshdn t o) o true [o.vs1]
    (fun th w => (scalarB o th w).map fun b => fun k =>
      some (if k + b < vcMax w then elem (th.vreg o.vs1) w (k + b) else 0)) s

/-- VSHUP (R167). -/
def execVshup (t : Nat) (o : VecOp) (s : State) : Outcome State Fault Refusal :=
  vecPermute t (.vshup t o) o (o.vd != o.vs1) [o.vs1]
    (fun th w => (scalarB o th w).map fun b => fun k =>
      if b ≤ k then some (elem (th.vreg o.vs1) w (k - b)) else .none) s

/-- VEXT (R167): the index is a whole general register. -/
def execVext (t : Nat) (o : VecOp) (s : State) : Outcome State Fault Refusal :=
  let w := typeWidth o.ty
  vecIssue t (.vext t o) (w != 0 && o.m == 0) [o.vs1] (fun _ => 1)
    (fun th => match th.src o.src2 with
      | .none => .none
      | some k =>
        if th.writable o.vd then
          some (th.result o.vd (BitVec.ofNat 64 (if k.toNat < vcMax w then elem (th.vreg o.vs1) w k.toNat else 0)))
        else .none) s

/-- VINS (R167): the value comes from the general register in field 20:16. -/
def execVins (t : Nat) (o : VecOp) (s : State) : Outcome State Fault Refusal :=
  let w := typeWidth o.ty
  vecIssue t (.vins t o) (w != 0 && o.m == 0) [o.vd] (fun _ => 1)
    (fun th => match th.src o.src2, th.src o.vs1 with
      | some k, some x =>
        some (if k.toNat < vcMax w then th.putVreg o.vd (putElem (th.vreg o.vd) w k.toNat (x.toNat % 2 ^ w)) else th)
      | _, _ => .none) s

/-- VRNG (R167, R180): each active element takes the high bits of one draw of its lane. -/
def execVrng (t : Nat) (o : VecOp) (s : State) : Outcome State Fault Refusal :=
  let w := typeWidth o.ty
  vecIssue t (.vrng t o) (isIntType o.ty && o.vs1 == 0 && o.src2 == 0 && maskLegal o) (o.vd :: maskReg o)
    (fun th => vecBeats (vecCount th w) w)
    (fun th =>
      let r := (actives th w (o.m == 1)).foldl (fun (a : BitVec 4096 × Sparse Gen) k =>
        let d := drawLane (laneOf w k) a.2
        (putElem a.1 w k (d.1.toNat / 2 ^ (64 - w)), d.2)) (th.vreg o.vd, th.gens)
      some { th.putVreg o.vd r.1 with gens := r.2 }) s

/-- Mask logic: type 0 and m = 0 (R168). -/
def maskOk (o : VecOp) : Bool := o.ty == 0 && o.m == 0

def vecMask (t : Nat) (i : Instr) (o : VecOp) (f : Bool → Bool → Bool) (s : State) : Outcome State Fault Refusal :=
  vecIssue t i (maskOk o) [o.vd, o.vs1, o.src2] (fun th => vecBeats (vecCount th 8) 8)
    (fun th => some (th.putVreg o.vd ((actives th 8 false).foldl (fun v k =>
      putBit v k (f ((th.vreg o.vs1).getLsbD k) ((th.vreg o.src2).getLsbD k))) (th.vreg o.vd)))) s

/-- A mask summary written to a general register; bits below VCOUNT, whatever VBEGIN holds. -/
def vecMaskScalar (t : Nat) (i : Instr) (o : VecOp) (f : List Nat → Word) (s : State) : Outcome State Fault Refusal :=
  vecIssue t i (maskOk o) [o.vs1] (fun th => vecBeats (vecCount th 8) 8)
    (fun th =>
      if th.writable o.vd then
        some (th.result o.vd (f ((List.range th.vec.count.toNat).filter fun k => (th.vreg o.vs1).getLsbD k)))
      else .none) s

/-- VMCOUNT (R168). -/
def execVmcount (t : Nat) (o : VecOp) (s : State) : Outcome State Fault Refusal :=
  vecMaskScalar t (.vmcount t o) o (fun l => BitVec.ofNat 64 l.length) s

/-- VMLOW (R168). -/
def execVmlow (t : Nat) (o : VecOp) (s : State) : Outcome State Fault Refusal :=
  vecMaskScalar t (.vmlow t o) o (fun l => match l with
    | [] => BitVec.allOnes 64
    | k :: _ => BitVec.ofNat 64 k) s

/-! ## Power (R181, R182) -/

/-- Whether a thread lets the vector unit power down: no task, or HOLD = 0 (its idle interval has passed when the
command comes). DEDUCED (log 30). -/
def letsDown (m : Module) (t : Nat) : Bool :=
  (threadAt m t).run == .idle || !(threadAt m t).vec.hold

/-- VECTOR_POWER_DOWN (R181). -/
def execVectorPowerDown (c : Nat) (s : State) : Outcome State Fault Refusal :=
  onModule (fun m =>
    let k := coreAt m c
    if k.vecUp && letsDown m (2 * c) && letsDown m (2 * c + 1) then setCore c { k with vecUp := false } m else m) s

/-- VECTOR_WAKE (R182). -/
def execVectorWake (c : Nat) (s : State) : Outcome State Fault Refusal :=
  onModule (fun m =>
    let k := coreAt m c
    if k.waking then setCore c { k with vecUp := true, waking := false } m else m) s

/-! ## The arithmetic instructions -/

/-- VADD (R159). -/
def execVadd (t : Nat) (o : VecOp) (s : State) : Outcome State Fault Refusal :=
  vecInt t (.vadd t o) o (plain fun _ a b => a + b) s

/-- VSUB (R159). -/
def execVsub (t : Nat) (o : VecOp) (s : State) : Outcome State Fault Refusal :=
  vecInt t (.vsub t o) o (plain fun _ a b => (a : Int) - b) s

/-- VMUL (R159). -/
def execVmul (t : Nat) (o : VecOp) (s : State) : Outcome State Fault Refusal :=
  vecInt t (.vmul t o) o (plain fun _ a b => a * b) s

/-- VMULH (R159). -/
def execVmulh (t : Nat) (o : VecOp) (s : State) : Outcome State Fault Refusal :=
  vecInt t (.vmulh t o) o (plainS fun w a b => a * b / 2 ^ w) s

/-- VMULHU (R159). -/
def execVmulhu (t : Nat) (o : VecOp) (s : State) : Outcome State Fault Refusal :=
  vecInt t (.vmulhu t o) o (plain fun w a b => ((a * b / 2 ^ w : Nat) : Int)) s

/-- VMIN (R159). -/
def execVmin (t : Nat) (o : VecOp) (s : State) : Outcome State Fault Refusal :=
  vecInt t (.vmin t o) o (plainS fun _ a b => min a b) s

/-- VMAX (R159). -/
def execVmax (t : Nat) (o : VecOp) (s : State) : Outcome State Fault Refusal :=
  vecInt t (.vmax t o) o (plainS fun _ a b => max a b) s

/-- VMINU (R159). -/
def execVminu (t : Nat) (o : VecOp) (s : State) : Outcome State Fault Refusal :=
  vecInt t (.vminu t o) o (plain fun _ a b => ((Nat.min a b : Nat) : Int)) s

/-- VMAXU (R159). -/
def execVmaxu (t : Nat) (o : VecOp) (s : State) : Outcome State Fault Refusal :=
  vecInt t (.vmaxu t o) o (plain fun _ a b => ((Nat.max a b : Nat) : Int)) s

/-- VAND (R159). -/
def execVand (t : Nat) (o : VecOp) (s : State) : Outcome State Fault Refusal :=
  vecInt t (.vand t o) o (plain fun _ a b => ((a &&& b : Nat) : Int)) s

/-- VOR (R159). -/
def execVor (t : Nat) (o : VecOp) (s : State) : Outcome State Fault Refusal :=
  vecInt t (.vor t o) o (plain fun _ a b => ((a ||| b : Nat) : Int)) s

/-- VXOR (R159). -/
def execVxor (t : Nat) (o : VecOp) (s : State) : Outcome State Fault Refusal :=
  vecInt t (.vxor t o) o (plain fun _ a b => ((a ^^^ b : Nat) : Int)) s

/-- VSLL (R159). -/
def execVsll (t : Nat) (o : VecOp) (s : State) : Outcome State Fault Refusal :=
  vecInt t (.vsll t o) o (plain fun w a b => ((a <<< (b % w) : Nat) : Int)) s

/-- VSRL (R159). -/
def execVsrl (t : Nat) (o : VecOp) (s : State) : Outcome State Fault Refusal :=
  vecInt t (.vsrl t o) o (plain fun w a b => ((a >>> (b % w) : Nat) : Int)) s

/-- VSRA (R159). -/
def execVsra (t : Nat) (o : VecOp) (s : State) : Outcome State Fault Refusal :=
  vecInt t (.vsra t o) o (plain fun w a b => natSigned w a / 2 ^ (b % w)) s

/-- VSADD (R160). -/
def execVsadd (t : Nat) (o : VecOp) (s : State) : Outcome State Fault Refusal :=
  vecInt t (.vsadd t o) o (fun _ w a b => satS (natSigned w a + natSigned w b) w) s

/-- VSADDU (R160). -/
def execVsaddu (t : Nat) (o : VecOp) (s : State) : Outcome State Fault Refusal :=
  vecInt t (.vsaddu t o) o (fun _ w a b => satU ((a : Int) + b) w) s

/-- VSSUB (R160). -/
def execVssub (t : Nat) (o : VecOp) (s : State) : Outcome State Fault Refusal :=
  vecInt t (.vssub t o) o (fun _ w a b => satS (natSigned w a - natSigned w b) w) s

/-- VSSUBU (R160). -/
def execVssubu (t : Nat) (o : VecOp) (s : State) : Outcome State Fault Refusal :=
  vecInt t (.vssubu t o) o (fun _ w a b => satU ((a : Int) - b) w) s

/-- VSMULR (R161). -/
def execVsmulr (t : Nat) (o : VecOp) (s : State) : Outcome State Fault Refusal :=
  vecInt t (.vsmulr t o) o (fun fxr w a b => satS (rnd fxr (natSigned w a * natSigned w b) (w - 1)) w) s

/-- VRSRA (R161). -/
def execVrsra (t : Nat) (o : VecOp) (s : State) : Outcome State Fault Refusal :=
  vecInt t (.vrsra t o) o (fun fxr w a b => (rnd fxr (natSigned w a) (b % w), false)) s

/-- VRSRL (R161). -/
def execVrsrl (t : Nat) (o : VecOp) (s : State) : Outcome State Fault Refusal :=
  vecInt t (.vrsrl t o) o (fun fxr w a b => (rnd fxr a (b % w), false)) s

/-- VNARS (R159, R161). -/
def execVnars (t : Nat) (o : VecOp) (s : State) : Outcome State Fault Refusal :=
  vecIntAt t (.vnars t o) o true (fun fxr w a b => satS (rnd fxr (natSigned (2 * w) a) (b % (2 * w))) w) s

/-- VNARU (R159, R161). -/
def execVnaru (t : Nat) (o : VecOp) (s : State) : Outcome State Fault Refusal :=
  vecIntAt t (.vnaru t o) o true (fun fxr w a b => satU (rnd fxr a (b % (2 * w))) w) s

/-- VFADD (R162, R219-R224). -/
def execVfadd (t : Nat) (o : VecOp) (s : State) : Outcome State Fault Refusal :=
  vecFloat t (.vfadd t o) o true 1 (fun f md _ a b => Fp.add f md a b) s

/-- VFSUB (R162, R219-R224). -/
def execVfsub (t : Nat) (o : VecOp) (s : State) : Outcome State Fault Refusal :=
  vecFloat t (.vfsub t o) o true 1 (fun f md _ a b => Fp.sub f md a b) s

/-- VFMUL (R162, R219-R224). -/
def execVfmul (t : Nat) (o : VecOp) (s : State) : Outcome State Fault Refusal :=
  vecFloat t (.vfmul t o) o true 1 (fun f md _ a b => Fp.mul f md a b) s

/-- VFMA (R162, R219-R224). -/
def execVfma (t : Nat) (o : VecOp) (s : State) : Outcome State Fault Refusal :=
  vecFloat t (.vfma t o) o true 1 (fun f md c a b => Fp.fma f md c a b) s

/-- VFNMS (R162, R219-R224). -/
def execVfnms (t : Nat) (o : VecOp) (s : State) : Outcome State Fault Refusal :=
  vecFloat t (.vfnms t o) o true 1 (fun f md c a b => Fp.fnms f md c a b) s

/-- VFMIN (R162, R219-R224). -/
def execVfmin (t : Nat) (o : VecOp) (s : State) : Outcome State Fault Refusal :=
  vecFloat t (.vfmin t o) o true 1 (fun f _ _ a b => Fp.minNum f a b) s

/-- VFMAX (R162, R219-R224). -/
def execVfmax (t : Nat) (o : VecOp) (s : State) : Outcome State Fault Refusal :=
  vecFloat t (.vfmax t o) o true 1 (fun f _ _ a b => Fp.maxNum f a b) s

/-- VFDIV (R162, R219-R224). -/
def execVfdiv (t : Nat) (o : VecOp) (s : State) : Outcome State Fault Refusal :=
  vecFloat t (.vfdiv t o) o true 8 (fun f md _ a b => Fp.div f md a b) s

/-- VFSQRT (R162, R219-R224). -/
def execVfsqrt (t : Nat) (o : VecOp) (s : State) : Outcome State Fault Refusal :=
  vecFloat t (.vfsqrt t o) o (o.scalar == 0 && o.src2 == 0) 8 (fun f md _ a _ => Fp.sqrt f md a) s

/-- VCEQ (R163). -/
def execVceq (t : Nat) (o : VecOp) (s : State) : Outcome State Fault Refusal :=
  intCompare t (.vceq t o) o (fun _ a b => a == b) s

/-- VCNE (R163). -/
def execVcne (t : Nat) (o : VecOp) (s : State) : Outcome State Fault Refusal :=
  intCompare t (.vcne t o) o (fun _ a b => a != b) s

/-- VCLT (R163). -/
def execVclt (t : Nat) (o : VecOp) (s : State) : Outcome State Fault Refusal :=
  intCompare t (.vclt t o) o (fun w a b => natSigned w a < natSigned w b) s

/-- VCLTU (R163). -/
def execVcltu (t : Nat) (o : VecOp) (s : State) : Outcome State Fault Refusal :=
  intCompare t (.vcltu t o) o (fun _ a b => a < b) s

/-- VCLE (R163). -/
def execVcle (t : Nat) (o : VecOp) (s : State) : Outcome State Fault Refusal :=
  intCompare t (.vcle t o) o (fun w a b => natSigned w a ≤ natSigned w b) s

/-- VCLEU (R163). -/
def execVcleu (t : Nat) (o : VecOp) (s : State) : Outcome State Fault Refusal :=
  intCompare t (.vcleu t o) o (fun _ a b => a ≤ b) s

/-- VCFEQ (R163). -/
def execVcfeq (t : Nat) (o : VecOp) (s : State) : Outcome State Fault Refusal :=
  floatCompare t (.vcfeq t o) o (Fp.eqVal) s

/-- VCFLT (R163). -/
def execVcflt (t : Nat) (o : VecOp) (s : State) : Outcome State Fault Refusal :=
  floatCompare t (.vcflt t o) o (Fp.ltVal) s

/-- VCFLE (R163). -/
def execVcfle (t : Nat) (o : VecOp) (s : State) : Outcome State Fault Refusal :=
  floatCompare t (.vcfle t o) o (fun a b => Fp.ltVal a b || Fp.eqVal a b) s

/-- VCFUN (R163). -/
def execVcfun (t : Nat) (o : VecOp) (s : State) : Outcome State Fault Refusal :=
  floatCompare t (.vcfun t o) o (fun a b => a.isNan || b.isNan) s

/-- VRSUM (R164). -/
def execVrsum (t : Nat) (o : VecOp) (s : State) : Outcome State Fault Refusal :=
  intReduce t (.vrsum t o) o (fun w a b => (a + b) % 2 ^ w) s

/-- VRMAX (R164). -/
def execVrmax (t : Nat) (o : VecOp) (s : State) : Outcome State Fault Refusal :=
  intReduce t (.vrmax t o) o (fun w a b => if natSigned w a < natSigned w b then b else a) s

/-- VRMIN (R164). -/
def execVrmin (t : Nat) (o : VecOp) (s : State) : Outcome State Fault Refusal :=
  intReduce t (.vrmin t o) o (fun w a b => if natSigned w b < natSigned w a then b else a) s

/-- VRMAXU (R164). -/
def execVrmaxu (t : Nat) (o : VecOp) (s : State) : Outcome State Fault Refusal :=
  intReduce t (.vrmaxu t o) o (fun _ a b => Nat.max a b) s

/-- VRMINU (R164). -/
def execVrminu (t : Nat) (o : VecOp) (s : State) : Outcome State Fault Refusal :=
  intReduce t (.vrminu t o) o (fun _ a b => Nat.min a b) s

/-- VRFSUM (R164). -/
def execVrfsum (t : Nat) (o : VecOp) (s : State) : Outcome State Fault Refusal :=
  vecReduce t (.vrfsum t o) o (isFloatType o.ty) true (fun th _ a b => Fp.add (typeFmt o.ty) (foldMode th) a b) s

/-- VRFMAX (R164). -/
def execVrfmax (t : Nat) (o : VecOp) (s : State) : Outcome State Fault Refusal :=
  vecReduce t (.vrfmax t o) o (isFloatType o.ty) false (fun _ _ a b => Fp.maxNum (typeFmt o.ty) a b) s

/-- VRFMIN (R164). -/
def execVrfmin (t : Nat) (o : VecOp) (s : State) : Outcome State Fault Refusal :=
  vecReduce t (.vrfmin t o) o (isFloatType o.ty) false (fun _ _ a b => Fp.minNum (typeFmt o.ty) a b) s

/-- VMAND (R168). -/
def execVmand (t : Nat) (o : VecOp) (s : State) : Outcome State Fault Refusal :=
  vecMask t (.vmand t o) o (fun a b => a && b) s

/-- VMOR (R168). -/
def execVmor (t : Nat) (o : VecOp) (s : State) : Outcome State Fault Refusal :=
  vecMask t (.vmor t o) o (fun a b => a || b) s

/-- VMXOR (R168). -/
def execVmxor (t : Nat) (o : VecOp) (s : State) : Outcome State Fault Refusal :=
  vecMask t (.vmxor t o) o (fun a b => a != b) s

/-- VMANDN (R168). -/
def execVmandn (t : Nat) (o : VecOp) (s : State) : Outcome State Fault Refusal :=
  vecMask t (.vmandn t o) o (fun a b => a && !b) s

end Sys2Proof.Machine
end

