-- ==== Sys2Proof/Machine/VecMem.lean ====
section
/-! DEFINITION. Vector loads, stores and reductions, and their two fault modes (R169-R176, R260). -/

namespace Sys2Proof.Machine

open Host (Outcome)

/-! ## One element -/

/-- The place of an element: alignment, address range, translation, and the thread's tile order (R170). -/
def elemPlace (t : Nat) (need : Need) (bytes : Nat) (va : Word) : Acc Place := do
  let m ← get
  if va.toNat % bytes ≠ 0 then stop (.exc 0x03 va.toNat)
  else if bitsOf va 63 48 ≠ 0 then stop (.exc 0x05 va.toNat)
  else
    let p ← resolveMem (threadAgent m t) need va.toNat
    if tileOwns (threadAt m t) p bytes then stop .wait else pure p

/-- A reduction of one element is sent to its home (R258, R260). -/
def sendReduction (t : Nat) (op : BitVec 3) (p : Place) (va operand : Nat) : Acc Unit := do
  l1Evict t p
  match p with
  | .mem a => modify fun m =>
      (arrive (homeSlice a) { ask := .reduce (some t) op operand, addr := a } m).2
  | .remote n a =>
    let m ← get
    let r := sendRequest (.reduce (some t)) va
      { type := 0x04, op := op.setWidth 8, dst := BitVec.ofNat 12 n, src := m.fabric.node, addr := lineOf a,
        payload := redPayload op.toNat a operand } m
    match r.1 with
    | .sent => set r.2
    | .wait => stop .wait
    | .unreachable => set r.2; stop (.fault 0x08 3 va)
  | _ => stop (.exc 0x05 va)

/-! ## Runs over the active elements -/

/-- What a run over elements has done: values read, faults met, and what blocks it, if anything. -/
structure ElemRun where
  vals : List (Nat × Nat) := []
  faults : List (Nat × Stop) := []
  blocked : Option Stop := .none
  m : Module
  deriving DecidableEq, Repr

/-- Perform the elements in ascending order; a fault ends the run in precise mode. -/
def runElems (precise : Bool) (f : Nat → Acc Nat) : List Nat → ElemRun → ElemRun
  | [], r => r
  | i :: l, r =>
    match (f i).go r.m with
    | (.ok x, m) => runElems precise f l { r with vals := r.vals ++ [(i, x)], m := m }
    | (.error s, m) =>
      if s.waits then { r with blocked := some s }
      else
        let r := { r with faults := r.faults ++ [(i, s)], m := m }
        if precise then r else runElems precise f l r

/-- KIND of a log entry (R174). -/
def Stop.kind : Stop → BitVec 4
  | .fault _ _ _ => 1
  | .exc 0x03 _ => 2
  | .exc _ _ => 3
  | _ => 4

/-- The log entry of a faulting element. -/
def logEntry (th : Thread) (va : Word) (i : Nat) (s : Stop) : LogEntry :=
  { addr := va, pc := th.pc, level := th.priv.level, kind := s.kind, element := BitVec.ofNat 9 i }

/-- Vector register `vd` with the values a run read. -/
def putVals (w : Nat) (vals : List (Nat × Nat)) (v : BitVec 4096) : BitVec 4096 :=
  vals.foldl (fun v x => putElem v w x.1 x.2) v

/-- What stopped the element at `va`, told by the element's address (R172). -/
def Stop.ofElem (va : Nat) (s : Stop) : Stop :=
  match s with
  | .poison _ pa => .poison va pa
  | s => s

/-- A precise access ends at its lowest faulting element, at `va`, with VBEGIN there (R172). -/
def preciseFault (t i va : Nat) (s : Stop) (m : Module) : Module :=
  let th := threadAt m t
  let m := setThread t { th with vec := { th.vec with start := BitVec.ofNat 9 i } } m
  settleStop t i (s.ofElem va) m m

/-- An imprecise access retires with its elements outstanding (R173). DEDUCED (log 19). -/
def imprecise (t : Nat) (vd : Option Reg) (log : List LogEntry) (m : Module) : Module :=
  let th := threadAt m t
  vecRetire t 0 { th with vec := { th.vec with pending := th.vec.pending ++ [{ vd := vd, faults := log }] } } m

/-- The start every vector memory instruction shares; `k` gets base and stride. -/
def vmemIssue (t : Nat) (i : Instr) (o : VMemOp) (legal : Bool) (k : Thread → Word → Word → Module → Module) (s : State) :
    Outcome State Fault Refusal :=
  issue t (fun th m =>
    if !legal then illegal t i m
    else if !(coreAt m (t / 2)).vecUp then wakeVector t m
    else if th.vecAwaits o.vregs then m
    else match vmemScalars o th with
      | .none => m
      | some (b, st) => k th b st m) s

/-- Active elements of a form VM instruction. -/
def vmemActives (o : VMemOp) (th : Thread) : List Nat := actives th o.width (o.m == 1)

/-- A blocked run leaves everything as it was, but for the request that a line of another module needs. -/
def blockedRun (t : Nat) (s : Stop) (m : Module) : Module := settleStop t 0 s m m

/-- VLD (R169-R173). -/
def execVld (t : Nat) (o : VMemOp) (s : State) : Outcome State Fault Refusal :=
  vmemIssue t (.vld t o) o (o.legal true) (fun th b st m =>
    let addr (i : Nat) : Word := vmemAddress o th b st i
    let r := runElems th.vec.precise (fun i => do
      let p ← elemPlace t .read o.bytes (addr i)
      threadRead t p (addr i).toNat o.bytes o.hint true) (vmemActives o th) { m := m }
    match r.blocked with
    | some x => blockedRun t x m
    | .none =>
      let th' := threadAt r.m t
      let m' := setThread t (th'.putVreg o.v (putVals (8 * o.bytes) r.vals (th'.vreg o.v))) (dropSpent t r.m)
      if th.vec.precise then
        match r.faults with
        | (i, x) :: _ => preciseFault t i (addr i).toNat x m'
        | [] => vecRetire t 0 (threadAt m' t) m'
      else
        let m' := r.faults.foldl (fun m x => noteError t x.2 m) m'
        imprecise t (some o.v) (r.faults.map fun x => logEntry th (addr x.1) x.1 x.2) m') s

/-- The elements `l` of an imprecise store some of which fault, `m` being the module before it: each that does not
fault is written or not, as a free value says (R173). `r` is a run of them all, which tells the faults. -/
def storeSome (act : Nat → Acc Nat) (l : List Nat) (r : ElemRun) (m : Module) : ElemRun :=
  let bad := r.faults.map (·.1)
  let f := takeFree 512 m
  let x := runElems false act (l.filter fun i => !bad.contains i && f.1.getLsbD i) { m := f.2 }
  { x with faults := r.faults }

/-- A store or reduction over elements, of which `act` performs one (R172, R173). -/
def storeElems (t : Nat) (o : VMemOp) (th : Thread) (addr : Nat → Word) (act : Nat → Acc Nat) (m : Module) : Module :=
  let l := vmemActives o th
  let r := runElems th.vec.precise act l { m := m }
  match r.blocked, r.faults with
  | some x, _ => blockedRun t x m
  | .none, [] =>
    if th.vec.precise then vecRetire t 0 (threadAt r.m t) (dropSpent t r.m) else imprecise t .none [] (dropSpent t r.m)
  | .none, (i, x) :: _ =>
    if th.vec.precise then preciseFault t i (addr i).toNat x (dropSpent t r.m)
    else
      let r := storeSome act l r m
      match r.blocked with
      | some x => blockedRun t x m
      | .none =>
        imprecise t .none (r.faults.map fun x => logEntry th (addr x.1) x.1 x.2)
          (r.faults.foldl (fun m x => noteError t x.2 m) (dropSpent t r.m))

/-- VST (R169-R173). -/
def execVst (t : Nat) (o : VMemOp) (s : State) : Outcome State Fault Refusal :=
  vmemIssue t (.vst t o) o (o.legal false) (fun th b st =>
    let addr (i : Nat) : Word := vmemAddress o th b st i
    storeElems t o th addr
      (fun i => do
        let p ← elemPlace t .write o.bytes (addr i)
        threadWrite t p (addr i).toNat o.bytes (elem (th.vreg o.v) (8 * o.bytes) i) o.hint true
        pure 0)) s

/-- A vector reduction (R260). -/
def vecReduction (t : Nat) (i : Instr) (o : VMemOp) (op : BitVec 3) (s : State) : Outcome State Fault Refusal :=
  vmemIssue t i o (o.legal false && o.bytes == redBytes op.toNat) (fun th b st =>
    let addr (k : Nat) : Word := vmemAddress o th b st k
    storeElems t o th addr
      (fun k => do
        let p ← elemPlace t .update o.bytes (addr k)
        sendReduction t op p (addr k).toNat (elem (th.vreg o.v) (8 * o.bytes) k)
        pure 0)) s

/-- VRED_INT32_ADD (R260). -/
def execVredInt32Add (t : Nat) (o : VMemOp) (s : State) : Outcome State Fault Refusal :=
  vecReduction t (.vredInt32Add t o) o 0 s

/-- VRED_FP32_ADD (R260, R261). -/
def execVredFp32Add (t : Nat) (o : VMemOp) (s : State) : Outcome State Fault Refusal :=
  vecReduction t (.vredFp32Add t o) o 1 s

/-- VRED_BF16_ADD (R260, R261). -/
def execVredBf16Add (t : Nat) (o : VMemOp) (s : State) : Outcome State Fault Refusal :=
  vecReduction t (.vredBf16Add t o) o 2 s

/-- VRED_INT32_MAX (R260). -/
def execVredInt32Max (t : Nat) (o : VMemOp) (s : State) : Outcome State Fault Refusal :=
  vecReduction t (.vredInt32Max t o) o 3 s

/-- VRED_FP32_MAX (R260, R261). -/
def execVredFp32Max (t : Nat) (o : VMemOp) (s : State) : Outcome State Fault Refusal :=
  vecReduction t (.vredFp32Max t o) o 4 s

/-- VRED_BF16_MAX (R260, R261). -/
def execVredBf16Max (t : Nat) (o : VMemOp) (s : State) : Outcome State Fault Refusal :=
  vecReduction t (.vredBf16Max t o) o 5 s

/-- One fault enters the log, or is lost (R174). -/
def VecState.addLog (x : VecState) (e : LogEntry) : VecState :=
  if x.log.length < 8 then { x with log := x.log ++ [e] }
  else { x with lpend := true, lost := if x.lost = 255 then 255 else x.lost + 1 }

/-- VECTOR_ELEMENT_ANSWER (R173): the oldest outstanding access is answered; after a fault a load's whole register
is undefined. -/
def execVectorElementAnswer (t : Nat) (s : State) : Outcome State Fault Refusal :=
  onModule (fun m =>
    let th := threadAt m t
    match th.vec.pending with
    | [] => m
    | p :: rest =>
      let th := { th with vec := p.faults.foldl VecState.addLog { th.vec with pending := rest } }
      match p.vd, p.faults with
      | some r, _ :: _ =>
        let f := takeFree 4096 m
        setThread t (th.putVreg r f.1) f.2
      | _, _ => setThread t th m) s

end Sys2Proof.Machine
end

