-- ==== Sys2Proof/Machine/Atomics.lean ====
section
/-! DEFINITION. Fences, atomics, scalar reductions and the data that loads and atomics bring back (R111, R255,
R258-R262). -/

namespace Sys2Proof.Machine

open Host (Outcome)

/-! ## Fences (R255) -/

/-- Keys of the lines of a range, page by page, as pairs (first byte, end) of line keys. -/
def rangeKeys (t : Nat) : Nat → Nat → Nat → Acc (List (Nat × Nat))
  | 0, _, _ => pure []
  | fuel + 1, va, n => do
    if n = 0 then pure []
    else
      let k := Nat.min n (4096 - va % 4096)
      let m ← get
      let p ← resolve (threadAgent m t) .read va
      let rest ← rangeKeys t fuel (va + k) (n - k)
      match p with
      | .mem a => pure ((a, a + k) :: rest)
      | .remote nd a => pure (((nd + 1) * 2 ^ 40 + a, (nd + 1) * 2 ^ 40 + a + k) :: rest)
      | _ => pure rest

/-- Whether a line holds bytes of one of the ranges. -/
def inRanges (l : List (Nat × Nat)) (x : L1Line) : Bool := l.any fun r => x.line < r.2 && r.1 < x.line + 128

/-- A fence: earlier accesses complete, report, then `act` on the L1; it retires once its write-backs are done. -/
def fenceWith (t : Nat) (act : Acc Unit) (m : Module) : Module :=
  if !accessesDone m t then m
  else atReport t false (fun m =>
    withAccess t act (fun _ m => if accessesDone m t then retire t 1 m else m) m) m

/-- FENCE (R255). -/
def execFence (t : Nat) (s : State) : Outcome State Fault Refusal :=
  issue t (fun _ => fenceWith t (pure ())) s

/-- The address fault of a range: the lowest address above 2^48 - 1 (R255). -/
def rangeFault (base len : Nat) : Option Nat :=
  if base ≥ 2 ^ 48 then some base else if base + len > 2 ^ 48 then some (2 ^ 48) else .none

/-- FENCE.WB and FENCE.INV over the whole L1 or a range. DEDUCED (log 24). -/
def rangeFence (t : Nat) (i : Instr) (rs1 rs2 : Reg) (inv : Bool) (s : State) : Outcome State Fault Refusal :=
  issue t (fun th m =>
    if rs2 = 0 then
      if rs1 ≠ 0 then illegal t i m else fenceWith t (l1Clean t (fun _ => true) inv) m
    else match th.src rs1, th.src rs2 with
      | some b, some n =>
        if n = 0 then fenceWith t (pure ()) m
        else match rangeFault b.toNat n.toNat with
          | some a => raiseExc t 0x05 a m
          | .none => fenceWith t (do
              let l ← rangeKeys t (n.toNat / 4096 + 2) b.toNat n.toNat
              l1Clean t (inRanges l) inv) m
      | _, _ => m) s

/-- FENCE.WB (R255). -/
def execFenceWb (t : Nat) (rs1 rs2 : Reg) (s : State) : Outcome State Fault Refusal :=
  rangeFence t (.fenceWb t rs1 rs2) rs1 rs2 false s

/-- FENCE.INV (R255). -/
def execFenceInv (t : Nat) (rs1 rs2 : Reg) (s : State) : Outcome State Fault Refusal :=
  rangeFence t (.fenceInv t rs1 rs2) rs1 rs2 true s

/-- FENCE.I (R255). -/
def execFenceI (t : Nat) (s : State) : Outcome State Fault Refusal :=
  issue t (fun _ => fenceWith t (do
    l1Clean t (fun _ => true) false
    modify (dropFetched (t / 2)))) s

/-! ## Data that comes back (R111, R112, R253, R259) -/

/-- A thread with one outstanding access more. -/
def Thread.await (th : Thread) (p : PendingLoad) : Thread := { th with loads := th.loads ++ [p] }

/-- A register no outstanding access names. -/
def Thread.unnamed (th : Thread) (rd : Reg) : Bool := !(th.loads.any fun p => p.rd == rd)

/-- The data `v` of a load to `rd` that an update of the register discarded stands behind that update's undoing (R106). -/
def Thread.forward (th : Thread) (rd : Reg) (v : Word) : Thread :=
  { th with loads := th.loads.map fun p => match p.undo with
      | some (b, _, true) => if b = rd then { p with undo := some (b, v, false) } else p
      | _ => p }

/-- The data of the access `p` reaches its register, and its line the data L1, unless the line is there by now, or the
L1 has given it up since. -/
def takeData (t : Nat) (p : PendingLoad) (v : Word) (m : Module) : Module :=
  let install : Acc Unit := match p.fill with
    | some f =>
      if p.line.isNone || (l1Find (coreAt m (t / 2)) f.1).isSome then pure ()
      else l1Install t { line := f.1, data := f.2.1, poison := f.2.2.1, hint := f.2.2.2 }
    | .none => pure ()
  withAccess t install (fun _ m =>
    let th := threadAt m t
    let th := { th with loads := th.loads.filter fun q => q.rd != p.rd }
    setThread t (if p.squashed then th else if p.dead then th.forward p.rd v else th.putReg p.rd v) m) m

/-- The access to `rd` whose data has arrived. -/
def arrived (th : Thread) (rd : Reg) (atomic : Bool) : Option (PendingLoad × Word) :=
  match th.loads.find? fun p => p.rd == rd && p.atomic == atomic with
  | some p => p.data.map fun v => (p, v)
  | .none => .none

/-- LOAD_DATA_RETURN (R111, R112). -/
def execLoadDataReturn (t : Nat) (rd : Reg) (s : State) : Outcome State Fault Refusal :=
  onModule (fun m => match arrived (threadAt m t) rd false with
    | some (p, v) => takeData t p v m
    | .none => m) s

/-- ATOMIC_RESULT (R259). -/
def execAtomicResult (t : Nat) (rd : Reg) (s : State) : Outcome State Fault Refusal :=
  onModule (fun m => match arrived (threadAt m t) rd true with
    | some (p, v) => takeData t p v m
    | .none => m) s

/-! ## Atomics (R258, R259) -/

/-- An atomic is sent to its home slice, or to another module's (R244). -/
def sendAtomic (t : Nat) (rd : Reg) (op : BitVec 4) (bytes : Nat) (p : Place) (va operand compare : Nat) : Acc Unit := do
  l1Evict t p
  match p with
  | .mem a => modify fun m =>
      (arrive (homeSlice a) { ask := .atomic t rd op bytes operand compare, addr := a } m).2
  | .remote n a =>
    let m ← get
    let r := sendRequest (.atomic t rd bytes) va
      { type := 0x03, op := (BitVec.ofBool (bytes == 8) ++ op).setWidth 8, dst := BitVec.ofNat 12 n,
        src := m.fabric.node, addr := a, payload := bytesOf 8 operand ++ bytesOf 8 compare } m
    match r.1 with
    | .sent => set r.2
    | .wait => stop .wait
    | .unreachable => set r.2; stop (.fault 0x08 3 va)
  | _ => stop (.exc 0x05 va)

/-- Bytes of an atomic (R259). -/
def atomicBytes (dbl : BitVec 1) : Nat := if dbl = 1 then 8 else 4

/-- An atomic with operation `op`: `rd` is compared (ACAS) and receives the old value. -/
def atomic (t : Nat) (op : BitVec 4) (rd rs1 rs2 : Reg) (dbl : BitVec 1) (s : State) : Outcome State Fault Refusal :=
  issue t (fun th m =>
    match th.src rs1, th.src rs2, (if op = 9 then th.src rd else some 0) with
    | some a, some b, some c =>
      if !th.unnamed rd then m
      else
        let n := atomicBytes dbl
        let act : Acc Unit := do
          let p ← elemPlace t .update n a
          modify fun m => setThread t ((threadAt m t).await
            { rd := rd, atomic := true, pc := th.pc, addr := a.toNat, latch := th.latch, loops := th.loops }) m
          sendAtomic t rd op n p a.toNat (b.toNat % 2 ^ (8 * n)) (c.toNat % 2 ^ (8 * n))
        withAccess t act (fun _ m => if (threadAt m t).exc.isSome then m else retire t 1 m) m
    | _, _, _ => m) s

/-- ASWAP (R259). -/
def execAswap (t : Nat) (rd rs1 rs2 : Reg) (dbl : BitVec 1) (s : State) : Outcome State Fault Refusal :=
  atomic t 0 rd rs1 rs2 dbl s

/-- AADD (R259). -/
def execAadd (t : Nat) (rd rs1 rs2 : Reg) (dbl : BitVec 1) (s : State) : Outcome State Fault Refusal :=
  atomic t 1 rd rs1 rs2 dbl s

/-- AAND (R259). -/
def execAand (t : Nat) (rd rs1 rs2 : Reg) (dbl : BitVec 1) (s : State) : Outcome State Fault Refusal :=
  atomic t 2 rd rs1 rs2 dbl s

/-- AOR (R259). -/
def execAor (t : Nat) (rd rs1 rs2 : Reg) (dbl : BitVec 1) (s : State) : Outcome State Fault Refusal :=
  atomic t 3 rd rs1 rs2 dbl s

/-- AXOR (R259). -/
def execAxor (t : Nat) (rd rs1 rs2 : Reg) (dbl : BitVec 1) (s : State) : Outcome State Fault Refusal :=
  atomic t 4 rd rs1 rs2 dbl s

/-- AMIN (R259). -/
def execAmin (t : Nat) (rd rs1 rs2 : Reg) (dbl : BitVec 1) (s : State) : Outcome State Fault Refusal :=
  atomic t 5 rd rs1 rs2 dbl s

/-- AMAX (R259). -/
def execAmax (t : Nat) (rd rs1 rs2 : Reg) (dbl : BitVec 1) (s : State) : Outcome State Fault Refusal :=
  atomic t 6 rd rs1 rs2 dbl s

/-- AMINU (R259). -/
def execAminu (t : Nat) (rd rs1 rs2 : Reg) (dbl : BitVec 1) (s : State) : Outcome State Fault Refusal :=
  atomic t 7 rd rs1 rs2 dbl s

/-- AMAXU (R259). -/
def execAmaxu (t : Nat) (rd rs1 rs2 : Reg) (dbl : BitVec 1) (s : State) : Outcome State Fault Refusal :=
  atomic t 8 rd rs1 rs2 dbl s

/-- ACAS (R259). -/
def execAcas (t : Nat) (rd rs1 rs2 : Reg) (dbl : BitVec 1) (s : State) : Outcome State Fault Refusal :=
  atomic t 9 rd rs1 rs2 dbl s

/-! ## Scalar reductions (R260) -/

/-- A scalar reduction with operation `op`. -/
def reduction (t : Nat) (op : BitVec 3) (rs1 rs2 : Reg) (s : State) : Outcome State Fault Refusal :=
  issue t (fun th m =>
    match th.src rs1, th.src rs2 with
    | some a, some b =>
      let n := redBytes op.toNat
      let act : Acc Unit := do
        let p ← elemPlace t .update n a
        sendReduction t op p a.toNat (b.toNat % 2 ^ (8 * n))
      withAccess t act (fun _ m => retire t 1 m) m
    | _, _ => m) s

/-- RED_INT32_ADD (R260). -/
def execRedInt32Add (t : Nat) (rs1 rs2 : Reg) (s : State) : Outcome State Fault Refusal := reduction t 0 rs1 rs2 s

/-- RED_FP32_ADD (R260, R261). -/
def execRedFp32Add (t : Nat) (rs1 rs2 : Reg) (s : State) : Outcome State Fault Refusal := reduction t 1 rs1 rs2 s

/-- RED_BF16_ADD (R260, R261). -/
def execRedBf16Add (t : Nat) (rs1 rs2 : Reg) (s : State) : Outcome State Fault Refusal := reduction t 2 rs1 rs2 s

/-- RED_INT32_MAX (R260). -/
def execRedInt32Max (t : Nat) (rs1 rs2 : Reg) (s : State) : Outcome State Fault Refusal := reduction t 3 rs1 rs2 s

/-- RED_FP32_MAX (R260, R261). -/
def execRedFp32Max (t : Nat) (rs1 rs2 : Reg) (s : State) : Outcome State Fault Refusal := reduction t 4 rs1 rs2 s

/-- RED_BF16_MAX (R260, R261). -/
def execRedBf16Max (t : Nat) (rs1 rs2 : Reg) (s : State) : Outcome State Fault Refusal := reduction t 5 rs1 rs2 s

end Sys2Proof.Machine
end

