-- ==== Sys2Proof/Machine/Loops.lean ====
section
/-! DEFINITION. Clock sources and multiplying loops: their boot settings and frequencies (R402, R403). -/

namespace Sys2Proof.Machine

/-- The boot setting of a loop: source and multiplier, 8.16 fixed point. L8 is set by firmware; the value that gives its
domain output is a DESIGN CHOICE (log 16). -/
def bootSetting (n : Nat) : BitVec 2 × BitVec 24 :=
  if n < 4 then (1, 20 * 65536)
  else if n = 4 then (1, 16 * 65536)
  else if n = 5 then (1, 15 * 65536)
  else if n < 8 then (2, 4 * 65536)
  else if n = 8 then (1, 873857)
  else (1, 10 * 65536)

/-- A loop as its registers read after reset. -/
def bootLoop (n : Nat) : Loop := { src := (bootSetting n).1, mult := (bootSetting n).2 }

def loopAt (m : Module) (n : Nat) : Loop := Sparse.get (bootLoop n) m.clocks.loops n
def setLoop (n : Nat) (l : Loop) (m : Module) : Module :=
  { m with clocks := { m.clocks with loops := Sparse.set m.clocks.loops n l } }

/-- Nominal frequency of a source, in kHz. -/
def sourceKhz (c : Nat) : Nat :=
  if c = 0 then 200000 else if c = 1 then 100000 else if c = 2 then 156250 else 1000

def sourceGood (m : Module) (c : Nat) : Bool := m.clocks.srcGood.getLsbD c

/-- A product in units of kHz / 65,536. -/
def productOf (src mult : Nat) : Nat := sourceKhz src * mult

def khz (n : Nat) : Nat := 65536 * n

/-- The product of a loop: 400 MHz while it coasts (R408). DEDUCED (log 53). -/
def Loop.product (l : Loop) : Nat := if l.coast then khz 400000 else productOf l.src.toNat l.mult.toNat

/-- The smallest divider from `lo` that keeps a product at or below 125 MHz (R405). -/
def slowDivider (f lo : Nat) : Nat :=
  ((List.range 65).find? fun d => lo ≤ d && 1 ≤ d && f ≤ d * khz 125000).getD 64

/-- A stopped loop starts again at its own setting: it relocks, or coasts on a failed source (R408, R414).
DEDUCED (log 54). -/
def Loop.restart (good : Bool) (l : Loop) : Loop :=
  if good then { l with stopped := false, lock := false, coast := false, phase := .relock, target := (l.src, l.mult, l.div) }
  else { l with stopped := false, lock := false, coast := true, coasted := true }

def relockKept (n : Nat) (m : Module) : Module :=
  setLoop n ((loopAt m n).restart (sourceGood m (loopAt m n).src.toNat)) m

/-- The loop of a running or relocking core domain has reached its setting in STANDBY exit: the module is in RUN. -/
def checkRun (m : Module) : Module :=
  if m.clocks.standby && m.clocks.moving && (List.range 4).all (fun n => (loopAt m n).phase == .none) then
    { m with clocks := { m.clocks with standby := false, moving := false } }
  else m

end Sys2Proof.Machine
end

