-- ==== Sys2Proof/Machine/Rings.lean ====
section
/-! DEFINITION. Submission and completion rings: doorbells, enable and disable, descriptor fetch and interrupt moderation
(R32, R38-R48, R56, R58, R61, R69). -/

namespace Sys2Proof.Machine

open Host

/-- Submission rings are numbered 0-1,023 (R37). -/
def ringCount : Nat := 1024

/-! ## Stopping a ring -/

/-- Target ring and tag of an abort (R59). -/
def abortRing (e : Entry) : Nat := field e.bytes 8 2 % 1024
def abortTag (e : Entry) : Nat := field e.bytes 16 4

/-- Every abort that watches ring `r` stops watching it: the ring fetches no more (R61). -/
def endWatch (r : Nat) (m : Module) : Module :=
  setPool (m.hg.pool.map fun e =>
    match e.work with
    | .abort a => if abortRing e = r then { e with work := .abort { a with watch := .none } } else e
    | _ => e) m

/-- A ring halts: it fetches nothing, and the error vector is raised (R48). -/
def haltRing (r : Nat) (x : Ring) (m : Module) : Module :=
  signalRingError (endWatch r (setRing r { x with halted := true, half := .none } m))

/-! ## Doorbells (R41, R42) -/

/-- Whether a doorbell value is a submission tail the ring takes. -/
def tailAllowed (x : Ring) (t : Nat) : Bool :=
  let n := x.sqLog.toNat
  x.enable && !x.halted && t < 2 ^ (n + 1)
    && used n x.sqHead.toNat x.sqTail.toNat ≤ used n x.sqHead.toNat t && used n x.sqHead.toNat t ≤ 2 ^ n

def sqDoorbell (r : Nat) (value : BitVec 32) (m : Module) : Module :=
  let x := ringAt m r
  let t := bitsOf value 16 0
  if tailAllowed x t then setRing r { x with sqTail := BitVec.ofNat 17 t } m
  else haltRing r { x with dbErr := true } m

def cqDoorbell (r : Nat) (value : BitVec 32) (m : Module) : Module :=
  let x := ringAt m r
  let h := bitsOf value 16 0
  if headAllowed x.cqLog.toNat x.cqHead.toNat x.cqTail.toNat h then
    setRing r { x with cqHead := BitVec.ofNat 17 h } m
  else haltRing r { x with cqDbErr := true } m

/-- SQ_DB (R41). -/
def execSqDb (r : Nat) (value : BitVec 32) (s : State) : Outcome State Fault Refusal :=
  onModule (fun m => if r < ringCount then sqDoorbell r value m else m) s

/-- CQ_DB (R42). -/
def execCqDb (r : Nat) (value : BitVec 32) (s : State) : Outcome State Fault Refusal :=
  onModule (fun m => if r < ringCount then cqDoorbell r value m else m) s

/-! ## Enable and disable (R46, R47) -/

/-- An accepted enable leaves STANDBY (R414). DEDUCED (log 54). -/
def leaveStandby (m : Module) : Module :=
  if m.clocks.standby && !m.clocks.moving then
    checkRun ([0, 1, 2, 3].foldl (fun m n => relockKept n m)
      { m with clocks := { m.clocks with standbyReq := false, moving := true } })
  else m

/-- A LOGSIZE a ring may have (R38). -/
def logAllowed (n : BitVec 5) : Bool := 4 ≤ n.toNat && n.toNat ≤ 16

/-- A write of SQ_CTRL with ENABLE = 1: while the ring is enabled it changes PRIO alone. DEDUCED (log 31). -/
def enableRing (r : Nat) (ctrl : BitVec 32) (m : Module) : Module :=
  let x := { ringAt m r with prio := BitVec.ofNat 2 (bitsOf ctrl 30 29) }
  if x.enable then setRing r x m
  else
    let x := { x with sqLog := BitVec.ofNat 5 (bitsOf ctrl 28 24) }
    if m.host.select ≠ 0 ∧ logAllowed x.sqLog ∧ logAllowed x.cqLog ∧ x.quiesced then
      let x := { x with
        enable := true, quiesced := false, halted := false
        sqHead := 0, sqTail := 0, cqHead := 0, cqTail := 0
        owed := 0, modPending := 0, firstTime := 0, half := .none }
      leaveStandby (setRing r x m)
    else setRing r { x with enReject := true } m

/-- A write of SQ_CTRL with ENABLE = 0: fetching stops at once; LOGSIZE is taken when the ring was disabled. -/
def disableRing (r : Nat) (ctrl : BitVec 32) (m : Module) : Module :=
  let x := { ringAt m r with prio := BitVec.ofNat 2 (bitsOf ctrl 30 29) }
  if x.enable then
    endWatch r (setRing r { x with enable := false, half := .none, quiesced := x.owed == 0 } m)
  else setRing r { x with sqLog := BitVec.ofNat 5 (bitsOf ctrl 28 24) } m

/-- RING_ENABLE (R46). -/
def execRingEnable (r : Nat) (ctrl : BitVec 32) (s : State) : Outcome State Fault Refusal :=
  onModule (fun m => if r < ringCount then enableRing r ctrl m else m) s

/-- RING_DISABLE (R47). -/
def execRingDisable (r : Nat) (ctrl : BitVec 32) (s : State) : Outcome State Fault Refusal :=
  onModule (fun m => if r < ringCount then disableRing r ctrl m else m) s

/-- QUIESCED (R47): the last record of a disabled ring has been written. -/
def execQuiesced (r : Nat) (s : State) : Outcome State Fault Refusal :=
  onModule (fun m =>
    let x := ringAt m r
    if r < ringCount && !x.enable && x.owed == 0 then setRing r { x with quiesced := true } m else m) s

/-! ## Revision (R32) -/

/-- SUPPORTED of ROOT_IFREV: revision 1 alone. -/
def supported : BitVec 16 := 0x0002

/-- A write of ROOT_IFREV. -/
def writeIfrev (value : BitVec 32) (m : Module) : Module :=
  let v := BitVec.ofNat 4 value.toNat
  let cleared := m.host.reject && !value.getLsbD 9
  if v = m.host.select then { m with host := { m.host with reject := cleared } }
  else if (v = 0 ∨ supported.getLsbD v.toNat) ∧ !(m.host.rings.any fun x => x.2.enable) then
    { m with host := { m.host with select := v, reject := cleared } }
  else { m with host := { m.host with reject := true } }

/-- ROOT_IFREV_WRITE (R32). -/
def execRootIfrevWrite (value : BitVec 32) (s : State) : Outcome State Fault Refusal :=
  onModule (writeIfrev value) s

/-! ## Descriptor fetch (R40, R45, R56, R61) -/

/-- Pool entries at most (R96). -/
def poolSize : Nat := 8192

/-- A record can still be owed on the ring's completion ring (R56). -/
def completionSpace (x : Ring) : Bool :=
  let n := x.cqLog.toNat
  used n x.cqHead.toNat x.cqTail.toNat + x.owed + 1 ≤ 2 ^ n

/-- Slots of a ring no request has read yet. -/
def unread_ (x : Ring) : Nat :=
  used x.sqLog.toNat x.sqHead.toNat x.sqTail.toNat - (if x.half.isSome then 1 else 0)

/-- Whether the fetch unit may read the ring now. -/
def fetchable (m : Module) (x : Ring) : Bool :=
  x.enable && !x.halted && unread_ x > 0 && completionSpace x && m.hg.pool.length < poolSize

/-- Whether the module fetches at all (R33, R414). -/
def fetching (m : Module) : Bool :=
  alive m && m.host.select != 0 && !m.clocks.standby && !m.clocks.moving

/-- The ring the fetch unit reads next: highest PRIO, and round robin after the ring served last (R45). -/
def nextRing (m : Module) : Option Nat :=
  if !fetching m then .none
  else
    let l := m.host.rings.filter fun p => fetchable m p.2
    let top := l.foldl (fun k p => Nat.max k p.2.prio.toNat) 0
    let best := (l.filter fun p => p.2.prio.toNat == top).map (·.1)
    let last := Sparse.get (ringCount - 1) m.host.served top
    match best.find? (fun r => r > last) with
    | some r => some r
    | .none => best.head?

/-- Aborts that watch a ring and name a tag (R60, R61). -/
def watchers (m : Module) (r tag : Nat) : List Nat :=
  (m.hg.pool.filter fun e =>
    match e.work with
    | .abort a => a.watch.isSome && abortRing e == r && abortTag e == tag
    | _ => false).map (·.id)

/-- The head of ring `r` moves from `before` past `k` slots: a watch whose tail it has passed ends (R61). -/
def moveWatch (r : Nat) (before k : Nat) (m : Module) : Module :=
  let n := (ringAt m r).sqLog.toNat
  setPool (m.hg.pool.map fun e =>
    match e.work with
    | .abort a =>
      match a.watch with
      | some t =>
        if abortRing e = r ∧ used n before t.toNat ≤ k then { e with work := .abort { a with watch := .none } } else e
      | .none => e
    | _ => e) m

/-- A descriptor whose slots have all arrived is fetched: it enters the pool, or is aborted before its start when
an abort watches for it (R56, R60-R62). -/
def fetchDescriptor (r : Nat) (bytes : List Byte) (m : Module) : Module :=
  let x := ringAt m r
  let n := x.sqLog.toNat
  let slots := if bytes.length > 64 then 2 else 1
  let head := x.sqHead.toNat
  let e : Entry :=
    { id := m.hg.nextId, ring := r, index := BitVec.ofNat 16 (head % 2 ^ n), bytes := bytes
      squall := m.squall.active }
  let m := setRing r { x with
    sqHead := BitVec.ofNat 17 (advance n head slots), owed := x.owed + 1, half := .none } m
  let m := { m with hg := { m.hg with nextId := m.hg.nextId + 1 } }
  let ids := watchers m r (tagOf e)
  let m := moveWatch r head slots m
  if ids.isEmpty then
    let m := setPool (m.hg.pool ++ [e]) m
    cascade m.hg.pool.length m
  else
    let m := mapAborts ids (fun a => { a with found := true }) m
    retireEntryWith { e with abortedBy := ids } abortedBefore m

/-- Bus address of the next slot of a ring that no request has read (R38, R40). -/
def slotAddress (x : Ring) : Nat :=
  x.sqBase.toNat + 64 * ((x.sqHead.toNat + if x.half.isSome then 1 else 0) % 2 ^ x.sqLog.toNat)

/-- A slot as it was written: 64 bytes. -/
def slotBytes (bs : List Byte) : List Byte := (bs ++ List.replicate 64 0).take 64

/-- The ring's next slot is read from host memory: an ordinary descriptor, the first slot of a critical one, or its
second. `put` is what host software has written there before the read reaches the slot, if anything (R44). -/
def takeSlot (r : Nat) (m : Module) (put : List Byte) : Module :=
  let x := ringAt m r
  if !fetchable m x then m
  else
    let a := slotAddress x
    let m := if put.isEmpty then m else putHost a (slotBytes put) m
    let slot := getHost m a 64
    match x.half with
    | some first => fetchDescriptor r (first ++ slot) m
    | .none =>
      if critical (byteAt slot 0) then setRing r { x with half := some slot } m else fetchDescriptor r slot m

/-- Slots one request may read: 16, up to the tail, and not past the ring's last entry. -/
def requestSlots (x : Ring) : Nat :=
  let n := x.sqLog.toNat
  let first := (x.sqHead.toNat + if x.half.isSome then 1 else 0) % 2 ^ n
  Nat.min 16 (Nat.min (unread_ x) (2 ^ n - first))

/-- DESCRIPTOR_FETCH (R45, R56): a read request of up to 16 slots. The operand has one element for each slot of the request:
what host software writes there before the read reaches it, or nothing where the slot stays as it is. DEDUCED (log 31). -/
def execDescriptorFetch (slots : List (List Byte)) (s : State) : Outcome State Fault Refusal :=
  onModule (fun m =>
    match nextRing m with
    | .none => m
    | some r =>
      let x := ringAt m r
      let m := { m with host := { m.host with served := Sparse.set m.host.served x.prio.toNat r } }
      (slots.take (requestSlots x)).foldl (takeSlot r) m) s

/-- The ring whose read fails (R69). FLAGS.CRITICAL of the record is 0, also where the first slot of a critical descriptor
had been read. DESIGN CHOICE (log 31). -/
def failFetch (r : Nat) (m : Module) : Module :=
  let x := ringAt m r
  let index := x.sqHead.toNat % 2 ^ x.sqLog.toNat
  let e : Entry := { id := 0, ring := r, index := BitVec.ofNat 16 index, bytes := [], squall := m.squall.active }
  let m := setRing r { x with owed := x.owed + 1 } m
  let m := writeRecordTo r (recordBytes m e { status := 0x50 }) true m
  haltRing r { ringAt m r with fetchErr := true } m

/-- DESCRIPTOR_READ_FAILURE (R69). -/
def execDescriptorReadFailure (s : State) : Outcome State Fault Refusal :=
  onModule (fun m =>
    match nextRing m with
    | .none => m
    | some r =>
      let x := ringAt m r
      failFetch r { m with host := { m.host with served := Sparse.set m.host.served x.prio.toNat r } }) s

/-! ## Moderation timer (R58) -/

/-- MODTIMER_EXPIRY (R58). -/
def execModtimerExpiry (r : Nat) (s : State) : Outcome State Fault Refusal :=
  onModule (fun m =>
    let x := ringAt m r
    if alive m && r < ringCount && x.modPending != 0 && x.modTimer != 0
        && (m.time - x.firstTime).toNat ≥ micros x.modTimer.toNat then
      signal x.vector (setRing r { x with modPending := 0 } m)
    else m) s

end Sys2Proof.Machine
end

