-- ==== Sys2Proof/Machine/Checks.lean ====
section
/-! DEFINITION. The checks of R51 that need no key: opcode, revision, reserved fields, arguments and presence, opcode
by opcode (R52, R71, R86, R88, R324, R338, R379, R386, R406, R419, R421, R435). -/

namespace Sys2Proof.Machine

/-- A failed check: STATUS and COUNT0. -/
abbrev Failure := Nat × Nat

/-! ## Reserved fields (check 3) -/

/-- The opcodes of R50. -/
def knownOpcode (op : Nat) : Bool := op ≤ 7 || critical op

/-- Reserved bits of the common header (R49). -/
def reservedHeader : List (Nat × Nat) := [(1, 0x0C), (2, 0xC0), (3, 0xFF)]

/-- Reserved bits of the high bytes of `n` 16-bit words from byte `lo`. -/
def highBytes (lo n mask : Nat) : List (Nat × Nat) := (List.range n).map fun k => (lo + 2 * k + 1, mask)

/-- Reserved bits of a critical descriptor before its body (R71). -/
def reservedCritical : List (Nat × Nat) := (8, 0xFC) :: wholeBytes 9 7

/-- Reserved bits of a body, lowest byte first. -/
def reservedBody (op : Nat) : List (Nat × Nat) :=
  match op with
  | 0x00 => wholeBytes 8 56
  | 0x01 => [(9, 0x80), (11, 0xFE), (13, 0xFC), (15, 0xFF)] ++ highBytes 40 4 0x30 ++ highBytes 48 4 0x70
      ++ wholeBytes 62 2
  | 0x02 => wholeBytes 32 32
  | 0x03 => [(9, 0xF0), (10, 0x80)] ++ highBytes 32 4 0x30 ++ highBytes 40 4 0x70 ++ wholeBytes 54 10
  | 0x04 => (9, 0xF0) :: wholeBytes 13 51
  | 0x05 => [(9, 0xFC), (10, 0xFE)] ++ wholeBytes 11 5 ++ wholeBytes 20 44
  | 0x06 => [(41, 0xE0), (43, 0x70), (45, 0x70), (46, 0xFE)] ++ wholeBytes 47 17
  | 0x07 => [(9, 0xF0), (10, 0xF8), (11, 0xFE)] ++ highBytes 12 4 0xF0 ++ wholeBytes 56 8
  | 0x80 => reservedCritical ++ [(25, 0xFC), (26, 0x80)] ++ wholeBytes 27 5 ++ wholeBytes 72 40
  | 0x81 => reservedCritical ++ [(40, 0xFE)] ++ wholeBytes 41 7 ++ wholeBytes 64 48
  | 0x82 => reservedCritical ++ [(25, 0xF0), (26, 0xC0), (27, 0xC0), (28, 0xFC), (31, 0xF0)]
      ++ highBytes 32 8 0xF0 ++ wholeBytes 52 4 ++ wholeBytes 80 32
  | 0x83 => reservedCritical ++ [(25, 0xF0)] ++ wholeBytes 29 3 ++ wholeBytes 36 76
  | 0x84 => reservedCritical ++ [(24, 0xF0), (29, 0xFF)] ++ wholeBytes 31 81
  | 0x85 => reservedCritical ++ wholeBytes 25 7 ++ [(40, 0xE0), (43, 0xFC), (47, 0xFC), (50, 0xFC), (53, 0xFC)]
      ++ wholeBytes 54 58
  | 0x86 => reservedCritical ++ [(32, 0xFC)] ++ wholeBytes 33 79
  | _ => []

/-! ## Argument checks (check 4): offsets of the failing fields -/

/-- `off` when the test fails. -/
def failing (bad : Bool) (off : Nat) : List Nat := if bad then [off] else []

/-- The lowest of some offsets. -/
def lowest : List Nat → Option Nat
  | [] => .none
  | x :: xs => some (xs.foldl Nat.min x)

/-- Opcodes whose header carries an ASID (R49). -/
def usesAsid (op : Nat) : Bool := op == 1 || op == 2 || op == 3 || op == 6

/-- An address with bits 63:48 set. -/
def tall (a : Nat) : Bool := a ≥ 2 ^ 48

/-- FP32 bits below zero, or not finite; −0 is neither. -/
def negativeOrWild (x : Nat) : Bool := natBits x 30 23 == 255 || (natBit x 31 && natBits x 30 0 != 0)

/-- PLACE, WIDTH, ARRAYS and the other fields of a task (R87). -/
def placeOf (e : Entry) : Nat := field e.bytes 8 2 % 2 ^ 15
def widthOf (e : Entry) : Nat := field e.bytes 10 2
def levelOf (e : Entry) : Nat := byteAt e.bytes 12 % 2
def spreadOf (e : Entry) : Bool := natBit (byteAt e.bytes 12) 1
def arraysOf (e : Entry) : Nat := natBits (byteAt e.bytes 12) 3 2
def invStart (e : Entry) : Bool := natBit (byteAt e.bytes 12) 4
def refMode (e : Entry) : Bool := natBit (byteAt e.bytes 12) 6
def preciseMode (e : Entry) : Bool := natBit (byteAt e.bytes 12) 7
def gateRole (e : Entry) : Nat := byteAt e.bytes 13 % 4
def stackLog (e : Entry) : Nat := byteAt e.bytes 14
def taskStep (e : Entry) : BitVec 48 := BitVec.ofNat 48 (field e.bytes 56 6)

/-- Cores below a handle; none where the handle names nothing a task may be placed on. -/
def targetCores (place : Nat) : Option (Nat × Nat) :=
  match unitOf place with
  | some u => if placeable u then some (coresBelow u) else .none
  | .none => .none

/-- Failing fields of a task (R88). -/
def taskFailures (m : Module) (e : Entry) : List Nat :=
  let b := e.bytes
  let width := widthOf e
  let arrays := arraysOf e
  let entry := field b 16 8
  let base := field b 32 8
  let log := stackLog e
  let step := field b 56 6
  let wide := match targetCores (placeOf e) with
    | some c => handlePresent m.board.part (placeOf e) && width > (if arrays = 1 then c.2 else 2 * c.2)
    | .none => false
  failing (targetCores (placeOf e)).isNone 8
    ++ failing (width > 384 || wide) 10
    ++ failing (arrays == 3) 12
    ++ failing (gateRole e != 0 && step == 0) 13
    ++ failing (log != 0 && !(12 ≤ log && log ≤ 30)) 14
    ++ failing (tall entry || entry % 4 != 0) 16
    ++ failing (tall base || (log == 0 && base != 0) || (log != 0 && base % 2 ^ log != 0)) 32
    ++ failing (step != 0 && gateRole e == 0) 56
    ++ (if width = 0 then
          failing (placeOf e != 0) 8 ++ failing (byteAt b 12 != 0) 12 ++ failing (gateRole e != 0) 13
            ++ failing (log != 0) 14 ++ failing (entry != 0) 16 ++ failing (field b 24 8 != 0) 24
            ++ failing (base != 0) 32 ++ failing (step != 0) 56
        else [])

/-- Failing fields of a copy (R52). DEDUCED (log 32). -/
def copyFailures (e : Entry) : List Nat :=
  let n := field e.bytes 24 8
  failing (tall (field e.bytes 8 8)) 8 ++ failing (tall (field e.bytes 16 8)) 16
    ++ failing (n == 0 || n > 2 ^ 40) 24

/-- Fields of a layer update (R337). -/
def layerOf (e : Entry) : Nat := field e.bytes 8 2 % 4096
def ruleOf (e : Entry) : Nat := byteAt e.bytes 10 % 4
def updateStack (e : Entry) : Nat := byteAt e.bytes 11 % 8
def updateStep (e : Entry) : BitVec 48 := BitVec.ofNat 48 (field e.bytes 48 6)

/-- An update of a step that has passed (R356). -/
def staleStep (m : Module) (e : Entry) : Bool := updateStep e != 0 && updateStep e < m.gate.stepCount

/-- Failing fields of a layer update (R338, R356). -/
def updateFailures (m : Module) (e : Entry) : List Nat :=
  let b := e.bytes
  let flags := byteAt b 10
  let param := field b 16 8
  let gs := field b 24 8
  failing ((natBit flags 2 || natBit flags 3) && (ruleOf e == 0 || ruleOf e == 3)) 10
    ++ failing (negativeOrWild (field b 12 4)) 12
    ++ failing (param == 0 || param % 128 != 0 || tall param) 16
    ++ failing (gs % 4 != 0 || tall gs) 24
    ++ failing (updateStep e == 0 || staleStep m e) 48

/-- Failing fields of a token set or clear (R86). -/
def tokenFailures (e : Entry) : List Nat :=
  let n := field e.bytes 10 2
  failing (n == 0 || field e.bytes 8 2 + n > 4096) 10 ++ failing (byteAt e.bytes 12 > 1) 12

/-- Failing fields of a stash and Haze configuration (R324). -/
def hazeFailures (e : Entry) : List Nat :=
  let bad (off al : Nat) : List Nat := failing (tall (field e.bytes off 8) || field e.bytes off 8 % al != 0) off
  bad 8 128 ++ bad 16 8 ++ bad 24 8 ++ bad 32 128 ++ failing (field e.bytes 40 2 > 4095) 40

/-- An area of local memory that a Weir entry may name (R386). -/
def areaAllowed (p : Part) (a n : Nat) : Bool :=
  a % 128 == 0 &&
    ((extBase ≤ a && a + n ≤ reservedBase)
      || (a < extBase && stackPresent p (stackOf a) && a + n ≤ (stackOf a + 1) * basinBytes))

/-- HOME fields of a Weir table write or body. -/
def homeField (b : List Byte) (r : Nat) : Nat := field b (12 + 2 * r) 2

/-- Failing fields of a Weir table write (R386). -/
def weirFailures (m : Module) (e : Entry) : List Nat :=
  let b := e.bytes
  let n := byteAt b 10
  let homes := (List.range (Nat.min n 4)).map (homeField b)
  let own := homes.contains m.fabric.node.toNat
  let slots := field b 24 2
  let ovSlots := field b 26 2
  let size := field b 28 4
  let part := m.board.part
  failing (n > 4) 10
    ++ ((List.range 4).map fun r =>
        failing ((r ≥ n && homeField b r != 0)
          || (r < n && (List.range (Nat.min n 4)).any fun q => q != r && homeField b q == homeField b r)) (12 + 2 * r)).flatten
    ++ failing (natBit (byteAt b 11) 0 == false && ovSlots != 0) 26
    ++ (if own then
          failing (field b 22 2 == 0 || field b 22 2 > 1024) 22
            ++ failing (slots + ovSlots == 0 || slots + ovSlots > 65536) 24
            ++ failing (size % 128 != 0 || size < 128 || size > 65536) 28
            ++ failing (!areaAllowed part (field b 32 8) (slots * size)) 32
            ++ failing (!areaAllowed part (field b 40 8) (ovSlots * size)) 40
            ++ failing (!areaAllowed part (field b 48 8) (16 + 8 * (slots + ovSlots))) 48
        else
          [(20, 2), (22, 2), (24, 2), (26, 2), (28, 4), (32, 8), (40, 8), (48, 8)].filterMap fun f =>
            if field b f.1 f.2 ≠ 0 then some f.1 else .none)

/-- Failing fields of a descriptor that needs no key. -/
def ordinaryFailures (m : Module) (e : Entry) : List Nat :=
  let op := opcodeOf e
  failing (!usesAsid op && asidOf e != 0) 2 ++
    (match op with
      | 1 => taskFailures m e
      | 2 => copyFailures e
      | 3 => updateFailures m e
      | 4 => tokenFailures e
      | 6 => hazeFailures e
      | 7 => weirFailures m e
      | _ => [])

/-! ## Presence (check 5) -/

/-- The first absent unit a descriptor names. DEDUCED (log 37). -/
def absentUnit (m : Module) (e : Entry) : Option Nat :=
  let need (h : Nat) : Option Nat := if handlePresent m.board.part h then .none else some h
  match opcodeOf e with
  | 1 => if widthOf e = 0 then .none else need (placeOf e)
  | 3 => need (handleStack (updateStack e))
  | 7 => need handleWeir
  | 0x82 => need (handleWay 0)
  | _ => .none

/-! ## The checks in order (R51) -/

/-- Checks 1 to 3. -/
def earlyChecks (m : Module) (e : Entry) : Option Failure :=
  if !knownOpcode (opcodeOf e) then some (0x40, 0)
  else if revOf e ≠ m.host.select.toNat then some (0x41, revOf e)
  else (firstNonzero e.bytes (reservedHeader ++ reservedBody (opcodeOf e))).map fun off => (0x42, off)

/-- Checks 4 and 5 of a descriptor that needs no key. -/
def lateChecks (m : Module) (e : Entry) : Option Failure :=
  match lowest (ordinaryFailures m e) with
  | some off => some (0x43, off)
  | .none => (absentUnit m e).map fun h => (0x44, h)

/-- Every check a descriptor meets before the authenticator, if it is critical (R73). -/
def descriptorCheck (m : Module) (e : Entry) : Option Failure :=
  match earlyChecks m e with
  | some f => some f
  | .none => if critical (opcodeOf e) then .none else lateChecks m e

/-- What the checks of a descriptor find; they are made once. DEDUCED (log 31). -/
def failureOf (m : Module) (e : Entry) : Option Failure := if e.checked then .none else descriptorCheck m e

/-! ## Descriptors that fail -/

/-- A descriptor retires without effect (R51); a late update counts (R356). -/
def failDescriptor (e : Entry) (f : Failure) (m : Module) : Module :=
  let late := opcodeOf e == 3 && f == (0x43, 48) && staleStep m e
  let m := completeEntry e f.1 f.2 0 0 m
  if late then count .update 0 5 1 m else m

end Sys2Proof.Machine
end

