-- ==== Sys2Proof/Machine/Turn.lean ====
section
/-! DEFINITION. Whose turn it is in the Headgate: readiness, admission order, placement, and the place of a descriptor in a
cycle (R83, R86, R89-R91, R98, R321). -/

namespace Sys2Proof.Machine

/-! ## Vote banks (R310) -/

/-- The bank of a step: 0 for an even one. -/
def bankIndex (step : BitVec 48) : Nat := step.toNat % 2

def bankAt (g : Gate) (b : Nat) : Bank := if b = 0 then g.bank0 else g.bank1
def putBank (b : Nat) (k : Bank) (g : Gate) : Gate := if b = 0 then { g with bank0 := k } else { g with bank1 := k }
def stepBank (m : Module) (step : BitVec 48) : Bank := bankAt m.gate (bankIndex step)
/-- FENCE is satisfied: no earlier descriptor of the ring is in the pool (R49). DEDUCED (log 31). -/
def fenceOpen (m : Module) (e : Entry) : Bool :=
  !fenced e || !(m.hg.pool.takeWhile fun x => x.id != e.id).any fun x => x.ring == e.ring

/-- The Headgate runs: the module is alive and in RUN (R414, R430). -/
def working (m : Module) : Bool := alive m && !m.clocks.standby && !m.clocks.moving

/-! ## Readiness and order (R89) -/

/-- Every input word names a set token, and FENCE is satisfied. -/
def ready (m : Module) (e : Entry) : Bool :=
  (validTokens (inWords e)).all (fun t => m.hg.tokens.getLsbD t) && fenceOpen m e

/-- Pool entries in admission order: ring PRIO, highest first, then fetch order. -/
def admissionOrder (m : Module) : List Entry :=
  ([3, 2, 1, 0].map fun p => m.hg.pool.filter fun e => (ringAt m e.ring).prio.toNat == p).flatten

/-! ## Placement (R90, R91, R98) -/

/-- ARRAYS of the task a thread runs; none for an idle thread. -/
def arraysHeld (m : Module) (t : Nat) : Option Nat :=
  let th := threadAt m t
  if th.run = .idle then .none else some th.tile.grant.toNat

/-- The table of R90. -/
def arraysAllow (arrays : Nat) (other : Option Nat) : Bool :=
  match other with
  | .none | some 0 => true
  | some 2 => arrays == 0 || arrays == 2
  | some _ => arrays == 0

/-- A thread lies below the target reserved for another task (R98). -/
def reservedAgainst (m : Module) (p t : Nat) : Bool :=
  match m.hg.rsv with
  | .none => false
  | some r =>
    r.entry != p && (match targetCores r.handle with
      | some c => c.1 ≤ t / 2 && t / 2 < c.1 + c.2
      | .none => false)

/-- Whether a thread is a free slot for entry `e`, whose threads given so far are `given`. -/
def freeSlot (m : Module) (e : Entry) (given : List Nat) (t : Nat) : Bool :=
  let other := if t % 2 = 0 then t + 1 else t - 1
  let held := if given.contains other then some (arraysOf e) else arraysHeld m other
  (threadAt m t).run == .idle && !given.contains t && !unitGated m (handleCore (t / 2))
    && arraysAllow (arraysOf e) held && !reservedAgainst m e.id t

/-- Free slots given in ascending order, up to the width; threads given, newest first. -/
def giveInOrder (m : Module) (e : Entry) (width : Nat) : List Nat → List Nat → List Nat
  | [], given => given
  | t :: ts, given =>
    if given.length = width then given
    else giveInOrder m e width ts (if freeSlot m e given t then t :: given else given)

/-- One pass over cores: the lowest free thread of each core; pass 0 passes over cores that have one. -/
def givePass (m : Module) (e : Entry) (width : Nat) (first : Bool) : List Nat → List Nat → List Nat
  | [], given => given
  | c :: cs, given =>
    if given.length = width then given
    else if first && (given.contains (2 * c) || given.contains (2 * c + 1)) then givePass m e width first cs given
    else if freeSlot m e given (2 * c) then givePass m e width first cs ((2 * c) :: given)
    else if freeSlot m e given (2 * c + 1) then givePass m e width first cs ((2 * c + 1) :: given)
    else givePass m e width first cs given

/-- The threads of a task in index order, when all of them can be placed now. -/
def placement (m : Module) (e : Entry) : Option (List Nat) :=
  let width := widthOf e
  if width = 0 then some []
  else
    match targetCores (placeOf e) with
    | .none => .none
    | some c =>
      let cores := (List.range c.2).map (c.1 + ·)
      let given :=
        if spreadOf e then givePass m e width false cores (givePass m e width true cores [])
        else giveInOrder m e width ((List.range (2 * c.2)).map (2 * c.1 + ·)) []
      if given.length = width then some given.reverse else .none

/-! ## The scan and the token phase (R83, R86, R89) -/

/-- What an opcode needs beside readiness to be admitted by the scan: a task its slots and the cycle's one admission, an
update its open gate (R90, R321). Token descriptors and aborts act in phases of their own. -/
def opcodeAdmits (m : Module) (e : Entry) : Bool :=
  match opcodeOf e with
  | 1 => !m.hg.tookTask && (placement m e).isSome
  | 3 => (stepBank m (updateStep e)).state == .opened && (stepBank m (updateStep e)).step == updateStep e
  | 4 | 5 => false
  | _ => true

/-- Whether the scan would admit an entry, were it tested now. -/
def candidate (m : Module) (e : Entry) : Bool :=
  unadmitted e && ready m e && (failureOf m e).isNone && opcodeAdmits m e

/-- No entry that the scan tests before `e` can be admitted; one whose admission waits blocks none (R89). A fetched entry
stands before another fetched one, but before none that has entered the pool. DEDUCED (log 33). -/
def itsTurn (m : Module) (e : Entry) : Bool :=
  !((admissionOrder m).takeWhile fun x => x.id != e.id).any fun x =>
    candidate m x && !x.held && (x.stage == .waiting || e.stage == .fetched)

/-- A token descriptor that could act. -/
def tokenActs (m : Module) (e : Entry) : Bool :=
  opcodeOf e == 4 && unadmitted e && fenceOpen m e && (failureOf m e).isNone

/-- Whether a descriptor may be decoded now: one that the scan admits in its turn, a sound token descriptor as the first of
its ring, once a cycle; any other at once. -/
def inTurn (m : Module) (e : Entry) : Bool :=
  if tokenActs m e then
    !m.hg.actedRings.contains e.ring
      && !((m.hg.pool.takeWhile fun x => x.id != e.id).any fun x => x.ring == e.ring && tokenActs m x)
  else !candidate m e || (m.squall.skip == 0 && itsTurn m e)

/-- The descriptor `p`, when its opcode is `op` and it may be decoded now. -/
def decodable (m : Module) (p : Nat) (op : Nat → Bool) : Option Entry :=
  match entryAt m p with
  | some e => if working m && unadmitted e && op (opcodeOf e) && fenceOpen m e && inTurn m e then some e else .none
  | .none => .none

/-- A command that decodes descriptor `p`: a failing one retires, a sound one acts. -/
def onDescriptor (p : Nat) (op : Nat → Bool) (f : Entry → Module → Module) (m : Module) : Module :=
  match decodable m p op with
  | .none => m
  | some e =>
    match failureOf m e with
    | some x => failDescriptor e x m
    | .none => f e m

end Sys2Proof.Machine
end

