-- ==== Sys2Proof/Machine/Descriptors.lean ====
section
/-! DEFINITION. Ordinary descriptors: no-op, copy, token set and clear, abort, and Weir table write (R50, R52, R59-R64, R86, R386). -/

namespace Sys2Proof.Machine

open Host

/-- Admission of an entry with its work. -/
def admitEntry (e : Entry) (w : Work) (m : Module) : Module :=
  let m := { m with hg := { m.hg with moved := true, stuck := 0 } }
  setEntry { e with stage := .admitted, work := w } m

/-- NOOP (R50). -/
def execNoop (p : Nat) (s : State) : Outcome State Fault Refusal :=
  onModule (onDescriptor p (· == 0) fun e m => completeEntry e 0 0 0 0 m) s

/-! ## Tokens (R86) -/

/-- Tokens of a range that hold `v`. -/
def tokensHolding (m : Module) (first n : Nat) (v : Bool) : Nat :=
  ((List.range n).filter fun i => m.hg.tokens.getLsbD (first + i) == v).length

/-- A token descriptor acts and retires: its ring has acted in this cycle. -/
def actTokens (set : Bool) (e : Entry) (m : Module) : Module :=
  let first := field e.bytes 8 2
  let n := field e.bytes 10 2
  let changed := tokensHolding m first n (!set)
  let range := (List.range n).map (first + ·)
  let m := if set then setTokens range m else range.foldl (fun m t => clearToken t m) m
  let m := { m with hg := { m.hg with actedRings := e.ring :: m.hg.actedRings } }
  completeEntry e 0 changed 0 0 m

/-- Whether a token descriptor's OP sets; one whose OP is neither fails its check in either command. -/
def tokenOp (m : Module) (p : Nat) (set : Bool) : Bool :=
  match entryAt m p with
  | some e => (byteAt e.bytes 12 == 0) != set
  | .none => false

/-- TOKEN_SET (R86). -/
def execTokenSet (p : Nat) (s : State) : Outcome State Fault Refusal :=
  onModule (fun m => if tokenOp m p true then onDescriptor p (· == 4) (actTokens true) m else m) s

/-- TOKEN_CLEAR (R86). -/
def execTokenClear (p : Nat) (s : State) : Outcome State Fault Refusal :=
  onModule (fun m => if tokenOp m p false then onDescriptor p (· == 4) (actTokens false) m else m) s

/-! ## Accesses of a descriptor's engine -/

/-- An access of entry `e`, run on unit `unit`, has stopped: `m` is the module before it. The third part tells that
it met poisoned data or a host that refused, which ends the descriptor (R250, R252, R425). -/
def stopEntry (e : Entry) (unit : Nat) (s : Stop) (wait : Module → Module) (m : Module) : Bool × Module :=
  let faultAt (kind access va : Nat) (m : Module) : Module :=
    raiseFault (.entry e.id)
      { kind := kind, access := access, asid := asidOf e, unit := unit, tag := tagOf e, ring := e.ring, vaddr := va }
      (wait m)
  match s with
  | .wait | .fetch _ _ _ _ | .miss _ _ _ | .register _ | .clean _ => (false, s.asks m)
  | .fault kind access va | .faultUnder _ kind access va => (false, faultAt kind access va m)
  | .exc _ va => (false, faultAt 0x05 0 va m)
  | .poison _ pa => (true, raiseError 3 0x23 unit pa 0 m)
  | .host _ _ => (true, m)

/-! ## Copy (R52) -/

def copySrc (e : Entry) : Nat := field e.bytes 8 8
def copyDst (e : Entry) : Nat := field e.bytes 16 8
def copyLen (e : Entry) : Nat := field e.bytes 24 8

/-- The DMA engine group of a ring (R52). -/
def copyUnit (e : Entry) : Nat := handleDma (e.ring % 2 == 1)

/-- A copy is checked under the supervisor rules (R248). -/
def copyAgent (e : Entry) : Agent := { asid := asidOf e, level := 1, unit := copyUnit e }

/-- An ascending copy would overwrite source bytes it has not read. -/
def overlapsUp (e : Entry) : Bool := copySrc e < copyDst e && copyDst e < copySrc e + copyLen e

def setCopy (e : Entry) (r : CopyRun) (m : Module) : Module := setEntry { e with work := .copy r } m

/-- Bytes of the next piece: within one line of the source and one of the destination. -/
def copyPiece (e : Entry) (done : Nat) : Nat :=
  Nat.min (128 - (copySrc e + done) % 128) (Nat.min (128 - (copyDst e + done) % 128) (copyLen e - done))

/-- Tags of a DMA group (R454). -/
def dmaTags : Nat := 4096

/-- Tags of the group of odd or even rings that its copies hold, each for an access not answered yet. -/
def dmaTagsInUse (m : Module) (odd : Bool) : Nat :=
  (m.hg.pool.filter fun e =>
    match e.work with
    | .copy r => r.tag && (e.ring % 2 == 1) == odd
    | _ => false).length

/-- The bytes of the next piece. An address past 2^48 wraps. DESIGN CHOICE (log 32). -/
def copyBytes (e : Entry) (r : CopyRun) : Acc (List Byte) :=
  match r.snapshot with
  | some l => pure ((l.drop r.done).take (copyPiece e r.done))
  | .none => agentRead (copyAgent e) (.line (.entry e.id)) (copySrc e + r.done) (copyPiece e r.done)

/-- One piece is read and written. -/
def movePiece (e : Entry) (r : CopyRun) : Acc Unit := do
  let bytes ← copyBytes e r
  agentWrite (copyAgent e) (.write (.entry e.id)) (copyDst e + r.done) bytes

/-- The status of a descriptor that an access has ended (R68). -/
def Stop.status : Stop → Nat
  | .host status _ => status
  | _ => 0x51

/-- The fault of a copy that an abort has asked to stop stands behind it no more: the copy has stopped, and FR_RESUME
names nothing (R64). -/
def leaveFault (e : Entry) (r : CopyRun) (m : Module) : Module :=
  if r.ending.isSome then forgetFaults (· == .entry e.id) m else m

/-- The copy stops on an access, its tag free again, and makes the access anew when it goes on: a fault makes it wait,
poison or the host ends it with what is written. DESIGN CHOICE (log 6). -/
def stopCopy (e : Entry) (r : CopyRun) (s : Stop) (m : Module) : Module :=
  let r := { r with sent := 0, tag := false }
  let x := stopEntry e (copyUnit e) s (setCopy e { r with waiting := true }) m
  if x.1 then setCopy e { r with ending := some { status := s.status, count0 := r.done } } x.2 else leaveFault e r x.2

/-- Writes of an entry to other modules that are not answered yet. -/
def writesOpen (m : Module) (p : Nat) : Bool :=
  m.fabric.tags.any fun g => g.who == .write (.entry p) && !g.quarantined

/-- An access of the copy waits, and keeps its tag. -/
def awaitCopy (e : Entry) (r : CopyRun) (s : Stop) (m : Module) : Module :=
  setCopy e { r with tag := true } (s.asks m)

/-- Pieces are moved up to the next 4 KiB boundary of the destination, or the end, and up to a write that another module
must answer first: what COUNT0 counts is written (R64, R69). DEDUCED (log 32). -/
def movePieces : Nat → Entry → CopyRun → Module → Module
  | 0, e, r, m => setCopy e r m
  | fuel + 1, e, r, m =>
    if r.done ≥ copyLen e then setCopy e r m
    else
      let n := copyPiece e r.done
      match (movePiece e r).go m with
      | (.ok _, m) =>
        if writesOpen m e.id then setCopy e { r with sent := n, tag := true } m
        else
          let r := { r with done := r.done + n, tag := false }
          if (copyDst e + r.done) % 4096 = 0 then setCopy e r m else movePieces fuel e r m
      | (.error s, m') => if s.waits then awaitCopy e r s m else stopCopy e r s (setCopy e r m')

/-- A copy that was aborted or killed has reached its stop point (R64). -/
def copyStopped (e : Entry) (r : CopyRun) : Bool :=
  match r.ending with
  | some x =>
    x.status != 0x10 || r.waiting
      || (r.sent == 0 && (((copyDst e + r.done) % 4096 == 0 && r.done > 0) || r.done == copyLen e))
  | .none => false

/-- The copy counts the bytes of a write that has been answered. -/
def CopyRun.answered (r : CopyRun) : CopyRun :=
  if r.sent = 0 then r else { r with done := r.done + r.sent, sent := 0, tag := false }

/-- The copy goes on, under a tag of its group: with none free, or a write not answered, it waits. -/
def stepCopy (e : Entry) (r : CopyRun) (m : Module) : Module :=
  if r.waiting || copyStopped e r || writesOpen m e.id then m
  else
    let r := r.answered
    if copyStopped e r || r.done ≥ copyLen e || (!r.tag && dmaTagsInUse m (e.ring % 2 == 1) ≥ dmaTags) then setCopy e r m
    else if overlapsUp e && r.snapshot.isNone && r.done == 0 then
      match (agentRead (copyAgent e) (.line (.entry e.id)) (copySrc e) (copyLen e)).go m with
      | (.ok bytes, m) => movePieces 72 e { r with snapshot := some bytes } m
      | (.error s, m') => if s.waits then awaitCopy e r s m else stopCopy e r s m'
    else movePieces 72 e r m

/-- COPY (R52): the descriptor is checked and admitted; each further command moves up to 4 KiB. -/
def execCopy (p : Nat) (s : State) : Outcome State Fault Refusal :=
  onModule (fun m =>
    match entryAt m p with
    | .none => m
    | some e =>
      match e.work with
      | .copy r => if working m then stepCopy e r m else m
      | _ => onDescriptor p (· == 2) (fun e m => admitEntry e (.copy {}) m) m) s

/-- The record of a copy that has ended (R55, R64, R68). -/
def copyClosing (e : Entry) (r : CopyRun) : Closing :=
  let counted (status outcome : Nat) : Closing :=
    { status := status, outcome := outcome, count0 := r.done % 2 ^ 32, count1 := r.done / 2 ^ 32 }
  match r.ending with
  | .none => counted 0 (ownOutcome e)
  | some x =>
    if x.status = 0x10 then
      (if r.done = copyLen e then counted 0 (ownOutcome e) else counted 0x10 3)
    else if x.status = 0x12 then { status := 0x12, outcome := ownOutcome e, count0 := x.count0, count1 := x.count1 }
    else counted x.status.toNat (ownOutcome e)

/-- COPY_COMPLETE (R52, R57). -/
def execCopyComplete (p : Nat) (s : State) : Outcome State Fault Refusal :=
  onModule (fun m =>
    match entryAt m p with
    | .none => m
    | some e =>
      match e.work with
      | .copy r =>
        if !working m || writesOpen m p then m
        else
          let r := if r.waiting then r else r.answered
          if copyStopped e r || (r.done == copyLen e && !r.waiting) then
            retireEntryWith e (copyClosing e r) (forgetFaults (· == .entry p) m)
          else m
      | _ => m) s

/-! ## Abort (R59-R64) -/

/-- Pool entries an abort names at its abort point (R60). -/
def abortTargets (m : Module) (a : Entry) : List Nat :=
  (m.hg.pool.filter fun e => e.id != a.id && e.ring == abortRing a && tagOf e == abortTag a).map (·.id)

/-- A target at the abort point: removed when it is not admitted, asked to stop when its opcode can stop. -/
def abortTarget (m : Module) (p : Nat) : Module :=
  match entryAt m p with
  | .none => m
  | some e =>
    if unadmitted e then retireEntryWith e abortedBefore m
    else
      match e.work with
      | .task _ => endTask p { status := 0x10 } m
      | .copy r =>
        let r' := { r with ending := some { status := 0x10 } }
        if r.ending.isSome then m else leaveFault e r' (setCopy e r' m)
      | _ => m

/-- The abort point. -/
def abortPoint (a : Entry) (m : Module) : Module :=
  let x := ringAt m (abortRing a)
  let targets := abortTargets m a
  let watch := if x.enable && !x.halted && x.sqHead != x.sqTail then some x.sqTail else .none
  let m := admitEntry a (.abort { watch := watch, targets := targets, found := !targets.isEmpty }) m
  let m := setPool (m.hg.pool.map fun e =>
    if targets.contains e.id then { e with abortedBy := a.id :: e.abortedBy } else e) m
  targets.foldl abortTarget m

/-- ABORT (R60). -/
def execAbort (p : Nat) (s : State) : Outcome State Fault Refusal :=
  onModule (onDescriptor p (· == 5) abortPoint) s

/-- ABORT_COMPLETE (R61, R63). -/
def execAbortComplete (p : Nat) (s : State) : Outcome State Fault Refusal :=
  onModule (fun m =>
    match entryAt m p with
    | .none => m
    | some e =>
      match abortRun e with
      | .none => m
      | some r =>
        if r.watch.isSome || !r.targets.isEmpty || !working m then m
        else if r.found then completeEntry e 0 r.before r.partly r.done m
        else completeEntry e 0x11 0 0 0 m) s

/-! ## Vote banks and jobs -/

/-- A vote bank that holds no unresolved or uncommitted step (R310). -/
def bankFree (b : Bank) : Bool := b.state == .idle || b.state == .refused

/-- The operation code of a job: byte 0 of its record once read. -/
def Job.op (j : Job) : Nat := byteAt j.record 0

/-! ## Weir table write (R384-R386) -/

/-- An expert in use at this module: a granted slot, a counted END, or a source entry. -/
def expertBusy (m : Module) (x : Nat) : Bool :=
  let k : Expert := Sparse.get {} m.weir.experts x
  !k.slots.isEmpty || k.ends > 0 || k.nextEnds > 0 || m.weir.entries.any fun c => c.2.expert == x

/-- WEIR_TABLE_WRITE (R386). -/
def execWeirTableWrite (p : Nat) (s : State) : Outcome State Fault Refusal :=
  onModule (onDescriptor p (· == 7) fun e m =>
    let x := field e.bytes 8 2
    if expertBusy m x then completeEntry e 0x45 handleWeir 0 0 m
    else
      let k : Expert := { body := (e.bytes.drop 8).take 48, round := BitVec.ofNat 16 (field e.bytes 20 2) }
      completeEntry e 0 x 0 0 { m with weir := { m.weir with experts := Sparse.set m.weir.experts x k } }) s

end Sys2Proof.Machine
end

