-- ==== Sys2Proof/Machine/Gate.lean ====
section
/-! DEFINITION. The Step Gate: vote banks, folds, casts, votes, results and refusals (R310-R323), gate messages (R378), and
the pending maxima of tensors (R234-R236). -/

namespace Sys2Proof.Machine

open Host

/-! ## Register-aperture stores that wait (R280, R311, R387) -/

/-- The store that holds a thread on a full queue or a busy bank goes through, and retires. DEDUCED (log 60). -/
def completeAperture (t : Nat) (m : Module) : Module :=
  let th := threadAt m t
  match th.aperture with
  | .none => m
  | some w =>
    let th' := { th with aperture := .none }
    let th' := match memAddress w.op th' with
      | some (_, some b) => if w.op.updates then th'.result w.op.rb b else th'
      | _ => th'
    retire t 1 (setThread t th' m)

/-! ## Pending maxima (R234-R236) -/

/-- The stack that serves a tensor, and the key of its pending entry of bank `b`. -/
def tensorStack (t : Nat) : Nat := t / 512
def pendKey (b t : Nat) : Nat := 4096 * b + t

/-- A fold of FP32 bits into a tensor's pending entry. -/
def foldPend (b t v : Nat) (m : Module) : Module :=
  let k := stackAt m (tensorStack t)
  let p : Pend := Sparse.get {} k.pend (pendKey b t)
  let mag := natBits v 30 0
  let p := if natBits v 30 23 = 255 then { p with nonfin := true }
           else { p with v := true, p := if p.p.toNat < mag then BitVec.ofNat 32 mag else p.p }
  setStack (tensorStack t) { k with pend := Sparse.set k.pend (pendKey b t) p } m

/-- SC_AMAX (R234). -/
def execScAmax (b tensor : Nat) (value : BitVec 32) (s : State) : Outcome State Fault Refusal :=
  onModule (fun m =>
    let h := handleStack (tensorStack tensor)
    if b < 2 && tensor < 4096 && stackPresent m.board.part (tensorStack tensor) then
      (if unitGated m h then touchGated h m else foldPend b tensor value.toNat m)
    else m) s

/-- Entries of bank `b` in a stack's table. -/
def bankEntries (b : Nat) (l : Sparse Pend) : Sparse Pend := l.filter fun p => p.1 / 4096 == b

def otherEntries (b : Nat) (l : Sparse Pend) : Sparse Pend := l.filter fun p => p.1 / 4096 != b

/-- Every stack takes the entries of bank `b` and clears it (R235). -/
def takePending (b : Nat) (m : Module) : Module :=
  { m with basins := m.basins.map fun k =>
      (k.1, { k.2 with
        took := (bankEntries b k.2.pend).foldl (fun t p => Sparse.set t p.1 p.2) (otherEntries b k.2.took)
        pend := otherEntries b k.2.pend }) }

/-- Every stack clears bank `b` (R236). -/
def clearPending (b : Nat) (m : Module) : Module :=
  { m with basins := m.basins.map fun k => (k.1, { k.2 with pend := otherEntries b k.2.pend }) }

/-! ## Banks (R310, R311) -/

def setBank (step : BitVec 48) (k : Bank) (m : Module) : Module :=
  { m with gate := putBank (bankIndex step) k m.gate }

/-- What becomes of an event for a step. -/
inductive Fate where
  | start
  | join
  | wait
  | discard
  deriving DecidableEq, Repr

def fateOf (b : Bank) (step : BitVec 48) : Fate :=
  if bankFree b then .start
  else if b.step ≠ step then .wait
  else if b.state = .collecting then .join
  else .discard

/-- An event or message is discarded (R311, R318). -/
def discardEvent (late : Bool) (m : Module) : Module :=
  count .gate 0 6 1 { m with gate := { m.gate with late := m.gate.late || late } }

/-- The bank as an event finds it: a free bank takes the step first. -/
def collecting (step : BitVec 48) (m : Module) : Module :=
  if bankFree (stepBank m step) then
    setBank step { state := .collecting, step := step, since := some m.time } m
  else m

/-! ## Messages (R319, R378) -/

/-- A control message leaves; unreachable ones raise source 269 here (R374). -/
def sendControl (x : Msg) (m : Module) : Module := inject x m

/-- A VOTE or RESULT leaves and is held until it is acknowledged. -/
def sendHeld (type : BitVec 8) (dst : BitVec 12) (payload : List Byte) (m : Module) : Module :=
  let x : Msg := { type := type, dst := dst, src := m.fabric.node, payload := payload }
  sendControl x { m with fabric := { m.fabric with heldMsgs := m.fabric.heldMsgs ++ [{ msg := x, last := m.time }] } }

/-- The CTL_ACK of a VOTE or RESULT. -/
def sendAck (type : BitVec 8) (dst : BitVec 12) (step : BitVec 48) (m : Module) : Module :=
  sendControl
    { type := 0x32, op := type, dst := dst, src := m.fabric.node
      addr := bitsOf step 39 0, byte15 := BitVec.ofNat 8 (bitsOf step 47 40) } m

def votePayload (v : Vote) : List Byte :=
  [0x01] ++ bytesOf 1 (if v.finite then 1 else 0) ++ bytesOf 2 v.members.toNat ++ bytesOf 6 v.step.toNat
    ++ bytesOf 6 v.min.toNat ++ bytesOf 6 v.max.toNat ++ bytesOf 2 v.node.toNat ++ bytesOf 2 v.layer.toNat
    ++ List.replicate 6 0

def readVote (b : List Byte) : Vote :=
  { finite := natBit (byteAt b 1) 0, members := BitVec.ofNat 11 (field b 2 2), step := BitVec.ofNat 48 (field b 4 6)
    min := BitVec.ofNat 48 (field b 10 6), max := BitVec.ofNat 48 (field b 16 6)
    node := BitVec.ofNat 12 (field b 22 2), layer := BitVec.ofNat 12 (field b 24 2) }

def resultPayload (step : BitVec 48) (r : Report) : List Byte :=
  [0x02] ++ bytesOf 1 r.reason.toNat ++ bytesOf 2 r.members.toNat ++ bytesOf 6 step.toNat
    ++ bytesOf 6 r.min.toNat ++ bytesOf 6 r.max.toNat ++ bytesOf 2 r.node.toNat ++ bytesOf 2 r.layer.toNat
    ++ List.replicate 6 0

/-- The report a RESULT carries; FINITE is what the reason tells. -/
def readReport (b : List Byte) (finite : Bool) : Report :=
  { reason := BitVec.ofNat 2 (byteAt b 1), members := BitVec.ofNat 11 (field b 2 2)
    min := BitVec.ofNat 48 (field b 10 6), max := BitVec.ofNat 48 (field b 16 6), finite := finite
    node := BitVec.ofNat 12 (field b 22 2), layer := BitVec.ofNat 12 (field b 24 2) }

/-! ## Combining votes (R317) -/

def minStep (a b : BitVec 48) : BitVec 48 := if a < b then a else b
def maxStep (a b : BitVec 48) : BitVec 48 := if a < b then b else a

/-- The non-finite vote with the lowest NODE. -/
def lowestNonFinite : List Vote → Option Vote
  | [] => .none
  | v :: vs =>
    match lowestNonFinite vs with
    | some w => if v.finite || w.node < v.node then some w else some v
    | .none => if v.finite then .none else some v

/-- Votes put together; several finite ones leave NODE and LAYER open (log 4). DEDUCED (log 42). -/
def combineVotes (step : BitVec 48) (own : Vote) (kids : List Vote) (m : Module) : Vote × Module :=
  let all := own :: kids
  let v : Vote :=
    { own with
      finite := all.all (·.finite), step := step, min := kids.foldl (fun a v => minStep a v.min) own.min
      max := kids.foldl (fun a v => maxStep a v.max) own.max
      members := kids.foldl (fun a v => a + v.members) own.members }
  match lowestNonFinite all with
  | some w => ({ v with node := w.node, layer := w.layer }, m)
  | .none =>
    if kids.isEmpty then (v, m)
    else
      let n := takeFree 12 m
      let l := takeFree 12 n.2
      ({ v with node := n.1, layer := l.1 }, l.2)

/-- The reason of the root's resolution (R317). -/
def reasonOf (members : BitVec 11) (v : Vote) : BitVec 2 :=
  if v.members ≠ members ∨ v.min ≠ v.max then 2
  else if v.max = BitVec.allOnes 48 then 3
  else if !v.finite then 1
  else 0

def reportOf (reason : BitVec 2) (v : Vote) : Report :=
  { reason := reason, min := v.min, max := v.max, finite := v.finite, members := v.members
    node := v.node, layer := v.layer }

/-! ## Resolution (R318, R321-R323) -/

/-- Updates of a refused step that wait retire with GATE_REFUSED (R321). -/
def refuseUpdates (step : BitVec 48) (reason : BitVec 2) (m : Module) : Module :=
  let waiting := (m.hg.pool.filter fun e =>
    opcodeOf e == 3 && e.stage == .waiting && updateStep e == step && (failureOf m e).isNone).map (·.id)
  waiting.foldl (fun m p =>
    match entryAt m p with
    | some e => count .update 0 4 1 (completeEntry e 0x20 reason.toNat 0 0 m)
    | .none => m) m

/-- The gate opens for a step. -/
def openGate (step : BitVec 48) (m : Module) : Module :=
  edgeAll 241 (count .gate 0 0 1 (takePending (bankIndex step) m))

/-- The gate refuses a step. DEDUCED (log 44). -/
def refuseGate (step : BitVec 48) (reason : BitVec 2) (m : Module) : Module :=
  let m := count .gate 0 reason.toNat 1 (clearPending (bankIndex step) m)
  let m := match m.haze.rtoken with
    | some t => setToken t.toNat m
    | .none => m
  let m := { m with gate := { m.gate with commits := m.gate.commits.filter fun c => c.1 != step } }
  refuseUpdates step reason (edgeAll 242 m)

/-- A RESULT, or the root's own resolution, is applied (R318). -/
def applyResult (step : BitVec 48) (r : Report) (m : Module) : Module :=
  let b := stepBank m step
  if !bankFree b && b.step != step then discardEvent false m
  else
    let b : Bank := if b.step = step ∧ b.state ≠ .idle then b else { step := step }
    let state : BankState := if r.reason = 0 then .opened else .refused
    let m := setBank step { b with state := state, report := r, since := .none, tensor := 0 } m
    if r.reason = 0 then openGate step m else refuseGate step r.reason m

/-- The root resolves: the RESULT goes to each child, and is applied here. -/
def resolve_ (step : BitVec 48) (v : Vote) (m : Module) : Module :=
  let r := reportOf (reasonOf m.gate.members v) v
  let m := m.gate.children.foldl (fun m c => sendHeld 0x31 c (resultPayload step r) m) m
  applyResult step r m

/-- Children whose vote a bank lacks. -/
def missingKids (g : Gate) (b : Bank) : List Nat :=
  (List.range g.children.length).filter fun c => (Sparse.find b.kids c).isNone

/-- A bank with its own cast and every child's vote sends its vote on, or resolves at the root (R317). -/
def settleBank (step : BitVec 48) (m : Module) : Module :=
  let b := stepBank m step
  match b.cast with
  | .none => m
  | some own =>
    if b.state ≠ .collecting ∨ !(missingKids m.gate b).isEmpty then m
    else
      let r := combineVotes step own (b.kids.map (·.2)) m
      if r.2.gate.root then resolve_ step r.1 r.2
      else sendHeld 0x30 r.2.gate.parent (votePayload r.1) (setBank step { b with state := .sent } r.2)

/-! ## Gate events (R311-R317) -/

/-- An open (R313). -/
def applyOpen (step : BitVec 48) (m : Module) : Module :=
  let m := collecting step m
  setBank step { stepBank m step with opened := true } m

/-- A fold (R313). DEDUCED (log 41). -/
def applyFold (step : BitVec 48) (nonfin : Bool) (layer : BitVec 12) (m : Module) : Module :=
  let m := count .gate 0 4 1 (collecting step m)
  let b := stepBank m step
  if nonfin then
    setBank step { b with nonfin := true, layer := if b.nonfin && b.layer < layer then b.layer else layer } m
  else m

/-- The module's own vote (R316). -/
def ownVote (m : Module) (step : BitVec 48) (b : Bank) : Vote :=
  { finite := b.opened && !b.nonfin, members := 1, step := step
    min := minStep step m.gate.stepCount, max := maxStep step m.gate.stepCount
    node := m.fabric.node, layer := if b.opened then b.layer else 4095 }

/-- A cast (R316). -/
def applyCast (step : BitVec 48) (m : Module) : Module :=
  let m := collecting step m
  let b := stepBank m step
  if b.cast.isSome then { m with gate := { m.gate with dupCast := true } }
  else settleBank step (edgeAll 240 (setBank step { b with cast := some (ownVote m step b) } m))

/-- The vote of child `c` (R317); the first one stands. -/
def applyChild (step : BitVec 48) (c : Nat) (v : Vote) (m : Module) : Module :=
  let m := collecting step m
  let b := stepBank m step
  if (Sparse.find b.kids c).isSome then m
  else settleBank step (setBank step { b with kids := Sparse.set b.kids c v } m)

/-- A cast first waits for the other bank's commit (R316). DEDUCED (log 33). -/
def castWaits (m : Module) (step : BitVec 48) : Bool :=
  m.gate.stepCount < step && (bankAt m.gate (1 - bankIndex step)).state == .opened

/-- An event of a bank that holds another step is counted and waits (R311); a retirement that waits comes again. -/
def waitEvent (e : GateEvent) (m : Module) : Module :=
  let again := match e with
    | .opening _ _ | .cast _ _ => m.gate.waiting.contains e
    | .fold _ _ _ _ | .child _ _ => false
  if again then m
  else count .gate 0 5 1 { m with gate := { m.gate with waiting := m.gate.waiting ++ [e] } }

/-- What an event does when it comes: `wait` is how it waits; the flag tells that it need not come again. -/
def gateEvent (step : BitVec 48) (act : Module → Module) (e : GateEvent) (m : Module) : Bool × Module :=
  match fateOf (stepBank m step) step with
  | .start | .join => (true, act m)
  | .discard => (true, discardEvent true m)
  | .wait => (false, waitEvent e m)

/-! ## GP_FOLD (R313, R314) -/

/-- STEP of the task a thread runs, when the task has a gate role. -/
def roleStep (m : Module) (t : Nat) : Option (BitVec 48) :=
  match entryAt m (threadAt m t).task with
  | some e => if (threadAt m t).run ≠ .idle ∧ gateRole e ≠ 0 then some (taskStep e) else .none
  | .none => .none

/-- A fold no role stands behind. -/
def foldIgnored (m : Module) : Module := edgeAll 244 { m with gate := { m.gate with noRole := true } }

/-- A write of GP_FOLD; false where it must wait. -/
def gpFold (who : Option Nat) (value : BitVec 32) (m : Module) : Bool × Module :=
  match who with
  | .none => (true, foldIgnored m)
  | some t =>
    if (threadAt m t).priv.level = 2 then (true, foldIgnored m)
    else
      match roleStep m t with
      | .none => (true, foldIgnored m)
      | some step =>
        let nonfin := value.getLsbD 31
        let layer := BitVec.ofNat 12 value.toNat
        gateEvent step (applyFold step nonfin layer) (.fold t step nonfin layer) m

/-- GP_FOLD (R313). -/
def execGpFold (who : Option Nat) (value : BitVec 32) (s : State) : Outcome State Fault Refusal :=
  onModule (fun m => if alive m then (gpFold who value m).2 else m) s

/-! ## Messages of the tree -/

/-- The first copy of a message from a sender for a step (R378). -/
def firstCopy (m : Module) (src : BitVec 12) (type : BitVec 8) (step : BitVec 48) : Bool :=
  !m.fabric.seen.contains (src, type, step)

def noteCopy (src : BitVec 12) (type : BitVec 8) (step : BitVec 48) (m : Module) : Module :=
  { m with fabric := { m.fabric with seen := (src, type, step) :: m.fabric.seen } }

/-- A VOTE reaches the gate. -/
def receiveVote (src : BitVec 12) (v : Vote) (m : Module) : Module :=
  match m.gate.children.findIdx? (· == src) with
  | .none => discardEvent false m
  | some c =>
    let b := stepBank m v.step
    if b.state = .refused ∧ b.step = v.step ∧ b.missed.contains c then
      discardEvent true (setBank v.step { b with missed := b.missed.filter (· != c) } m)
    else (gateEvent v.step (applyChild v.step c v) (.child c v) m).2

/-- A VOTE or RESULT whose payload has a reserved bit set is discarded. -/
def controlMessage (type : BitVec 8) (src : BitVec 12) (payload : List Byte) (act : Module → Module) (m : Module) : Module :=
  if controlReserved type.toNat payload then refuseMsg .none { type := type, dst := m.fabric.node, src := src } m else act m

/-- VOTE (R317, R378). -/
def voteMessage (src : BitVec 12) (payload : List Byte) (m : Module) : Module :=
  let v := readVote payload
  let first := firstCopy m src 0x30 v.step
  let m := sendAck 0x30 src v.step m
  if first then receiveVote src v (noteCopy src 0x30 v.step m) else m

/-- VOTE (R317). -/
def execVote (src : BitVec 12) (payload : List Byte) (s : State) : Outcome State Fault Refusal :=
  onModule (fun m =>
    if alive m then
      match takeMsg (fun x => x.type == 0x30 && x.src == src && x.payload == padSlots payload) m with
      | some (_, m) => controlMessage 0x30 src payload (voteMessage src payload) m
      | .none => m
    else m) s

/-- FINITE of a report that came as a RESULT: reasons 0 and 1 tell it; the others leave it open (log 4). -/
def reportFinite (reason : Nat) (m : Module) : Bool × Module :=
  match reason with
  | 0 => (true, m)
  | 1 => (false, m)
  | _ =>
    let r := takeFree 1 m
    (r.1.getLsbD 0, r.2)

/-- A RESULT reaches the gate: it is forwarded first (R318). -/
def receiveResult (payload : List Byte) (m : Module) : Module :=
  let step := BitVec.ofNat 48 (field payload 4 6)
  let m := m.gate.children.foldl (fun m c => sendHeld 0x31 c payload m) m
  let f := reportFinite (byteAt payload 1 % 4) m
  applyResult step (readReport payload f.1) f.2

/-- RESULT (R318, R378). -/
def resultMessage (src : BitVec 12) (payload : List Byte) (m : Module) : Module :=
  let step := BitVec.ofNat 48 (field payload 4 6)
  let first := firstCopy m src 0x31 step
  let m := sendAck 0x31 src step m
  if first then receiveResult payload (noteCopy src 0x31 step m) else m

/-- RESULT (R318): where none waits, it comes from the module's parent. -/
def execResult (payload : List Byte) (s : State) : Outcome State Fault Refusal :=
  onModule (fun m =>
    if alive m then
      match takeMsg (fun x => x.type == 0x31 && x.payload == padSlots payload) m with
      | some (some x, m) => controlMessage 0x31 x.src payload (resultMessage x.src payload) m
      | some (.none, m) =>
        if m.gate.root then m else controlMessage 0x31 m.gate.parent payload (resultMessage m.gate.parent payload) m
      | .none => m
    else m) s

/-- The next message of a sender for a step is a first copy again. -/
def forgetCopy (src : BitVec 12) (type : BitVec 8) (step : BitVec 48) (m : Module) : Module :=
  { m with fabric := { m.fabric with seen := m.fabric.seen.filter (· != (src, type, step)) } }

/-- A CTL_ACK names this held message. -/
def ackNames (src : BitVec 12) (type : BitVec 8) (step : BitVec 48) (h : HeldMsg) : Bool :=
  h.msg.type == type && h.msg.dst == src && field h.msg.payload 4 6 == step.toNat

/-- A step that was refused may be tried again, and its messages then come anew (R323, R378): a child that has a RESULT
with a REASON will vote again for the step, and a parent that has this module's VOTE will answer it. DESIGN CHOICE
(log 42). -/
def awaitAnswer (src : BitVec 12) (step : BitVec 48) (h : HeldMsg) (m : Module) : Module :=
  if h.msg.type = 0x31 then
    if byteAt h.msg.payload 1 % 4 ≠ 0 then forgetCopy src 0x30 step m else m
  else if (stepBank m step).state = .sent ∧ (stepBank m step).step = step then forgetCopy src 0x31 step m
  else m

/-- CTL_ACK (R378): the held message it names is released. -/
def releaseHeld (src : BitVec 12) (type : BitVec 8) (step : BitVec 48) (m : Module) : Module :=
  match m.fabric.heldMsgs.find? (ackNames src type step) with
  | .none => m
  | some h =>
    awaitAnswer src step h
      { m with fabric := { m.fabric with heldMsgs := m.fabric.heldMsgs.filter fun h => !ackNames src type step h } }

/-- The step a CTL_ACK names. -/
def ackStep (x : Msg) : BitVec 48 := BitVec.ofNat 48 (x.addr % 2 ^ 40 + 2 ^ 40 * x.byte15.toNat)

/-- CTL_ACK (R378). -/
def execCtlAck (msg : List Byte) (s : State) : Outcome State Fault Refusal :=
  onModule (fun m =>
    if alive m then onMessage 0x32 msg (fun x => releaseHeld x.src x.op (ackStep x)) m else m) s

/-- GATE_MESSAGE_RESEND (R378). -/
def execGateMessageResend (k : Nat) (s : State) : Outcome State Fault Refusal :=
  onModule (fun m =>
    match m.fabric.heldMsgs[k]? with
    | .none => m
    | some h =>
      if alive m && (m.time - h.last).toNat ≥ millis 1 then
        let held := m.fabric.heldMsgs.set k { h with last := m.time }
        sendControl h.msg (count .fabric 0 5 1 { m with fabric := { m.fabric with heldMsgs := held } })
      else m) s

/-! ## The root's timeout (R320), and the step counter (R312) -/

/-- The vote that stands for a missing subtree. -/
def missingVote : Vote := { finite := true, members := 0, step := 0, min := 0, max := 0, node := 0, layer := 0 }

def timedOutBank (step : BitVec 48) (own : Vote) (m : Module) : Module :=
  let b := stepBank m step
  let missing := missingKids m.gate b
  let r := combineVotes step own (b.kids.map (·.2) ++ missing.map fun _ => missingVote) m
  let m := { r.2 with gate := { r.2.gate with timedOut := true } }
  let m := edgeAll 247 (count .gate 0 7 1 (setBank step { b with missed := missing } m))
  resolve_ step r.1 m

/-- GATE_TIMEOUT (R320). -/
def execGateTimeout (b : Nat) (s : State) : Outcome State Fault Refusal :=
  onModule (fun m =>
    let k := bankAt m.gate (b % 2)
    match k.cast, k.since with
    | some own, some t =>
      if alive m && m.gate.root && k.state == .collecting && m.gate.timeout != 0
          && (m.time - t).toNat ≥ millis m.gate.timeout.toNat then
        timedOutBank k.step own m
      else m
    | _, _ => m) s

/-- A write of GV_STEPCNT (R312). -/
def loadStepCount (value : Word) (m : Module) : Module :=
  let v := BitVec.ofNat 48 value.toNat
  if m.gate.stepCount = 0 ∧ v ≠ 0 ∧ v ≠ BitVec.allOnes 48 then { m with gate := { m.gate with stepCount := v } }
  else { m with gate := { m.gate with loadRej := true } }

/-- GV_STEPCNT_LOAD (R312). -/
def execGvStepcntLoad (value : Word) (s : State) : Outcome State Fault Refusal :=
  onModule (loadStepCount value) s

end Sys2Proof.Machine
end

