-- ==== Sys2Proof/Machine/Engine.lean ====
section
/-! DEFINITION. How Basin engines reach memory (R277, R285, R296, R297), and the arithmetic of job operations on a chunk
(R231, R284, R287, R314, R325-R327). -/

namespace Sys2Proof.Machine

/-! ## Reaching memory -/

/-- How the engines of a job reach memory: the agent, the stack, the job, whether own-stack pages are direct, and the
pages translated before, which are not translated again (R342). -/
structure Reach where
  ag : Agent
  st : Nat
  job : Nat
  direct : Bool
  pages : Sparse Nat := []
  deriving DecidableEq, Repr

/-- An address is reached past the LLC (R285). -/
def Reach.straight (r : Reach) (a : Nat) : Bool := r.direct && a < extBase && stackOf a == r.st

/-- Local address of a virtual one; anything but this module's memory, and an address beyond 48 bits, faults with kind
0x05 (R277). -/
def engineAt (r : Reach) (need : Need) (va : Nat) : Acc Nat := do
  if va ≥ 2 ^ 48 then stop (.fault 0x05 need.code va)
  else
    match Sparse.find r.pages (va / 4096) with
    | some p => pure (4096 * p + va % 4096)
    | .none =>
      let pa ← translate r.ag need va
      let m ← get
      if nodeOf pa = m.fabric.node.toNat ∧ plainMemory m (localOf pa) then pure (localOf pa)
      else
        modify (dropLeaf r.ag va)
        stop (.fault 0x05 need.code va)

/-- A line as the DRAM of the stack holds it, under a request register (R278). -/
def directRead (line : Nat) (m : Module) : Option ((List Byte × BitVec 4) × Module) :=
  if dramReady m line then (useRegister line forEngine m).map (readDramAs engineRequester line) else .none

/-- Bytes of a line written into the DRAM of the stack, under a request register; the gather engines' buffers snoop it
(R278, R295). -/
def directWrite (line off : Nat) (bytes : List Byte) (m : Module) : Option Module :=
  if dramReady m line then
    (useRegister line forEngine m).map fun m =>
      let x := mergeLine (memBytes m line 128) (memPoison m line) off bytes (fun _ => true)
      snoopGather line (writeDramAs engineRequester line x.1 x.2 m)
  else .none

/-- A line read for the engines of a stack: directly, or at its home slice (R285). -/
def engineLine (r : Reach) (a : Nat) : Acc (List Byte × BitVec 4) :=
  if r.straight a then orStop (.register (lineOf a)) (directRead (lineOf a)) else readLine (600 + r.st) (lineOf a) 0

/-- A job remembers a line it wrote directly (R297). -/
def noteDirect (st j line : Nat) (m : Module) : Module :=
  match jobAt m st j with
  | some k => if k.direct.contains line then m else setJob st { k with direct := line :: k.direct } m
  | .none => m

def engineReadPiece (r : Reach) (va n : Nat) : Acc (List Byte) := do
  let a ← engineAt r .read va
  let d ← engineLine r a
  if touchesPoison d.2 (a % 128) n then stop (.poison va a) else pure ((d.1.drop (a % 128)).take n)

/-- Read `n` bytes. -/
def engineRead (r : Reach) (va n : Nat) : Acc (List Byte) := do
  let mut out : List (List Byte) := []
  for q in pieces va n do
    let bs ← engineReadPiece r q.1 q.2
    out := bs :: out
  pure out.reverse.flatten

/-- Translate every page of a range without access. -/
def engineProbe (r : Reach) (need : Need) (va n : Nat) : Acc Unit := do
  for i in List.range (if n = 0 then 0 else (va + n - 1) / 4096 - va / 4096 + 1) do
    let _ ← engineAt r need (if i = 0 then va else (va / 4096 + i) * 4096)
  pure ()

def engineWritePiece (r : Reach) (va : Nat) (bytes : List Byte) : Acc Unit := do
  let a ← engineAt r .write va
  if r.straight a then
    orStop (.register (lineOf a)) fun m => (directWrite (lineOf a) (a % 128) bytes m).map fun m => ((), m)
    modify (noteDirect r.st r.job (lineOf a))
  else writeLine (lineOf a) (a % 128) bytes (fun _ => true) 0

/-- Write bytes, once every page of the range is known to translate. -/
def engineWrite (r : Reach) (va : Nat) (bytes : List Byte) : Acc Unit := do
  engineProbe r .write va bytes.length
  for q in pieces va bytes.length do
    engineWritePiece r q.1 ((bytes.drop (q.1 - va)).take q.2)

/-- Region clean of the direct lines of a range (R296): BS_STAT 6 counts the lines written back. -/
def engineClean (r : Reach) (need : Need) (va n : Nat) : Acc Unit := do
  for q in pieces va n do
    let a ← engineAt r need q.1
    if r.straight a then
      orStop (.clean (lineOf a)) fun m =>
        (cleanLine (lineOf a) m).map fun x => ((), if x.1 then count .basin r.st 6 1 x.2 else x.2)
    else pure ()

/-! ## Fields of a job record (R282) -/

def Job.at_ (j : Job) (i n : Nat) : Nat := field j.record i n
def Job.rm (j : Job) : Nat := byteAt j.record 2 % 4
def Job.ovs (j : Job) : Bool := natBit (byteAt j.record 2) 2
def Job.event (j : Job) : Bool := natBit (byteAt j.record 1) 3
def Job.order (j : Job) : Bool := natBit (byteAt j.record 1) 2
def Job.straight (j : Job) : Bool := natBit (byteAt j.record 1) 1
def Job.wantsClean (j : Job) : Bool := natBit (byteAt j.record 1) 0
def Job.first (j : Job) : Nat := byteAt j.record 3 % 32
def Job.engines (j : Job) : Nat := byteAt j.record 4 % 32 + 1

/-- The engine of chunk `c` (R286, R329, R339). The scale commit's record is one chunk on engine 0. DESIGN CHOICE
(log 38). -/
def Job.engineOf (j : Job) (c : Nat) : Nat :=
  match j.kind with
  | .none => (j.first + c % j.engines) % 32
  | some (.update _ n) => c % n
  | some (.haze _ _ _) => 28 + c % 4
  | some (.commit _ _) => 0

def Job.tv (j : Job) : Bool := natBit (byteAt j.record 7) 7
def Job.tensor (j : Job) : Nat := j.at_ 6 2 % 4096
def Job.step (j : Job) : BitVec 48 := BitVec.ofNat 48 (j.at_ 8 6)
def Job.xf (j : Job) : Nat := byteAt j.record 16 % 16
def Job.yf (j : Job) : Nat := byteAt j.record 16 / 16
def Job.zf (j : Job) : Nat := byteAt j.record 17 % 16
def Job.sub (j : Job) : Nat := byteAt j.record 17 / 16
def Job.count (j : Job) : Nat := j.at_ 20 4
def Job.x (j : Job) : Nat := j.at_ 24 8
def Job.y (j : Job) : Nat := j.at_ 32 8
def Job.z (j : Job) : Nat := j.at_ 40 8
def Job.alpha (j : Job) : Nat := j.at_ 48 4
def Job.beta (j : Job) : Nat := j.at_ 52 4
def Job.doneAt (j : Job) : Nat := j.at_ 56 8
/-- The 8 bytes of the layer's stash table entry, kept behind the record. -/
def Job.stashEntry (j : Job) : List Byte := j.record.drop 64

/-- Bytes of an element of a format code. -/
def codeBytes (c : Nat) : Nat := codeWidth c / 8

/-- Elements of chunk `c`: the first, and how many (R286). -/
def Job.span (j : Job) (c : Nat) : Nat × Nat := (4096 * c, Nat.min 4096 (j.count - 4096 * c))

/-! ## Elements -/

/-- `n` elements of `w` bytes. -/
def splitElems (w : Nat) : Nat → List Byte → List Nat
  | 0, _ => []
  | n + 1, bs => ofBytes (bs.take w) :: splitElems w n (bs.drop w)

def joinElems (w : Nat) (xs : List Nat) : List Byte := (xs.map (bytesOf w)).flatten

/-- The elements of chunk `c` of an operand. -/
def readElems (r : Reach) (j : Job) (base code c : Nat) : Acc (List Nat) := do
  let w := codeBytes code
  let s := j.span c
  let bs ← engineRead r (base + w * s.1) (w * s.2)
  pure (splitElems w s.2 bs)

/-- An element widened exactly to FP32 (R284). -/
def widen (code x : Nat) : Nat := if code = 0 then x else (Fp.encodeVal Fp.fp32 Fp.nearest (Fp.decodeCode code x)).1

/-! ## Rounding steps (R231, R284, R286) -/

/-- A computation that may draw from the generators of the stack. -/
abbrev Draws (α : Type) := StateM (Sparse Gen) α

/-- The mode of one rounding step for element `i` of a chunk on engine `e`. -/
def stepMode (e rm : Nat) (ovs : Bool) (i : Nat) : Draws Fp.Mode := fun g =>
  if rm = 2 then
    let r := drawLane (16 * e + i % 16) g
    ({ rm := 2, ovs := ovs, draw := bitsOf r.1 63 40 }, r.2)
  else ({ rm := rm, ovs := ovs, draw := 0 }, g)

/-- Narrowing into the result format; into FP32 there is no step. DEDUCED (log 40). -/
def narrow (code : Nat) (md : Draws Fp.Mode) (v : Nat) : Draws Nat :=
  if code = 0 then pure v
  else do
    let m ← md
    pure (Fp.encodeCode code m (Fp.decode Fp.fp32 v)).1

/-- CONVERT, AXPBY, MUL and FILL on one element (R284). -/
def convertElem (alpha zf : Nat) (md : Draws Fp.Mode) (x : Nat) : Draws Nat := do
  let m ← md
  narrow zf md (Fp.mul Fp.fp32 m alpha x).1

def axpbyElem (alpha beta zf : Nat) (md : Draws Fp.Mode) (x y : Nat) : Draws Nat := do
  let m1 ← md
  let p := (Fp.mul Fp.fp32 m1 beta y).1
  let m2 ← md
  narrow zf md (Fp.fma Fp.fp32 m2 p alpha x).1

def mulElem (alpha zf : Nat) (md : Draws Fp.Mode) (x y : Nat) : Draws Nat := do
  let m1 ← md
  let p := (Fp.mul Fp.fp32 m1 x y).1
  let m2 ← md
  narrow zf md (Fp.mul Fp.fp32 m2 alpha p).1

/-- Map over elements with their index, in ascending order. -/
def mapDraws {α : Type} (f : Nat → α → Draws Nat) : Nat → List α → Draws (List Nat)
  | _, [] => pure []
  | i, x :: xs => do
    let z ← f i x
    let zs ← mapDraws f (i + 1) xs
    pure (z :: zs)

/-- Run draws on the generators of a stack. -/
def drawOn {α : Type} (st : Nat) (x : Draws α) : Acc α := do
  let m ← get
  let k := stackAt m st
  let r := x.run k.gens
  set (setStack st { k with gens := r.2 } m)
  pure r.1

/-! ## REDUCE (R287) -/

/-- The mode of a sum: stochastic acts as nearest-even. -/
def sumMode (j : Job) : Fp.Mode := { rm := if j.rm = 2 then 0 else j.rm, ovs := false, draw := 0 }

/-- How two values of a REDUCE combine. -/
def reduceJoin (j : Job) (a b : Nat) : Nat × Fp.Flags :=
  if j.sub = 1 then (Fp.maxNanWins Fp.fp32 a b, 0) else Fp.add Fp.fp32 (sumMode j) a b

/-- What one element contributes. -/
def reduceTerm (j : Job) (x : Nat) : Nat :=
  if j.sub = 1 then (if (Fp.decode Fp.fp32 x).isNan then Fp.canonicalNan Fp.fp32 else Fp.absBits Fp.fp32 x)
  else if j.sub = 2 then (Fp.mul Fp.fp32 (sumMode j) x x).1
  else x

/-- Elements with their indexes. -/
def indexed {α : Type} (xs : List α) : List (Nat × α) := xs.zipIdx.map fun p => (p.2, p.1)

/-- The partial of a chunk. -/
def reduceChunk (j : Job) (xs : List Nat) : Nat :=
  ((orderedSum (reduceJoin j) 16 (indexed (xs.map (reduceTerm j)))).1).getD 0

/-- The partials of all chunks together. -/
def reduceAll (j : Job) (parts : List Nat) : Nat := ((treeFold (reduceJoin j) 21 (parts.map some)).1).getD 0

/-! ## Folds of magnitudes (R234, R284, R314) -/

/-- The larger of two finite FP32 magnitudes. -/
def maxMagnitude (xs : List Nat) : Option Nat :=
  xs.foldl (fun a x => some (Nat.max (a.getD 0) (Fp.absBits Fp.fp32 x))) .none

/-- A chunk folds the magnitudes of FP32 values into the job's tensor. -/
def foldMagnitudes (step : BitVec 48) (tensor : Nat) (nonfin : Bool) (xs : List Nat) (m : Module) : Module :=
  let b := bankIndex step
  let fin := xs.filter Fp.finite32
  let m := match maxMagnitude fin with
    | some v => foldPend b tensor v m
    | .none => m
  if nonfin && xs.any (fun x => !Fp.finite32 x) then foldPend b tensor 0x7F800000 m else m

/-! ## STASH and UNSTASH (R325-R327) -/

def stashFmt (e : List Byte) : Nat := byteAt e 0 % 16
def stashSr (e : List Byte) : Bool := natBit (byteAt e 0) 4
def stashBitmap (e : List Byte) : Bool := natBit (byteAt e 0) 5
def stashScaled (e : List Byte) : Bool := natBit (byteAt e 0) 6
def stashOvs (e : List Byte) : Bool := natBit (byteAt e 0) 7
def stashTv (e : List Byte) : Bool := natBit (byteAt e 3) 7
def stashTensor (e : List Byte) : Nat := field e 2 2 % 4096

/-- A layer's stash table entry is sound. -/
def stashEntryOk (p : Part) (e : List Byte) : Bool :=
  [3, 4, 7, 8].contains (stashFmt e) && byteAt e 1 == 0 && byteAt e 3 / 16 % 8 == 0 && field e 4 4 == 0
    && (!stashTv e || stackPresent p (tensorStack (stashTensor e)))

/-- A block's exponent from exact values, or none when one is not finite (R227). -/
def valExponent (dst : Nat) (vs : List Fp.Val) : Option Int :=
  if vs.any (·.nonFinite) then .none
  else some (((vs.filter fun v => !v.isZero).map fun v => Fp.log2Val v - Fp.emaxOf dst).foldl max (-127))

/-- Consecutive runs of 32. -/
def blocksOf {α : Type} : Nat → List α → List (List α)
  | 0, _ => []
  | n + 1, l => if l.isEmpty then [] else l.take 32 :: blocksOf n (l.drop 32)

/-- The stored elements: values with the source index of each, and their scale bytes. -/
def stashElems (e : List Byte) (eng : Nat) (vs : List (Nat × Fp.Val)) : Draws (List Nat × List Nat) := do
  let code := stashFmt e
  let rm := if stashSr e then 2 else 0
  let scales : List Nat := if Fp.isMx code then (blocksOf 129 vs).map fun b =>
      match valExponent code (b.map (·.2)) with
      | some x => (x + 127).toNat
      | .none => 0xFF
    else []
  let out ← mapDraws (fun k (p : Nat × Fp.Val) => do
    let md ← stepMode eng rm (stashOvs e) p.1
    if Fp.isMx code then
      let s := scales.getD (k / 32) 0xFF
      pure (if s = 0xFF then 0 else (Fp.encodeMx (mxFmt code) md (p.2.scale (127 - (s : Int)))).1)
    else pure (Fp.encodeCode code md p.2).1) 0 vs
  pure (out, scales)

/-- The zero bitmap of a chunk: 512 bytes. -/
def bitmapBytes (keep : List Bool) : List Byte :=
  bytesOf 512 ((indexed keep).foldl (fun n p => if p.2 then n + 2 ^ p.1 else n) 0)

/-- How a job's stack reaches the tables of the Haze configuration: under its ASID, at the level of the job's poster
(R248, R324). -/
def Reach.tables (r : Reach) (m : Module) : Reach :=
  { r with ag := { r.ag with asid := m.haze.asid }, direct := false, pages := [] }

/-- An access to those tables: its faults are faults of the configuration's ASID. -/
def tableAccess {α : Type} (m : Module) (x : Acc α) : Acc α :=
  ExceptT.adapt (fun s => match s with
    | .fault k n va => .faultUnder m.haze.asid k n va
    | s => s) x

/-- An FP32 scale of a tensor's record: SCALE at byte 64, INVSCALE at 68; 1.0 with no scale base (R233, R324). -/
def readScale (r : Reach) (m : Module) (tensor at_ : Nat) : Acc Nat := do
  if m.haze.scaleBase = 0 then pure Fp.one32
  else
    let bs ← tableAccess m (engineRead (r.tables m) (m.haze.scaleBase.toNat + 128 * tensor + at_) 4)
    pure (ofBytes bs)

/-- The bytes of a slot that a chunk with `stored` elements writes: header, bitmap, block scales and elements. -/
def slotPieces (e : List Byte) (stored : Nat) : List (Nat × Nat) :=
  [(0, 128)] ++ (if stashBitmap e then [(128, 512)] else [])
    ++ (if Fp.isMx (stashFmt e) then [(640, ceilDiv stored 32)] else []) ++ [(768, stored)]

/-- One chunk of STASH on engine `eng` (R326). -/
def stashChunk (eng : Nat) (j : Job) (c : Nat) (r : Reach) : Acc Unit := do
  let m ← get
  let e := j.stashEntry
  let scaled := stashScaled e
  let sc ← if scaled then readScale r m (stashTensor e) 64 else pure Fp.one32
  let inv ← if scaled then readScale r m (stashTensor e) 68 else pure Fp.one32
  let raw ← readElems r j j.x j.xf c
  let src := raw.map (widen j.xf)
  let keep := src.map fun x => !(stashBitmap e) || !(Fp.decode Fp.fp32 x).isZero
  let vs := ((indexed src).zip keep).filterMap fun p =>
    if p.2 then some (p.1.1, (Fp.mulVal (Fp.decode Fp.fp32 p.1.2) (Fp.decode Fp.fp32 sc)).1) else .none
  let slot := j.z + 4864 * c
  for p in slotPieces e vs.length do
    engineProbe r .write (slot + p.1) p.2
  let out ← drawOn r.st (stashElems e eng vs)
  let flags := (if stashBitmap e then 1 else 0) + (if stashSr e then 2 else 0) + (if scaled then 4 else 0)
  engineWrite r slot (bytesOf 4 src.length ++ bytesOf 4 vs.length ++ bytesOf 1 (stashFmt e) ++ bytesOf 1 flags
    ++ bytesOf 2 (j.alpha % 4096) ++ bytesOf 4 inv ++ bytesOf 6 j.step.toNat ++ List.replicate 106 0)
  if stashBitmap e then
    let marks := src.map fun x => !(Fp.decode Fp.fp32 x).isZero
    engineWrite r (slot + 128) (bitmapBytes marks)
  else pure ()
  if Fp.isMx (stashFmt e) then engineWrite r (slot + 640) (joinElems 1 out.2) else pure ()
  engineWrite r (slot + 768) (joinElems 1 out.1)
  if stashTv e then modify (foldMagnitudes j.step (stashTensor e) true src) else pure ()

/-- The restored elements of a slot: stored bytes go to the elements the bitmap marks (R327). -/
def restoreElems (f : Nat → Nat → Nat) : List Bool → Nat → List Nat → List Nat
  | [], _, _ => []
  | false :: ks, k, xs => 0 :: restoreElems f ks k xs
  | true :: ks, k, xs => f k (xs.headD 0) :: restoreElems f ks (k + 1) (xs.drop 1)

/-- One chunk of UNSTASH; false where the slot is not the one COUNT and the table tell of. -/
def unstashChunk (j : Job) (c : Nat) (r : Reach) : Acc Bool := do
  let n := (j.span c).2
  let slot := j.x + 4864 * c
  let h ← engineRead r slot 22
  let code := stashFmt j.stashEntry
  if field h 0 4 ≠ n ∨ field h 10 2 ≠ j.alpha % 4096 ∨ byteAt h 8 ≠ code then pure false
  else
    let bitmap := natBit (byteAt h 9) 0
    let bits ← if bitmap then engineRead r (slot + 128) 512 else pure []
    let keep := (List.range n).map fun i => !bitmap || natBit (byteAt bits (i / 8)) (i % 8)
    let stored := (keep.filter id).length
    let scales ← if Fp.isMx code then engineRead r (slot + 640) (ceilDiv stored 32) else pure []
    let data ← engineRead r (slot + 768) stored
    let inv := Fp.decode Fp.fp32 (field h 12 4)
    let md : Fp.Mode := { rm := j.rm, ovs := false, draw := 0 }
    let f (k x : Nat) : Nat :=
      let s := if Fp.isMx code then byteAt scales (k / 32) else 127
      if s = 0xFF then Fp.canonicalNan (mxFmt j.zf)
      else (Fp.encodeCode j.zf md (Fp.mulVal ((Fp.decode (mxFmt code) x).scale ((s : Int) - 127)) inv).1).1
    let zs := restoreElems f keep 0 (data.map (·.toNat))
    let w := codeBytes j.zf
    engineWrite r (j.z + w * (j.span c).1) (joinElems w zs)
    pure true

end Sys2Proof.Machine
end

