-- ==== Sys2Proof/Machine/Basin.lean ====
section
/-! DEFINITION. Basin jobs (R280-R292): posts, the start and its checks, chunks on engines, region clean and
back-invalidate, DONE words; and the request registers (R278). -/

namespace Sys2Proof.Machine

open Host

/-! ## Posts (R280) -/

/-- BAR0 offset of BS_JOBPOST of a stack. -/
def postOffset (st : Nat) : Nat := (unitWindow (.stack st)).1 + 8

/-- Event source b + k of a stack. -/
def basinSource (st k : Nat) (m : Module) : Module := edge (st / 2) (128 + 32 * (st % 2) + k) m

/-- Task jobs queued and not started: BS_STATUS.JOBQ. -/
def queuedJobs (k : Stack) : Nat := (k.jobs.filter fun j => j.kind.isNone && !j.started && j.ending.isNone).length

/-- The job a thread posts, with what the stack captures. -/
def newJob (m : Module) (st t : Nat) (addr : Word) : Job :=
  let th := threadAt m t
  let tag := taskTag m th.task
  { id := (stackAt m st).nextId, addr := addr, thread := t, task := th.task, asid := th.priv.asid
    tag := BitVec.ofNat 32 tag.1, ring := tag.2, level := th.priv.level, squall := m.squall.active }

/-- A job joins its stack's queue. -/
def queueJob (st : Nat) (j : Job) (m : Module) : Module :=
  let k := stackAt m st
  setStack st { k with jobs := k.jobs ++ [j], nextId := k.nextId + 1 } m

/-- A write of BS_JOBPOST; false where the post waits for a full queue. DEDUCED (log 38). -/
def postJob (who : Option Nat) (st : Nat) (value : Word) (m : Module) : Bool × Module :=
  let k := stackAt m st
  let refused := (true, setStack st { k with hostPost := true } m)
  if !stackPresent m.board.part st then (true, m)
  else if unitGated m (handleStack st) then (true, touchGated (handleStack st) m)
  else
    match who with
    | .none => refused
    | some t =>
      if (threadAt m t).priv.level = 2 then refused
      else if queuedJobs k ≥ 256 then (false, basinSource st 3 (count .basin st 3 1 m))
      else (true, count .basin st 0 1 (queueJob st (newJob m st t (BitVec.ofNat 64 (64 * bitsOf value 47 6))) m))

/-- JOB_POST (R280). -/
def execJobPost (who : Option Nat) (st : Nat) (value : Word) (s : State) : Outcome State Fault Refusal :=
  onModule (fun m => if alive m && st < 8 then (postJob who st value m).2 else m) s

/-! ## Checks (R283) -/

/-- How a job reaches memory. -/
def Job.reach (j : Job) (st : Nat) : Reach :=
  { ag := { asid := j.asid, level := if j.level = 0 then 0 else 1, unit := handleStack st }, st := st, job := j.id
    direct := j.kind.isNone && j.straight }

/-- Reserved places of a job record, with the bits of SUB and ALPHA that GATHER and FINITE give no meaning (R10, R282,
R293, R314). -/
def reservedJob (op : Nat) : List (Nat × Nat) :=
  [(2, 0xF8), (3, 0xE0), (4, 0xE0), (5, 0xFF), (7, 0x70), (14, 0xFF), (15, 0xFF)]
    ++ (if op = 9 then [(17, 0xC0)] else []) ++ [(18, 0xFF), (19, 0xFF)]
    ++ (if op = 6 then [(49, 0xF0), (50, 0xFF), (51, 0xFF)] else [])

/-- Whether operation `op` is among those that use a field. -/
def usesX (op : Nat) : Bool := op != 5
def usesY (op : Nat) : Bool := op == 2 || op == 3
def usesZ (op : Nat) : Bool := op != 6 && op != 10
def usesXf (op : Nat) : Bool := [1, 2, 3, 4, 6, 7, 9].contains op
def usesZf (op : Nat) : Bool := [1, 2, 3, 4, 5, 8].contains op
def usesAlpha (op : Nat) : Bool := op != 4 && op != 10
def usesRm (op : Nat) : Bool := op ≤ 5 || op == 8
def usesOvs (op : Nat) : Bool := [1, 2, 3, 5].contains op
def usesTv (op : Nat) : Bool := op ≤ 6

/-- Highest format code of X and of Z. -/
def topX (op : Nat) : Nat := if op = 7 then 2 else 4
def topZ (op : Nat) : Nat := if op = 4 then 0 else if op = 8 then 1 else 4

/-- Alignment of X, Y and Z. -/
def alignX (j : Job) : Nat := if j.op = 8 then 128 else if j.op = 10 then 1 else codeBytes j.xf
def alignY (j : Job) : Nat := if j.op = 9 then 4 else codeBytes j.yf
def alignZ (j : Job) : Nat :=
  if j.op = 7 then 128 else if j.op = 4 then 4 else if j.op = 9 then codeBytes j.xf else codeBytes j.zf

/-- The byte offset r × STRIDE of a row (R294). -/
def rowOffset (j : Job) (k : Nat) : Int := (k : Int) * natSigned 32 j.beta

def rowBytes (j : Job) : Nat := j.alpha * codeBytes j.xf

/-- Bytes of X, Y and Z, as ranges that start at the operand. -/
def sizeX (j : Job) : Nat := if j.op = 8 then 4864 * ceilDiv j.count 4096 else j.count * codeBytes j.xf
def sizeY (j : Job) : Nat := if j.op = 9 then 4 * j.count else j.count * codeBytes j.yf
def sizeZ (j : Job) : Nat :=
  if j.op = 4 then 4 else if j.op = 7 then 4864 * ceilDiv j.count 4096
  else if j.op = 9 then j.count * rowBytes j else j.count * codeBytes j.zf

/-- Z meets a source without being equal to it, element for element. -/
def meetsWrong (j : Job) (a n w : Nat) : Bool := meets j.z (sizeZ j) a n && !(j.z == a && w == alignZ j)

def indexedGather (j : Job) : Bool := j.op == 9 && natBit j.sub 1

def overlaps (j : Job) : Bool :=
  if j.op = 9 then
    (indexedGather j && meets j.z (sizeZ j) j.y (sizeY j))
      || (!natBit j.sub 1 && j.z != j.x && (List.range j.count).any fun r =>
        meets j.z (sizeZ j) (intLow 64 (j.x + rowOffset j r)) (rowBytes j))
  else
    usesZ j.op && ((usesX j.op && meetsWrong j j.x (sizeX j) (alignX j))
      || (usesY j.op && meetsWrong j j.y (sizeY j) (alignY j)))

/-- STEP and GATE of the posting task. -/
def taskRole (m : Module) (j : Job) : Option (BitVec 48) :=
  match entryAt m j.task with
  | some e => if gateRole e ≠ 0 then some (taskStep e) else .none
  | .none => .none

/-- Byte offsets of the arguments that fail, but for those the stash table decides. DEDUCED (log 39). -/
def jobFailures (m : Module) (j : Job) : List Nat :=
  let op := j.op
  let unused (used : Bool) (v off : Nat) : List Nat := failing (!used && v != 0) off
  failing (j.rm == 3 || (op == 8 && j.rm == 2)) 2
    ++ unused (usesRm op) j.rm 2 ++ unused (usesOvs op) (if j.ovs then 1 else 0) 2
    ++ failing ((op == 9 && j.first ≥ 4) || (op == 10 && j.first != 0)) 3 ++ failing ((op == 9 || op == 10) && j.engines != 1) 4
    ++ failing (!(usesTv op && j.tv) && j.at_ 6 2 != 0) 6
    ++ failing (usesTv op && j.tv && !stackPresent m.board.part (tensorStack j.tensor)) 6
    ++ (if op = 6 then failing (taskRole m j != some j.step) 8
        else if op = 7 then [] else failing (!(usesTv op && j.tv) && j.step != 0) 8)
    ++ unused (usesXf op) j.xf 16 ++ unused (usesY op) j.yf 16
    ++ failing (usesXf op && j.xf > topX op) 16 ++ failing (usesY op && j.yf > 4) 16
    ++ unused (op == 4 || op == 9) j.sub 17 ++ failing (op == 4 && j.sub > 2) 17
    ++ unused (usesZf op) j.zf 17 ++ failing (usesZf op && j.zf > topZ op) 17
    ++ failing (j.count == 0) 20
    ++ failing (tall j.x) 24 ++ unused (usesX op) j.x 24 ++ failing (usesX op && j.x % alignX j != 0) 24
    ++ failing (tall j.y) 32 ++ unused (usesY op || indexedGather j) j.y 32
    ++ failing ((usesY op || indexedGather j) && j.y % alignY j != 0) 32
    ++ failing (tall j.z) 40 ++ unused (usesZ op) j.z 40 ++ failing (usesZ op && j.z % alignZ j != 0) 40
    ++ failing (overlaps j) 40
    ++ unused (usesAlpha op) j.alpha 48 ++ failing ((op == 7 || op == 8) && j.alpha ≥ 4096) 48
    ++ failing (op == 9 && (j.alpha == 0 || j.alpha > 65536)) 48
    ++ unused (op == 2 || op == 9) j.beta 52
    ++ failing (op == 9 && (j.count > 1 || indexedGather j) && natSigned 32 j.beta % (codeBytes j.xf : Int) != 0) 52
    ++ failing (tall j.doneAt || j.doneAt % 8 != 0) 56

/-- The stash table entry of a STASH or UNSTASH job; none where the layer or the entry is not sound (R325, R326). -/
def stashEntryOf (j : Job) (r : Reach) : Acc (Option (List Byte)) := do
  let m ← get
  let h := m.haze
  if j.alpha ≥ h.layers.toNat ∨ h.stashTab = 0 then pure .none
  else
    let e ← tableAccess m (engineRead (r.tables m) (h.stashTab.toNat + 8 * j.alpha) 8)
    pure (if stashEntryOk m.board.part e then some e else .none)

/-- The first check a job fails, with the job as it will run. -/
def checkJob (j : Job) (r : Reach) : Acc (Option (Nat × Nat) × Job) := do
  let m ← get
  if j.op = 0 ∨ j.op > 10 then pure (some (0x40, 0), j)
  else if byteAt j.record 1 / 16 ≠ m.host.select.toNat then pure (some (0x41, 0), j)
  else
    match firstNonzero j.record (reservedJob j.op) with
    | some off => pure (some (0x42, off), j)
    | .none =>
      let bad := jobFailures m j
      if j.op = 7 ∨ j.op = 8 then
        let e ← stashEntryOf j r
        match e with
        | .none => pure ((lowest (bad ++ [48])).map fun o => (0x43, o), j)
        | some e =>
          let step := failing (j.op == 7 && (stashTv e == (j.step == 0))) 8 ++ failing (j.op == 8 && j.step != 0) 8
          pure ((lowest (bad ++ step)).map fun o => (0x43, o), { j with record := j.record ++ e })
      else pure ((lowest bad).map fun o => (0x43, o), j)

/-! ## Engines (R286, R288) -/

/-- The engines of a stack run: the module is alive and the stack present and clocked. -/
def stackRuns (m : Module) (st : Nat) : Bool :=
  alive m && stackPresent m.board.part st && !unitGated m (handleStack st)

/-- Chunks, or rows, of a job. -/
def jobTotal (j : Job) : Nat := if j.op = 9 then j.count else if j.op = 10 then 1 else ceilDiv j.count 4096

/-- The chunk of a job an engine runs next. -/
def chunkFor (k : Stack) (e : Nat) (j : Job) : Option Nat :=
  if j.ending.isSome then .none
  else (List.range j.total).find? fun c =>
    j.engineOf c == e && !j.complete.contains c && !j.suspended.contains c
      && !(k.engines.any fun r => r.2.job == j.id && r.2.chunk == c)

/-- The first job of the module, or of a task, that has not started. -/
def nextOf (k : Stack) (ofModule : Bool) : Option Job :=
  k.jobs.find? fun j => !j.started && j.ending.isNone && j.kind.isSome == ofModule

/-- Engines that hold a chunk of a job that has not ended: BS_STATUS.ENGBUSY. -/
def busyEngines (k : Stack) : Nat :=
  (k.engines.filter fun r => k.jobs.any fun j => j.id == r.2.job && j.ending.isNone).length

/-- A job may start: its checks have passed, none of its class stands before it, and no module job that could start does.
DEDUCED (log 38). -/
def canStart (k : Stack) (j : Job) : Bool :=
  j.checked && j.ending.isNone && (nextOf k j.kind.isSome).map (·.id) == some j.id
    && (j.kind.isSome || !((nextOf k true).any (·.checked)))

/-- A job starts: it stands behind those that have started before it. -/
def startJob (st : Nat) (j : Job) (m : Module) : Module :=
  let k := stackAt m st
  let others := k.jobs.filter fun x => x.id != j.id
  let jobs := others.filter (·.started) ++ [{ j with started := true }] ++ others.filter fun x => !x.started
  setStack st { k with jobs := jobs } m

/-- An idle engine takes the next chunk a job has for it; the first one starts the job. -/
def takeEngine (st id : Nat) (m : Module) (e : Nat) : Module :=
  let k := stackAt m st
  match jobAt m st id with
  | .none => m
  | some j =>
    if (Sparse.find k.engines e).isSome || !(j.started || canStart k j) then m
    else
      match chunkFor k e j with
      | .none => m
      | some c =>
        let m := if j.started then m else startJob st j m
        let k := stackAt m st
        setStack st { k with engines := Sparse.set k.engines e { job := id, chunk := c } } m

/-- The next row of a gather: the lowest neither complete nor suspended. -/
def nextRow (j : Job) : Option Nat :=
  (List.range j.total).find? fun r => !j.complete.contains r && !j.suspended.contains r

/-- The started gather jobs that engine `g` has rows of, in start order. -/
def gatherJobs (k : Stack) (g : Nat) : List Job :=
  k.jobs.filter fun j => j.started && j.ending.isNone && j.kind.isNone && j.op == 9 && j.first == g && (nextRow j).isSome

/-- GATHER starts when its engine is free, and CLEAN, which the slices perform, in its turn. DEDUCED (log 38). -/
def startAlone (st : Nat) (j : Job) (m : Module) : Module :=
  let k := stackAt m st
  if j.started || !canStart k j || (j.op == 9 && !(gatherJobs k j.first).isEmpty) then m
  else
    let m := startJob st j m
    let k := stackAt m st
    if j.op = 9 then setStack st { k with gathers := Sparse.set k.gathers j.first (Sparse.get [] k.gathers j.first) } m
    else m

/-- A job takes the engines that are idle for it. -/
def takeJob (st : Nat) (m : Module) (id : Nat) : Module :=
  match jobAt m st id with
  | .none => m
  | some j =>
    if j.kind.isNone && j.op ≥ 9 then startAlone st j m else (List.range 32).foldl (takeEngine st id) m

/-- The lowest thread whose post waits on a stack. -/
def waitingPost (m : Module) (st : Nat) : Option (Nat × Word) :=
  m.threads.findSome? fun p =>
    match p.2.aperture with
    | some w => if w.off = postOffset st then some (p.1, w.value) else .none
    | .none => .none

/-- A place in the queue is free: a post that waits goes through. -/
def releasePost (st : Nat) (m : Module) : Module :=
  match waitingPost m st with
  | .none => m
  | some (t, v) => if queuedJobs (stackAt m st) ≥ 256 then m else completeAperture t (postJob (some t) st v m).2

/-- Engines leave the chunks of jobs that have ended, and take what is assigned to them: jobs in start order, and within
a job ascending chunks. -/
def assignAll (st : Nat) (m : Module) : Module :=
  let k := stackAt m st
  let engines := k.engines.filter fun r =>
    match jobAt m st r.2.job with
    | some j => j.ending.isNone
    | .none => false
  let m := setStack st { k with engines := engines } m
  if stackRuns m st then releasePost st ((k.jobs.map (·.id)).foldl (takeJob st) m) else m

/-! ## The start of a job (R283, R288) -/

/-- A job ends before it runs anything. -/
def refuseJob (st : Nat) (j : Job) (status n : Nat) (noDone : Bool) (m : Module) : Module :=
  let bad := noDone || status == 0
  let j := { j with ending := some (BitVec.ofNat 16 status, n), noDone := bad }
  let m := setJob st j m
  if bad then setStack st { stackAt m st with badRec := true } m else m

/-- A fault of a job before it has started: it waits, and its checks are made again. -/
def suspendStart (st : Nat) (j : Job) (asid : BitVec 6) (kind access va : Nat) (m : Module) : Module :=
  raiseFault (.chunk st j.id 0)
    { kind := kind, access := access, asid := asid, unit := handleStack st, tag := j.tag.toNat
      ring := j.ring, vaddr := va }
    (count .basin st 14 1 (setJob st { j with suspended := [0], total := jobTotal j } m))

/-- A job whose record has been read is checked: one that fails ends, and the others start in their turn. -/
def checkAndStart (st : Nat) (j : Job) (m : Module) : Module :=
  match (checkJob j (j.reach st)).go m with
  | (.error (.faultUnder asid kind access va), m') => suspendStart st j asid kind access va m'
  | (.error (.poison _ pa), m') => raiseError 3 0x23 (handleStack st) pa 0 (refuseJob st j 0x51 0 false m')
  | (.error s, _) => s.asks m
  | (.ok (some f, j), m) => refuseJob st j f.1 f.2 (tall j.doneAt || j.doneAt % 8 != 0) m
  | (.ok (.none, j), m) => setJob st { j with checked := true, total := jobTotal j } m

/-- Whether an earlier job of the stack has not completed. -/
def behindOthers (k : Stack) (j : Job) : Bool := k.jobs.any fun x => x.id < j.id

/-- The record of the next task job is read and checked, once its ORDER allows it to start. -/
def startNext (st : Nat) (m : Module) : Module :=
  match nextOf (stackAt m st) false with
  | .none => m
  | some j =>
    if j.checked || !j.suspended.isEmpty then m
    else
      let read : Acc (List Byte) :=
        if j.record.isEmpty then engineRead { j.reach st with direct := false } j.addr.toNat 64 else pure j.record
      match read.go m with
      | (.error (.poison _ pa), m') =>
        raiseError 3 0x23 (handleStack st) pa 0 (refuseJob st { j with record := List.replicate 64 0 } 0x51 0 true m')
      | (.error s, m') =>
        if s.waits then s.asks m else refuseJob st { j with record := List.replicate 64 0 } 0 0 true m'
      | (.ok rec, m) =>
        let j := { j with record := rec }
        if j.order && behindOthers (stackAt m st) j then setJob st j m else checkAndStart st j m

/-- JOB_START (R288). -/
def execJobStart (st : Nat) (s : State) : Outcome State Fault Refusal :=
  onModule (fun m => if stackRuns m st then assignAll st (startNext st m) else m) s

/-! ## Chunks (R284, R286, R290) -/

/-- Element index of a faulting address in its operand; the chunk's first element for any other address. -/
def elementAt (j : Job) (c access va : Nat) : Nat :=
  let in_ (used : Bool) (a w : Nat) : Option Nat :=
    if used && a ≤ va && va < a + j.count * w && w > 0 then some ((va - a) / w) else .none
  let z := in_ (usesZ j.op && j.op != 7) j.z (alignZ j)
  let x := in_ (usesX j.op && j.op != 8) j.x (alignX j)
  let y := in_ (usesY j.op) j.y (alignY j)
  ((if access = 1 then [z] else [x, y, z]).findSome? id).getD (4096 * c)

/-- A chunk, or the DONE write that stands after the last one, suspends behind its fault record. A job of a stopping thread
ends instead, without its DONE word if that is what faults (R290, R292). -/
def suspendChunk (st : Nat) (j : Job) (c element : Nat) (asid : BitVec 6) (kind access va : Nat) (m : Module) : Module :=
  let stopping := (threadAt m j.thread).run == .stopping
  let m := match jobAt m st j.id with
    | some k =>
      setJob st (if !stopping then { k with suspended := c :: k.suspended }
        else if c ≥ j.total then { k with noDone := true } else k) m
    | .none => m
  let m := raiseFault (if stopping then .gone else .chunk st j.id c)
    { kind := kind, access := access, asid := asid, unit := handleStack st, tag := j.tag.toNat, ring := j.ring
      element := element, vaddr := va } (count .basin st 14 1 m)
  if stopping then endJob st j.id 0x10 m else m

/-- A non-finite fold of a FINITE job with its LAYER (R314). DEDUCED (log 41). -/
def finiteFold (st : Nat) (j : Job) (m : Module) : Module :=
  let layer := BitVec.ofNat 12 j.alpha
  (gateEvent j.step (applyFold j.step true layer) (.fold (1000 + st) j.step true layer) m).2

/-- What a chunk whose access stopped does; `m` is the module before it. -/
def chunkStop (st : Nat) (j : Job) (c element : Nat) (s : Stop) (m m' : Module) : Module :=
  match s with
  | .fault kind access va => assignAll st (suspendChunk st j c element j.asid kind access va m')
  | .faultUnder asid kind access va => assignAll st (suspendChunk st j c element asid kind access va m')
  | .exc _ va => assignAll st (suspendChunk st j c element j.asid 0x05 0 va m')
  | .poison _ pa =>
    let m := if j.kind.isNone && j.op = 6 then finiteFold st j m' else m'
    assignAll st (endJob st j.id 0x51 (raiseError 3 0x23 (handleStack st) pa 0 m))
  | s => s.asks m

/-- The address of a stop. -/
def Stop.va : Stop → Nat
  | .fault _ _ va | .faultUnder _ _ _ va | .exc _ va | .poison va _ => va
  | _ => 0

def Stop.access : Stop → Nat
  | .fault _ a _ | .faultUnder _ _ a _ => a
  | _ => 0

def dropEngine (st e : Nat) (m : Module) : Module :=
  let k := stackAt m st
  setStack st { k with engines := Sparse.del k.engines e } m

/-- Engine `e` performs its chunk, if its job is of operation `op`. DEDUCED (log 40). -/
def onChunk (op : Nat) (act : Nat → Job → Nat → Reach → Acc Unit) (st e : Nat) (m : Module) : Module :=
  let m := assignAll st m
  match Sparse.find (stackAt m st).engines e with
  | .none => m
  | some r =>
    match jobAt m st r.job with
    | .none => m
    | some j =>
      if !stackRuns m st || r.done || j.kind.isSome || j.op != op || j.ending.isSome || (j.wantsClean && !j.cleaned) then m
      else
        match (act e j r.chunk (j.reach st)).go m with
        | (.ok _, m) =>
          let k := stackAt m st
          setStack st { k with engines := Sparse.set k.engines e { r with done := true } } m
        | (.error s, m') =>
          chunkStop st j r.chunk (elementAt j r.chunk s.access s.va) s m (dropEngine st e m')

/-- Results of chunk `c` go to Z, and their magnitudes to the tensor (R284). -/
def putElems (r : Reach) (j : Job) (c : Nat) (zs : List Nat) : Acc Unit := do
  let w := codeBytes j.zf
  engineWrite r (j.z + w * (j.span c).1) (joinElems w zs)
  if j.tv then modify (foldMagnitudes j.step j.tensor true (zs.map (widen j.zf))) else pure ()

/-- The pages of a chunk of Z translate, before anything is drawn or written. -/
def probeZ (r : Reach) (j : Job) (c : Nat) : Acc Unit :=
  let w := codeBytes j.zf
  engineProbe r .write (j.z + w * (j.span c).1) (w * (j.span c).2)

def convertChunk (e : Nat) (j : Job) (c : Nat) (r : Reach) : Acc Unit := do
  let xs ← readElems r j j.x j.xf c
  probeZ r j c
  let zs ← drawOn r.st (mapDraws (fun i x =>
    convertElem j.alpha j.zf (stepMode e j.rm j.ovs i) (widen j.xf x)) 0 xs)
  putElems r j c zs

/-- A chunk with two sources. -/
def pairChunk (f : Draws Fp.Mode → Nat → Nat → Draws Nat) (e : Nat) (j : Job) (c : Nat) (r : Reach) : Acc Unit := do
  let xs ← readElems r j j.x j.xf c
  let ys ← readElems r j j.y j.yf c
  probeZ r j c
  let zs ← drawOn r.st (mapDraws (fun i (p : Nat × Nat) =>
    f (stepMode e j.rm j.ovs i) (widen j.xf p.1) (widen j.yf p.2)) 0 (xs.zip ys))
  putElems r j c zs

def axpbyChunk (e : Nat) (j : Job) (c : Nat) (r : Reach) : Acc Unit :=
  pairChunk (axpbyElem j.alpha j.beta j.zf) e j c r

def mulChunk (e : Nat) (j : Job) (c : Nat) (r : Reach) : Acc Unit := pairChunk (mulElem j.alpha j.zf) e j c r

def fillChunk (e : Nat) (j : Job) (c : Nat) (r : Reach) : Acc Unit := do
  probeZ r j c
  let zs ← drawOn r.st (mapDraws (fun i (_ : Nat) => narrow j.zf (stepMode e j.rm j.ovs i) j.alpha) 0
    (List.range (j.span c).2))
  putElems r j c zs

/-- A chunk of REDUCE; the last one writes the result. -/
def reduceAct (_ : Nat) (j : Job) (c : Nat) (r : Reach) : Acc Unit := do
  let xs ← readElems r j j.x j.xf c
  let parts := Sparse.set j.partials c (BitVec.ofNat 32 (reduceChunk j (xs.map (widen j.xf))))
  if parts.length = j.total then
    let z := reduceAll j (parts.map fun p => p.2.toNat)
    engineWrite r j.z (bytesOf 4 z)
    if j.tv then modify (foldMagnitudes j.step j.tensor true [z]) else pure ()
  else pure ()
  modify fun m =>
    match jobAt m r.st j.id with
    | some k => setJob r.st { k with partials := parts } m
    | .none => m

/-- A chunk of FINITE (R314). -/
def finiteChunk (_ : Nat) (j : Job) (c : Nat) (r : Reach) : Acc Unit := do
  let xs ← readElems r j j.x j.xf c
  let vs := xs.map (widen j.xf)
  if j.tv then modify (foldMagnitudes j.step j.tensor false vs) else pure ()
  if vs.any (fun x => !Fp.finite32 x) then modify (finiteFold r.st j) else pure ()

def stashAct (e : Nat) (j : Job) (c : Nat) (r : Reach) : Acc Unit := stashChunk e j c r

def unstashAct (_ : Nat) (j : Job) (c : Nat) (r : Reach) : Acc Unit := do
  let ok ← unstashChunk j c r
  if ok then pure ()
  else modify fun m =>
    match jobAt m r.st j.id with
    | some k => setJob r.st { k with ending := some (0x43, 24), suspended := [] } m
    | .none => m

/-- CONVERT (R284). -/
def execConvert (st e : Nat) (s : State) : Outcome State Fault Refusal := onModule (onChunk 1 convertChunk st e) s

/-- AXPBY (R284). -/
def execAxpby (st e : Nat) (s : State) : Outcome State Fault Refusal := onModule (onChunk 2 axpbyChunk st e) s

/-- JOB_MUL (R284). -/
def execJobMul (st e : Nat) (s : State) : Outcome State Fault Refusal := onModule (onChunk 3 mulChunk st e) s

/-- REDUCE (R287). -/
def execReduce (st e : Nat) (s : State) : Outcome State Fault Refusal := onModule (onChunk 4 reduceAct st e) s

/-- FILL (R284). -/
def execFill (st e : Nat) (s : State) : Outcome State Fault Refusal := onModule (onChunk 5 fillChunk st e) s

/-- FINITE (R314). -/
def execFinite (st e : Nat) (s : State) : Outcome State Fault Refusal := onModule (onChunk 6 finiteChunk st e) s

/-- STASH (R326). -/
def execStash (st e : Nat) (s : State) : Outcome State Fault Refusal := onModule (onChunk 7 stashAct st e) s

/-- UNSTASH (R327). -/
def execUnstash (st e : Nat) (s : State) : Outcome State Fault Refusal := onModule (onChunk 8 unstashAct st e) s

/-- An engine's chunk is counted complete, and the engine goes on (R286). -/
def completeChunk (st e : Nat) (m : Module) : Module :=
  match Sparse.find (stackAt m st).engines e with
  | .none => m
  | some r =>
    if !r.done then m
    else
      let m := match jobAt m st r.job with
        | some j => setJob st { j with complete := r.chunk :: j.complete } m
        | .none => m
      assignAll st (dropEngine st e m)

/-- CHUNK_COMPLETE (R286). -/
def execChunkComplete (st e : Nat) (s : State) : Outcome State Fault Refusal :=
  onModule (fun m => if stackRuns m st then completeChunk st e m else m) s

/-! ## Region clean and back-invalidate (R296, R297) -/

/-- The line that `n` lines from X begin at. -/
def cleanLines (j : Job) (r : Reach) : Acc Unit :=
  engineClean { r with direct := true } .read (j.x - j.x % 128) (128 * j.count)

/-- CLEAN, the job operation. -/
def runClean (st j : Nat) (m : Module) : Module :=
  match jobAt m st j with
  | .none => m
  | some k =>
    if !stackRuns m st || !k.started || k.kind.isSome || k.op != 10 || k.ending.isSome || !k.complete.isEmpty
        || !k.suspended.isEmpty || (k.wantsClean && !k.cleaned) then m
    else
      match (cleanLines k (k.reach st)).go m with
      | (.ok _, m) => setJob st { k with complete := [0] } m
      | (.error s, m') => chunkStop st k 0 ((s.va - k.x) / 128) s m m'

/-- CLEAN (R296). -/
def execClean (st j : Nat) (s : State) : Outcome State Fault Refusal := onModule (runClean st j) s

/-- The row that a gather reads `r`-th (R294). -/
def rowIndex (j : Job) (reach : Reach) (r : Nat) : Acc Nat := do
  if indexedGather j then
    let bs ← engineRead reach (j.y + 4 * r) 4
    pure (ofBytes bs)
  else pure r

/-- The direct ranges of a job are cleaned. -/
def cleanRanges (j : Job) (r : Reach) : Acc Unit := do
  if j.op = 10 then pure ()
  else if j.op = 9 then
    if indexedGather j then engineClean r .read j.y (4 * j.count) else pure ()
    for k in List.range j.count do
      let i ← rowIndex j r k
      engineClean r .read (intLow 64 (j.x + rowOffset j i)) (rowBytes j)
    engineClean r .write j.z (sizeZ j)
  else
    if usesX j.op then engineClean r .read j.x (sizeX j) else pure ()
    if usesY j.op then engineClean r .read j.y (sizeY j) else pure ()
    if usesZ j.op then engineClean r .write j.z (sizeZ j) else pure ()

/-- Whether an address lies in the index, the source or the destination of a row. -/
def rowHolds (j : Job) (r : Reach) (m : Module) (va row : Nat) : Bool :=
  let within (a n : Nat) : Bool := a ≤ va && va < a + n
  (indexedGather j && within (j.y + 4 * row) 4) || within (j.z + row * rowBytes j) (rowBytes j)
    || (match (rowIndex j r row).go m with
      | (.ok i, _) => within (intLow 64 (j.x + rowOffset j i)) (rowBytes j)
      | _ => false)

/-- ELEMENT of a fault in the region clean of a job. -/
def cleanElement (j : Job) (r : Reach) (m : Module) (s : Stop) : Nat :=
  if j.op = 9 then ((List.range j.count).find? (rowHolds j r m s.va)).getD 0 else elementAt j 0 s.access s.va

/-- An engine leaves a chunk. -/
def dropChunk (st j c : Nat) (m : Module) : Module :=
  let k := stackAt m st
  setStack st { k with engines := k.engines.filter fun r => !(r.2.job == j && r.2.chunk == c) } m

/-- The region clean of a job: a page that faults suspends its first chunk, and is cleaned after FR_RESUME.
DEDUCED (log 66). -/
def regionClean (st j : Nat) (m : Module) : Module :=
  match jobAt m st j with
  | .none => m
  | some k =>
    if !stackRuns m st || !k.started || k.kind.isSome || !k.wantsClean || k.cleaned || k.ending.isSome
        || !k.suspended.isEmpty then m
    else
      match (cleanRanges k (k.reach st)).go m with
      | (.ok _, m) => setJob st { k with cleaned := true } m
      | (.error s, m') => chunkStop st k 0 (cleanElement k (k.reach st) m s) s m (dropChunk st k.id 0 m')

/-- REGION_CLEAN (R296). -/
def execRegionClean (st j : Nat) (s : State) : Outcome State Fault Refusal := onModule (regionClean st j) s

/-- Whether nothing of a job runs any more: it has ended, or all of it is complete. -/
def jobOver (m : Module) (st : Nat) (j : Job) : Bool :=
  (j.ending.isSome || (j.started && j.total > 0 && j.complete.length ≥ j.total))
    && !((stackAt m st).engines.any fun r => r.2.job == j.id)

/-- One line of a back-invalidate: whether it conflicted; none while its home slice must wait. -/
def backLine (st line : Nat) (m : Module) : Option (Bool × Module) :=
  (invalidateLine line m).map fun r =>
    let m := count .basin st 7 1 r.2
    if r.1 then (true, basinSource st 2 (count .basin st 8 1 (setStack st { stackAt m st with conflict := true } m)))
    else (false, m)

/-- A job's lines are back-invalidated one by one; one that must wait keeps itself and the lines after it for later. -/
def backLines (st : Nat) (j : Job) : List Nat → Module → Module
  | [], m => m
  | l :: ls, m =>
    match backLine st l m with
    | some r =>
      let j := { j with direct := ls, conflict := j.conflict || r.1 }
      backLines st j ls (setJob st j r.2)
    | .none => waitClean l m

def backInvalidate (st : Nat) (j : Job) (m : Module) : Module := backLines st j j.direct m

/-- BACK_INVALIDATE (R297). -/
def execBackInvalidate (st j : Nat) (s : State) : Outcome State Fault Refusal :=
  onModule (fun m =>
    match jobAt m st j with
    | some k => if stackRuns m st && k.kind.isNone && jobOver m st k then backInvalidate st k m else m
    | .none => m) s

/-! ## The end of a job (R289, R290) -/

/-- `n` free bytes (log 4). -/
def freeBytes : Nat → Module → List Byte × Module
  | 0, m => ([], m)
  | n + 1, m =>
    let b := takeFree 8 m
    let r := freeBytes n b.2
    (b.1 :: r.1, r.2)

/-- Where chunk `c` stands in Z: address and bytes of each piece. -/
def chunkPlaces (j : Job) (c : Nat) : List (Nat × Nat) :=
  if j.op = 4 then [(j.z, 4)]
  else if j.op = 7 then [(j.z + 4864 * c, 4864)]
  else if j.op = 9 then
    let w := codeBytes j.xf
    if natBit j.sub 0 then (List.range j.alpha).map fun i => (j.z + (i * j.count + c) * w, w)
    else [(j.z + c * rowBytes j, rowBytes j)]
  else if usesZ j.op then [(j.z + codeBytes j.zf * (j.span c).1, codeBytes j.zf * (j.span c).2)]
  else []

/-- Elements of chunks not counted complete are undefined in Z: free bytes, where Z translates (R290). -/
def loseChunks (st : Nat) (j : Job) (m : Module) : Module :=
  let lost := (List.range j.total).filter fun c => !j.complete.contains c
  (lost.flatMap (chunkPlaces j)).foldl (fun m p =>
    (pieces p.1 p.2).foldl (fun m q =>
      let b := freeBytes q.2 m
      match (engineWrite { j.reach st with direct := false } q.1 b.1).go b.2 with
      | (.ok _, m) => m
      | (.error _, _) => b.2) m) m

/-- STATUS and COUNT of the DONE word. -/
def doneStatus (j : Job) : Nat × Nat :=
  match j.ending with
  | some (s, n) => (s.toNat, n)
  | .none => (0, j.count)

/-- The 8 bytes of a DONE word (R289). -/
def doneBytes (j : Job) (squall : Bool) : List Byte :=
  bytesOf 2 (doneStatus j).1 ++ [0]
    ++ bytesOf 1 ((if j.conflict then 1 else 0) + (if squall then 2 else 0)) ++ bytesOf 4 (doneStatus j).2

/-- A gather stream ends: entries never used count, and reads outstanding are dropped; the buffer stays while another
stream of its engine has started (R295). -/
def endStream (st : Nat) (j : Job) (m : Module) : Module :=
  let k := stackAt m st
  let other := k.jobs.any fun x => x.id != j.id && x.started && x.kind.isNone && x.op == 9 && x.first == j.first
  if j.op ≠ 9 ∨ j.kind.isSome ∨ !j.started ∨ other then m
  else
    let lines := Sparse.get [] k.gathers j.first
    let left := (lines.filter fun e => !e.stale && !e.used).length
    let m := (lines.filter (·.open_)).foldl (fun m e =>
      dropRegister st (dramRequest e.line forGather) m) m
    count .basin st 12 left (setStack st { stackAt m st with gathers := Sparse.del k.gathers j.first } m)

/-- A job leaves its stack: counters, sources and BS_ERR (R283, R289). -/
def closeJob (st : Nat) (j : Job) (m : Module) : Module :=
  let m := endStream st j m
  let k := stackAt m st
  let status := (doneStatus j).1
  let failed := j.ending.isSome
  let last : BitVec 16 := if failed ∧ status ≠ 0 then BitVec.ofNat 16 status else k.lastStatus
  let m := setStack st { k with jobs := k.jobs.filter (fun x => x.id != j.id), lastStatus := last } m
  let m := forgetFaults (fun o => match o with
    | .chunk a b _ => a == st && b == j.id
    | _ => false) m
  let m := if failed then basinSource st 1 (count .basin st 2 1 m) else count .basin st 1 1 m
  let m := if j.event then basinSource st 0 m else m
  assignAll st m

/-- The record of a job aborted while it was queued is read for its DONE address. -/
def withRecord (st : Nat) (j : Job) : Acc Job := do
  if j.record.isEmpty then
    let bs ← engineRead { j.reach st with direct := false } j.addr.toNat 64
    pure { j with record := bs, noDone := tall (field bs 56 8) || field bs 56 8 % 8 != 0 }
  else pure j

/-- The DONE word is written and the job completes. -/
def finishJob (st : Nat) (j : Job) (m : Module) : Module :=
  let m := match j.ending with
    | some (s, _) => if s = 0x12 ∨ s = 0x51 then loseChunks st j m else m
    | .none => m
  let squall := j.squall || m.squall.active
  if j.noDone || j.doneAt == 0 then closeJob st j m
  else
    let r := { j.reach st with direct := false }
    match (engineWrite r j.doneAt (doneBytes j squall)).go m with
    | (.ok _, m) => closeJob st j m
    | (.error (.fault kind access va), m') => suspendChunk st j j.total 0 j.asid kind access va m'
    | (.error s, _) => s.asks m

/-- JOB_COMPLETE (R289): all of the job, its direct writes and their back-invalidate included, is over. -/
def completeJob (st j : Nat) (m : Module) : Module :=
  let m := assignAll st m
  match jobAt m st j with
  | .none => m
  | some k =>
    if !stackRuns m st || k.kind.isSome || !jobOver m st k || !k.direct.isEmpty || !k.suspended.isEmpty then m
    else
      match (withRecord st k).go m with
      | (.ok k, m) => finishJob st k (setJob st k m)
      | (.error s, m') =>
        if s.waits then s.asks m else
        let m := setStack st { stackAt m' st with badRec := true } m'
        finishJob st { k with record := List.replicate 64 0, noDone := true } m

/-- JOB_COMPLETE (R289). -/
def execJobComplete (st j : Nat) (s : State) : Outcome State Fault Refusal := onModule (completeJob st j) s

/-! ## Request registers (R278) -/

/-- The oldest waiting access whose bank is under the cap takes a register. -/
def grantRegister (st : Nat) (m : Module) : Module :=
  let k := stackAt m st
  if k.held.length ≥ stackRegisters m then m
  else
    match k.waiting.find? (fun r => !k.capped r.bank) with
    | some r => setStack st { k with held := k.held ++ [r], waiting := k.waiting.erase r } m
    | .none => m

/-- REQUEST_REGISTER_GRANT (R278): a free register goes to a waiting request; else every request that finds none counts a
cycle. -/
def execRequestRegisterGrant (st : Nat) (s : State) : Outcome State Fault Refusal :=
  onModule (fun m =>
    let k := stackAt m st
    if !alive m || k.waiting.isEmpty then m
    else if k.held.length ≥ stackRegisters m then
      count .basin st 5 (k.waiting.filter fun r => !k.capped r.bank).length m
    else grantRegister st m) s

end Sys2Proof.Machine
end

