-- ==== Sys2Proof/Machine/Crypto.lean ====
section
/-! DEFINITION. AES-256, CMAC (NIST SP 800-38B), the KDF of SP 800-108 and AES Key Unwrap (RFC 3394),
as R72 and R81 name them. Blocks are sixteen bytes in the order the standards write them. -/

namespace Sys2Proof.Machine.Crypto

open Sys2Proof Sys2Proof.Machine

/-- The AES S-box, 32 entries to a number, entry 0 lowest. -/
def sboxWords : List Nat :=
  [0xC072A49CAFA2D4ADF04759FA7DC982CA76ABD7FE2B670130C56F6BF27B777C63,
   0x75B227EBE28012079A059618C323C7041531D871F1E5A534CCF73F362693FDB7,
   0xCF584C4A39BECB6A5BB1FC20ED00D153842FE329B3D63B52A05A6E1B1A2C8309,
   0xD2F3FF1021DAB6BCF5389D928F40A351A89F3C507F02F94585334D43FBAAEFD0,
   0xDB0B5EDE14B8EE4688902A22DC4F816073195D643D7EA7C41744975FEC130CCD,
   0x08AE7A65EAF4566CA94ED58D6D37C8E779E4959162ACD3C25C2406490A3A32E0,
   0x9E1DC186B95735610EF6034866B53E708A8BBD4B1F74DDE8C6B4A61C2E2578BA,
   0x16BB54B00F2D99416842E6BF0D89A18CDF2855CEE9871E9B948ED9691198F8E1]

/-- The inverse S-box, 32 entries to a number. -/
def invSboxWords : List Nat :=
  [0xCBE9DEC444438E3487FF2F9B8239E37CFBD7F3819EA340BF38A53630D56A0952,
   0x25D18B6D49A25B76B224D92866A12E084EC3FA420B954CEE3D23C2A632947B54,
   0x849D8DA75746155EDAB9EDFD5048706C92B6655DCC5CA4D41698688664F6F872,
   0x6B8A130103BDAFC1020F3FCA8F1E2CD00645B3B80558E4F70AD3BC8C00ABD890,
   0x6EDF751CE837F9E28535ADE72274AC9673E6B4F0CECFF297EADC674F4111913A,
   0xF45ACD78FEC0DB9A2079D2C64B3E56FC1BBE18AA0E62B76F89C5291D711AF147,
   0xEF9CC9939F7AE52D0D4AB519A97F51605FEC8027591012B131C7078833A8DD1F,
   0x7D0C2155631469E126D677BA7E042B17619953833CBBEBC8B0F52AAE4D3BE0A0]

/-- Entry `x` of a byte table held as numbers of 32 entries. -/
def tableAt (t : List Nat) (x : Nat) : Nat := ((t.getD (x / 32) 0) >>> (8 * (x % 32))) % 256

def sbox (x : Nat) : Nat := tableAt sboxWords x
def invSbox (x : Nat) : Nat := tableAt invSboxWords x

/-- Multiplication by x in the AES field. -/
def xtime (a : Nat) : Nat := let b := 2 * a; if 256 ≤ b then (b ^^^ 0x11B) % 256 else b

/-- Product in the AES field, over the low four bits of `b`. -/
def gmul (a b : Nat) : Nat :=
  let a1 := xtime a
  let a2 := xtime a1
  let a3 := xtime a2
  (if b.testBit 0 then a else 0) ^^^ (if b.testBit 1 then a1 else 0) ^^^
    (if b.testBit 2 then a2 else 0) ^^^ (if b.testBit 3 then a3 else 0)

/-- A block or word as numbers below 256. -/
abbrev Bytes := List Nat

def xorBytes (a b : Bytes) : Bytes := List.zipWith (· ^^^ ·) a b

/-- The key schedule of a 32-byte key: `60` words of four bytes, newest first while it grows. -/
def expand : Nat → Nat → Nat → List Bytes → List Bytes
  | 0, _, _, ws => ws
  | n + 1, i, rcon, ws =>
    let prev := ws.headD []
    let back := ws.getD 7 []
    let (t, rc) :=
      if i % 8 = 0 then
        let r := (prev.drop 1 ++ prev.take 1).map sbox
        (match r with
         | a :: r' => (a ^^^ rcon) :: r'
         | [] => [], xtime rcon)
      else if i % 8 = 4 then (prev.map sbox, rcon)
      else (prev, rcon)
    expand n (i + 1) rc (xorBytes back t :: ws)

/-- Consecutive groups of four. -/
def words4 : Nat → Bytes → List Bytes
  | 0, _ => []
  | n + 1, bs => bs.take 4 :: words4 n (bs.drop 4)

/-- The fifteen round keys, sixteen bytes each, in order. -/
def roundKeys (key : Bytes) : List Bytes :=
  let ws := (expand 52 8 1 (words4 8 key).reverse).reverse
  (List.range 15).map fun r => ((ws.drop (4 * r)).take 4).flatten

/-- ShiftRows: byte `i` comes from column `(i / 4 + i % 4) mod 4`. -/
def shiftRows (b : Bytes) : Bytes := (List.range 16).map fun i => b.getD ((i + 4 * (i % 4)) % 16) 0
def invShiftRows (b : Bytes) : Bytes := (List.range 16).map fun i => b.getD ((i + 16 * 4 - 4 * (i % 4)) % 16) 0

/-- A matrix column product over each of the four columns. -/
def mixWith (c0 c1 c2 c3 : Nat) (b : Bytes) : Bytes :=
  (List.range 16).map fun i =>
    let col := 4 * (i / 4)
    let r := i % 4
    gmul (b.getD (col + r) 0) c0 ^^^ gmul (b.getD (col + (r + 1) % 4) 0) c1 ^^^
      gmul (b.getD (col + (r + 2) % 4) 0) c2 ^^^ gmul (b.getD (col + (r + 3) % 4) 0) c3

/-- Encryption of one block. -/
def encrypt (key : Bytes) (blk : Bytes) : Bytes :=
  let ks := roundKeys key
  let s0 := xorBytes blk (ks.headD [])
  let s13 := ((ks.drop 1).take 13).foldl
    (fun s k => xorBytes (mixWith 2 3 1 1 (shiftRows (s.map sbox))) k) s0
  xorBytes (shiftRows (s13.map sbox)) (ks.getD 14 [])

/-- Decryption of one block. -/
def decrypt (key : Bytes) (blk : Bytes) : Bytes :=
  let ks := (roundKeys key).reverse
  let s0 := xorBytes blk (ks.headD [])
  let s13 := ((ks.drop 1).take 13).foldl
    (fun s k => mixWith 14 11 13 9 (xorBytes ((invShiftRows s).map invSbox) k)) s0
  xorBytes ((invShiftRows s13).map invSbox) (ks.getD 14 [])

/-- The number a list of bytes spells, first byte highest. -/
def beNat (b : Bytes) : Nat := b.foldl (fun a x => a * 256 + x) 0

/-- `n` bytes of a number, highest first. -/
def beBytes : Nat → Nat → Bytes
  | 0, _ => []
  | n + 1, x => beBytes n (x / 256) ++ [x % 256]

/-- Doubling in the CMAC field. -/
def cmacDouble (b : Bytes) : Bytes :=
  let x := beNat b
  let y := (2 * x) % 2 ^ 128
  beBytes 16 (if x.testBit 127 then y ^^^ 0x87 else y)

/-- The chain over all blocks but the last; `n` bounds the blocks. -/
def cmacChain (key k1 k2 : Bytes) : Nat → Bytes → Bytes → Bytes
  | 0, x, _ => x
  | n + 1, x, msg =>
    if msg.length ≤ 16 then
      let last :=
        if msg.length = 16 then xorBytes msg k1
        else xorBytes (msg ++ 0x80 :: List.replicate (15 - msg.length) 0) k2
      encrypt key (xorBytes x last)
    else cmacChain key k1 k2 n (encrypt key (xorBytes x (msg.take 16))) (msg.drop 16)

/-- AES-256-CMAC of a message (R72). -/
def cmac (key msg : Bytes) : Bytes :=
  let k1 := cmacDouble (encrypt key (List.replicate 16 0))
  let k2 := cmacDouble k1
  cmacChain key k1 k2 (msg.length / 16 + 1) (List.replicate 16 0) msg

/-- Eight bytes of a 64-bit value, lowest first (R72). -/
def le8 (x : Nat) : Bytes := (bytesOf 8 x).map (·.toNat)

/-- The key-wrapping key derived from a slot's key (R81). -/
def wrapKey (key : Bytes) (uid : Nat) : Bytes :=
  let label : Bytes := [0x46, 0x4C, 0x57, 0x52, 0x41, 0x50]
  let input (i : Nat) : Bytes := beBytes 4 i ++ label ++ [0] ++ le8 uid ++ beBytes 4 0x100
  cmac key (input 1) ++ cmac key (input 2)

/-- One step of RFC 3394 unwrapping: step `t` acts on register `(t - 1) % n`. -/
def unwrapStep (kek : Bytes) (n : Nat) (ar : Bytes × List Bytes) (t : Nat) : Bytes × List Bytes :=
  let i := (t - 1) % n
  let a := beBytes 8 (beNat ar.1 ^^^ t)
  let b := decrypt kek (a ++ ar.2.getD i [])
  (b.take 8, ar.2.set i (b.drop 8))

/-- Consecutive groups of eight. -/
def words8 : Nat → Bytes → List Bytes
  | 0, _ => []
  | n + 1, bs => bs.take 8 :: words8 n (bs.drop 8)

/-- AES Key Unwrap of 40 bytes: the 32-byte key, or `none` when the integrity check fails. -/
def unwrap (kek wrapped : Bytes) : Option Bytes :=
  let r0 := words8 4 (wrapped.drop 8)
  let (a, r) := ((List.range 24).reverse.map (· + 1)).foldl (unwrapStep kek 4) (wrapped.take 8, r0)
  if a = List.replicate 8 0xA6 then some r.flatten else none

end Sys2Proof.Machine.Crypto
end

