-- ==== Sys2Proof/Machine/Critical.lean ====
section
/-! DEFINITION. The command authenticator (R70-R82), and the critical commands that need no reset and no switch of a
clock: key load and retire, freeze and thaw, Squall (R354, R435-R437). -/

namespace Sys2Proof.Machine

open Host

/-! ## Key slots (R77, R78) -/

def slotAt (a : Auth) (i : Nat) : KeySlot :=
  match i with
  | 0 => a.slot0
  | 1 => a.slot1
  | 2 => a.slot2
  | _ => a.slot3

def setSlot (i : Nat) (k : KeySlot) (a : Auth) : Auth :=
  match i with
  | 0 => { a with slot0 := k }
  | 1 => { a with slot1 := k }
  | 2 => { a with slot2 := k }
  | _ => { a with slot3 := k }

/-- A slot that holds a key and a counter below 2^64 − 1. -/
def KeySlot.active (k : KeySlot) : Bool := k.key.isSome && k.last != BitVec.allOnes 64

/-- The key bytes of a slot, as the cipher takes them. -/
def KeySlot.bytes (k : KeySlot) : Crypto.Bytes := (k.key.getD []).map (·.toNat)

/-- The ceiling stored for counter `c`: the next multiple of 65,536 above it, or 2^64 − 1. -/
def nextCeiling (c : Word) : Word :=
  let n := (c.toNat / 65536 + 1) * 65536
  if n ≥ 2 ^ 64 then BitVec.allOnes 64 else BitVec.ofNat 64 n

/-- Step d of R73 with the ceiling store of R78. -/
def KeySlot.consume (k : KeySlot) (c : Word) : KeySlot :=
  { k with last := c, ceil := if c ≥ k.ceil then nextCeiling c else k.ceil }

/-- A slot just loaded (R82), and one retired. -/
def loadedSlot (key : List Byte) (perms : BitVec 7) : KeySlot := { key := some key, perms := perms, last := 0, ceil := 65536 }
def emptySlot : KeySlot := {}

/-- Every non-empty slot's LAST at power-on (R78). -/
def KeySlot.powerOn (k : KeySlot) : KeySlot := if k.key.isSome then { k with last := k.ceil } else k

def Auth.powerOn (a : Auth) : Auth :=
  { slot0 := a.slot0.powerOn, slot1 := a.slot1.powerOn, slot2 := a.slot2.powerOn, slot3 := a.slot3.powerOn }

/-! ## The critical descriptor (R71-R73) -/

def keySlotOf (e : Entry) : Nat := byteAt e.bytes 8 % 4
def counterOf (e : Entry) : Word := BitVec.ofNat 64 (field e.bytes 16 8)

/-- Bytes of a record from `lo`, as the cipher takes them. -/
def natBytes (bs : List Byte) (lo n : Nat) : Crypto.Bytes := ((bs.drop lo).take n).map (·.toNat)

/-- The MAC of AUTH_UID followed by a message (R72, R379, R421). -/
def macWithUid (k : KeySlot) (uid : Word) (msg : Crypto.Bytes) : Crypto.Bytes :=
  Crypto.cmac k.bytes (Crypto.le8 uid.toNat ++ msg)

/-- Step c: the tag of bytes 112-127. -/
def macVerifies (k : KeySlot) (uid : Word) (e : Entry) : Bool :=
  macWithUid k uid (natBytes e.bytes 0 112) == natBytes e.bytes 112 16

/-- The permission bit of an opcode. -/
def permits (k : KeySlot) (op : Nat) : Bool := k.perms.getLsbD (op - 0x80)

/-- What step f and check 5 find: nothing wrong, or a failure; none while a read of memory must wait. -/
abbrev BodyCheck := KeySlot → Entry → State → Option (Option Failure × State)

/-- The failing fields of a body that reads no memory. -/
def fieldsCheck (f : KeySlot → Entry → State → List Nat) : BodyCheck := fun k e s =>
  some ((lowest (f k e s)).map fun off => (0x43, off), s)

/-- Steps a to c of R73: the step that fails, with its status and AUTH_FAIL counter. -/
def keyChecks (k : KeySlot) (uid : Word) (e : Entry) : Option (Nat × Nat) :=
  if !k.active then some (0x31, 0)
  else if counterOf e ≤ k.last then some (0x30, 1)
  else if !macVerifies k uid e then some (0x30, 2)
  else .none

/-- A failing command retires. -/
def failCommand (e : Entry) (f : Failure) (s : State) : State := { s with m := failDescriptor e f s.m }

/-- A failure of AUTH_FAIL kind `n` is counted and logged (R74). The spec names neither CLASS nor DCODE of its record:
they are free values, but never FATAL. DESIGN CHOICE (log 36). -/
def noteAuthFailure (n : Nat) (m : Module) : Module :=
  let c := takeFree 4 (count .auth 0 n 1 m)
  let d := takeFree 8 c.2
  writeRecord (newRecord d.2 (c.1 % 15) d.1 handleAuth 0 0) d.2

/-- The authenticator checks a command, in the order of R73, and a sound one acts. DEDUCED (log 36). -/
def authenticate (e : Entry) (body : BodyCheck) (act : KeySlot → Entry → State → State) (s : State) : State :=
  match failureOf s.m e with
  | some f => failCommand e f s
  | .none =>
    let k := slotAt s.auth (keySlotOf e)
    match keyChecks k s.m.board.uid e with
    | some (status, n) => failCommand e (status, 0) { s with m := noteAuthFailure n s.m }
    | .none =>
      let k := k.consume (counterOf e)
      let t := { s with auth := setSlot (keySlotOf e) k s.auth }
      if !permits k (opcodeOf e) then failCommand e (0x30, 0) { t with m := noteAuthFailure 3 t.m }
      else if asidOf e ≠ 0 then failCommand e (0x43, 2) t
      else
        match body k e t with
        | .none => { s with m := setEntry { e with held := true } s.m }
        | some (some f, t) => failCommand e f t
        | some (.none, t) => act k e t

/-- A command that decodes a critical descriptor: `sub` tells the rows of one opcode apart. -/
def onCritical (p op : Nat) (sub : Entry → Bool) (body : BodyCheck) (act : KeySlot → Entry → State → State)
    (s : State) : Outcome State Fault Refusal :=
  .next (match decodable s.m p (· == op) with
    | .none => s
    | some e => if sub e then authenticate e body act s else s)

/-- A command that has taken effect completes. -/
def finishCommand (e : Entry) (c0 : Nat) (s : State) : State := { s with m := completeEntry e 0 c0 0 0 s.m }

/-- Always one of the rows of its opcode. -/
def anyBody : Entry → Bool := fun _ => true

/-! ## Key load and retire (R80-R82) -/

def keyTarget (e : Entry) : Nat := byteAt e.bytes 25 % 4
def keyPerms (e : Entry) : BitVec 7 := BitVec.ofNat 7 (byteAt e.bytes 26)

/-- The key a load unwraps (R81). -/
def unwrapped (k : KeySlot) (uid : Word) (e : Entry) : Option Crypto.Bytes :=
  Crypto.unwrap (Crypto.wrapKey k.bytes uid.toNat) (natBytes e.bytes 32 40)

def loadFailures (k : KeySlot) (e : Entry) (s : State) : List Nat :=
  failing (byteAt e.bytes 24 > 1) 24
    ++ failing (keyPerms e &&& ~~~k.perms != 0) 26
    ++ failing (unwrapped k s.m.board.uid e).isNone 32

/-- Whether an ACTIVE slot that may load keys stands once slot `i` is empty. -/
def keeperWithout (i : Nat) (a : Auth) : Bool :=
  (List.range 4).any fun j => j != i && (slotAt a j).active && (slotAt a j).perms.getLsbD 0

def retireFailures (_ : KeySlot) (e : Entry) (s : State) : List Nat :=
  failing (!keeperWithout (keyTarget e) s.auth) 25
    ++ failing (byteAt e.bytes 26 != 0) 26
    ++ failing ((List.range 40).any fun i => byteAt e.bytes (32 + i) != 0) 32

/-- KEY_LOAD (R82). -/
def execKeyLoad (p : Nat) (s : State) : Outcome State Fault Refusal :=
  onCritical p 0x80 (fun e => byteAt e.bytes 24 != 1) (fieldsCheck loadFailures) (fun k e s =>
    match unwrapped k s.m.board.uid e with
    | .none => s
    | some key =>
      let slot := loadedSlot (key.map (BitVec.ofNat 8)) (keyPerms e)
      finishCommand e 0 { s with auth := setSlot (keyTarget e) slot s.auth }) s

/-- KEY_RETIRE (R82). -/
def execKeyRetire (p : Nat) (s : State) : Outcome State Fault Refusal :=
  onCritical p 0x80 (fun e => byteAt e.bytes 24 == 1) (fieldsCheck retireFailures) (fun _ e s =>
    finishCommand e 0 { s with auth := setSlot (keyTarget e) emptySlot s.auth }) s

/-! ## The freeze table (R354) -/

def freezeFailures (_ : KeySlot) (e : Entry) (_ : State) : List Nat :=
  let n := field e.bytes 26 2
  failing (n == 0 || field e.bytes 24 2 + n > 4096) 26 ++ failing (byteAt e.bytes 28 > 1) 28

/-- Step f, and then no bank may be OPEN. -/
def freezeCheck : BodyCheck := fun k e s =>
  match lowest (freezeFailures k e s) with
  | some off => some (some (0x43, off), s)
  | .none =>
    if s.m.gate.bank0.state = .opened ∨ s.m.gate.bank1.state = .opened then some (some (0x45, handleIodW), s)
    else some (.none, s)

/-- Layers of a range set or cleared, and how many changed. -/
def changeFreeze (set : Bool) (e : Entry) (m : Module) : Nat × Module :=
  let first := field e.bytes 24 2
  let layers := (List.range (field e.bytes 26 2)).map (first + ·)
  let changed := (layers.filter fun l => m.freezeTab.getLsbD l != set).length
  let tab := layers.foldl (fun t l => if set then t ||| (1#4096 <<< l) else t &&& ~~~(1#4096 <<< l)) m.freezeTab
  (changed, { m with freezeTab := tab, freezeGen := BitVec.ofNat 32 (field e.bytes 32 4) })

def freezeAct (set : Bool) (_ : KeySlot) (e : Entry) (s : State) : State :=
  let r := changeFreeze set e s.m
  finishCommand e r.1 { s with m := r.2 }

/-- FREEZE (R354). -/
def execFreeze (p : Nat) (s : State) : Outcome State Fault Refusal :=
  onCritical p 0x83 (fun e => byteAt e.bytes 28 != 0) freezeCheck (freezeAct true) s

/-- THAW (R354). -/
def execThaw (p : Nat) (s : State) : Outcome State Fault Refusal :=
  onCritical p 0x83 (fun e => byteAt e.bytes 28 == 0) freezeCheck (freezeAct false) s

/-! ## Squall (R435-R437) -/

def squallFailures (e : Entry) : List Nat :=
  let b := e.bytes
  let knobs := byteAt b 40
  failing (byteAt b 24 > 1) 24
    ++ failing (natBit knobs 0 && field b 42 2 % 1024 == 0) 42
    ++ failing (natBit knobs 2 && field b 46 2 % 1024 == 0) 46
    ++ failing (byteAt b 48 > 224) 48
    ++ failing (field b 49 2 % 1024 > 896) 49
    ++ failing (natBit knobs 4 && field b 52 2 % 1024 == 0) 52

/-- Step f, and an enable needs Squall's clock. -/
def squallCheck : BodyCheck := fun _ e s =>
  match lowest (squallFailures e) with
  | some off => some (some (0x43, off), s)
  | .none =>
    if byteAt e.bytes 24 = 1 ∧ unitGated s.m handleSquall then some (some (0x45, handleSquall), s) else some (.none, s)

/-- ACTIVE rises: everything alive carries SQUALL from now on. -/
def markSquall (m : Module) : Module :=
  { m with
    hg := { m.hg with pool := m.hg.pool.map fun e => { e with squall := true } }
    basins := m.basins.map fun k => (k.1, { k.2 with jobs := k.2.jobs.map fun j => { j with squall := true } })
    weir := { m.weir with batches := m.weir.batches.map fun b => { b with squall := true } } }

/-- The settings of an accepted enable. -/
def enableSquall (e : Entry) (m : Module) : Module :=
  let before := m
  let m := markSquall { m with squall := { m.squall with
    enabled := true, active := true, knobs := BitVec.ofNat 5 (byteAt e.bytes 40), cfg := (e.bytes.drop 40).take 24
    gen := Gen.seed (BitVec.ofNat 64 (field e.bytes 32 8)) 0, disabledAt := .none, skip := 0 } }
  let m := count .squall 0 3 (newlyHidden before m) m
  if before.squall.active then m else edgeAll 323 m

/-- The settings of an accepted disable: ACTIVE stays for 1 µs more. -/
def disableSquall (e : Entry) (m : Module) : Module :=
  let x := m.squall
  { m with squall := { x with
    enabled := false, knobs := 0, cfg := (e.bytes.drop 40).take 24, skip := 0
    disabledAt := if x.enabled then some m.time else x.disabledAt } }

/-- SQUALL_ENABLE (R435). -/
def execSquallEnable (p : Nat) (s : State) : Outcome State Fault Refusal :=
  onCritical p 0x85 (fun e => byteAt e.bytes 24 != 0) squallCheck (fun _ e s =>
    finishCommand (match entryAt s.m e.id with
      | some x => { x with squall := true }
      | .none => e) 0 { s with m := enableSquall e s.m }) s

/-- SQUALL_DISABLE (R435). -/
def execSquallDisable (p : Nat) (s : State) : Outcome State Fault Refusal :=
  onCritical p 0x85 (fun e => byteAt e.bytes 24 == 0) squallCheck (fun _ e s =>
    finishCommand e 0 { s with m := disableSquall e s.m }) s

/-- SQUALL_ACTIVE_END (R437). -/
def execSquallActiveEnd (s : State) : Outcome State Fault Refusal :=
  onModule (fun m =>
    match m.squall.disabledAt with
    | .none => m
    | some t =>
      if (m.time - t).toNat ≥ micros 1 then
        edgeAll 323 { m with squall := { m.squall with active := false, disabledAt := .none } }
      else m) s

end Sys2Proof.Machine
end

