-- ==== Sys2Proof/Machine/Remote.lean ====
section
/-! DEFINITION. Requests of other modules at their home, and the responses to this module's own (R368, R371,
R374-R376). -/

namespace Sys2Proof.Machine

open Host

/-! ## Requests performed at the home slice (R244, R266, R368, R425) -/

/-- A response of this module to the sender of a request. -/
def reply (x : Msg) (type : BitVec 8) (op : Nat) (to_ : BitVec 12 × BitVec 16) (payload : List Byte) (m : Module) :
    Module :=
  inject { type := type, op := BitVec.ofNat 8 op, dst := to_.1, src := m.fabric.node, tid := to_.2, addr := x.addr,
           payload := payload } m

/-- The slots that hold bytes `off .. off + n - 1` of a line. DEDUCED (log 48). -/
def slotsOf (data : List Byte) (off n : Nat) : List Byte :=
  (data.drop (16 * (off / 16))).take (16 * ceilDiv (off % 16 + n) 16)

/-- RD at its home: the data, ERR 1 where no memory stands, or ERR 2 on poisoned data. -/
def homeRead (x : Msg) (m : Module) : Option Module :=
  let n := 2 ^ (x.op.toNat % 8)
  let off := x.addr % 128
  if !plainMemory m x.addr then some (reply x 0x13 1 (x.src, x.tid) [] m)
  else
    match llcRead (lineOf x.addr) 0 m with
    | .none => .none
    | some (d, m) =>
      if touchesPoison d.2 off n then
        some (reply x 0x13 2 (x.src, x.tid) [] (raiseError 3 0x24 (handleSlice (homeSlice x.addr)) x.addr 0 m))
      else some (reply x 0x10 0 (x.src, x.tid) (slotsOf d.1 off n) m)

/-- WR at its home. -/
def homeWrite (x : Msg) (m : Module) : Option Module :=
  let d := lineData x 0
  if !plainMemory m x.addr then some (reply x 0x13 1 (x.src, x.tid) [] m)
  else
    match llcWrite (lineOf x.addr) 0 d.2 (fun i => natBit d.1 i) 0 m with
    | .none => .none
    | some m => some (reply x 0x11 0 (x.src, x.tid) [] m)

/-- ATOM at its home (R259): the operand and, for ACAS, the compared value fill its slot. -/
def homeAtomic (x : Msg) (m : Module) : Option Module :=
  let n := if x.op.getLsbD 4 then 8 else 4
  if !plainMemory m x.addr then some (reply x 0x13 1 (x.src, x.tid) [] m)
  else
    match llcAtomic (BitVec.ofNat 4 x.op.toNat) n x.addr (field x.payload 0 n) (field x.payload 8 n) m with
    | .none => .none
    | some (some old, m) => some (reply x 0x12 0 (x.src, x.tid) (padSlots (bytesOf n old)) m)
    | some (.none, m) =>
      some (reply x 0x13 2 (x.src, x.tid) [] (raiseError 3 0x26 (handleSlice (homeSlice x.addr)) x.addr 0 m))

/-- The elements of a RED, each at its address. -/
def redElements (x : Msg) : List (Nat × Nat) :=
  let d := lineData x 1
  let w := redBytes x.op.toNat
  (List.range (128 / w)).filterMap fun i =>
    if natBit d.1 (w * i) then some (lineOf x.addr + w * i, field d.2 (w * i) w) else .none

/-- RED at its home: every element is applied once, and each origin is acknowledged (R376). -/
def homeReduce (x : Msg) (m : Module) : Option Module :=
  if !plainMemory m x.addr then
    some ((redOrigins x).foldl (fun m o => reply x 0x13 1 o [] m) m)
  else
    let r := (redElements x).foldl (fun (r : Option Module) e =>
      match r with
      | some m => llcReduce (BitVec.ofNat 3 x.op.toNat) e.1 e.2 m
      | .none => .none) (some m)
    r.map fun m => (redOrigins x).foldl (fun m o => reply x 0x11 0 o [] m) m

/-- A request of type `type` is performed; it waits in its buffer while its channel is blocked. -/
def atHome (type : Nat) (act : Msg → Module → Option Module) (msg : List Byte) (s : State) :
    Outcome State Fault Refusal :=
  onModule (fun m =>
    if alive m then
      onMessage type msg (fun x m' => (act x m').getD
        (waitMiss 0 (lineOf x.addr) (type == 0x01) (if m.fabric.inbox.any fun a => a.msg == x then m else keepHere .none [x] m))) m
    else m) s

/-- RD (R368). -/
def execFabricRead (msg : List Byte) (s : State) : Outcome State Fault Refusal := atHome 0x01 homeRead msg s

/-- WR (R368). -/
def execFabricWrite (msg : List Byte) (s : State) : Outcome State Fault Refusal := atHome 0x02 homeWrite msg s

/-- ATOM (R368). -/
def execFabricAtom (msg : List Byte) (s : State) : Outcome State Fault Refusal := atHome 0x03 homeAtomic msg s

/-- RED (R376). -/
def execFabricRed (msg : List Byte) (s : State) : Outcome State Fault Refusal := atHome 0x04 homeReduce msg s

/-! ## Responses (R375) -/

/-- A response meets its tag: a late one is discarded and counted, one without a tag is discarded. -/
def onTag (x : Msg) (act : Tag → Module → Module) (m : Module) : Module :=
  match m.fabric.tags.find? fun g => g.tid == x.tid with
  | .none => m
  | some g =>
    if g.quarantined then count .fabric 0 2 1 m
    else act g { m with fabric := { m.fabric with tags := m.fabric.tags.filter fun h => h.tid != g.tid } }

/-- A response of type `type` reaches its requester. -/
def atRequester (type : Nat) (act : Msg → Tag → Module → Module) (msg : List Byte) (s : State) :
    Outcome State Fault Refusal :=
  onModule (fun m => if alive m then onMessage type msg (fun x => onTag x (act x)) m else m) s

/-- A line of another module has come. DEDUCED (log 27). -/
def keepLine (g : Tag) (data : List Byte) (poison : Bool) (m : Module) : Module :=
  { m with fabric := { m.fabric with
      remote := (remoteKey g, data, poison) :: m.fabric.remote.filter fun r => r.1 != remoteKey g } }

/-- A prefetched line goes to the data L1, unless the core has touched it meanwhile, holds it, or cannot make room for
it now (R254, R258). -/
def keepPrefetched (t : Nat) (g : Tag) (data : List Byte) (m : Module) : Module :=
  if (l1Find (coreAt m (t / 2)) (remoteKey g)).isSome then m
  else
    match (l1Install t { line := remoteKey g, data := data, pf := true }).go m with
    | (.ok _, m') => m'
    | (.error _, _) => m

/-- RDR (R368): a scalar load takes its bytes and the L1 its line; any other access finds the line. -/
def takeReadData (x : Msg) (g : Tag) (m : Module) : Module :=
  match g.who with
  | .load t rd bytes sgn hint =>
    let off := g.va.toNat % 128
    let fill := if hint = 3 then .none else some (remoteKey g, x.payload, (0 : BitVec 4), hint)
    deliver t rd (extendLoad (lineValue x.payload off bytes) bytes sgn) fill m
  | .line _ => keepLine g x.payload false m
  | .prefetch t true => keepPrefetched t g x.payload m
  | _ => m

/-- RDR (R368, R375). -/
def execReadData (msg : List Byte) (s : State) : Outcome State Fault Refusal := atRequester 0x10 takeReadData msg s

/-- ACK (R368, R375): the write or reduction is complete once its tag is free. -/
def execFabricAck (msg : List Byte) (s : State) : Outcome State Fault Refusal := atRequester 0x11 (fun _ _ m => m) msg s

/-- ATOMR (R368, R375). -/
def execAtomReturn (msg : List Byte) (s : State) : Outcome State Fault Refusal :=
  atRequester 0x12 (fun x g m =>
    match g.who with
    | .atomic t rd bytes => deliver t rd (extendLoad (field x.payload 0 bytes) bytes (bytes == 4)) .none m
    | _ => m) msg s

/-! ## Failures (R374, R375) -/

/-- Who pays for a failed request. -/
def Requestor.owner : Requestor → Option FaultOwner
  | .load t _ _ _ _ | .atomic t _ _ => some (.thread t)
  | .reduce (some t) => some (.thread t)
  | .reduce .none | .prefetch _ _ => .none
  | .write o | .line o => some o

/-- ACCESS of R65. -/
def Requestor.access : Requestor → Nat
  | .load _ _ _ _ _ | .line _ | .prefetch _ _ => 0
  | .write _ => 1
  | .atomic _ _ _ | .reduce _ => 3

/-- A request is kept, to be sent again when its fault is resumed. -/
def keepFailed (g : Tag) (m : Module) : Module :=
  { m with fabric := { m.fabric with failed := m.fabric.failed ++ [g] } }

/-- A line that could not be read: the access that needs it meets the fault (R172, R173, R142). -/
def loseLine (kind : Nat) (g : Tag) (m : Module) : Module :=
  let rest := m.fabric.lost.filter fun x => !(x.1 == g.who && x.2.1 == remoteKey g)
  { m with fabric := { m.fabric with lost := (g.who, remoteKey g, kind) :: rest } }

/-- PC of an access that has left its instruction behind. -/
def accessPc (th : Thread) : Requestor → BitVec 48
  | .load _ rd _ _ _ | .atomic _ rd _ =>
    match th.loads.find? fun p => p.rd == rd && p.data.isNone with
    | some p => p.pc
    | .none => th.pc
  | _ => th.pc

/-- Who a batch's accesses are checked as. -/
def Batch.agent (b : Batch) : Agent := { asid := b.asid, level := if b.level = 0 then 0 else 1, unit := handleWeir }

/-- A batch waits behind a fault record (R388). -/
def suspendBatch (b : Batch) (kind access va : Nat) (m : Module) : Module :=
  raiseFault (.batch b.id)
    { kind := kind, access := access, asid := b.asid, unit := handleWeir, tag := b.tag.toNat, ring := b.ring, vaddr := va }
    { m with weir := { m.weir with batches := m.weir.batches.map fun k =>
        if k.id == b.id then { k with waiting := true } else k } }

/-- The owner of a failed request faults (R252, R66). -/
def failOwner (kind : Nat) (g : Tag) (m : Module) : Module :=
  match g.who.owner with
  | some (.thread t) =>
    if (threadAt m t).run = .suspended then m
    else faultThread t kind g.who.access 0 g.va.toNat (accessPc (threadAt m t) g.who) m
  | some (.entry p) =>
    match entryAt m p with
    | some e =>
      match e.work with
      | .copy r => if r.waiting then m else stopCopy e r (.fault kind g.who.access g.va.toNat) m
      | _ => m
    | .none => m
  | some (.batch b) =>
    match m.weir.batches.find? fun k => k.id == b with
    | some k => if k.waiting then m else suspendBatch k kind g.who.access g.va.toNat m
    | .none => m
  | _ => m

/-- The access of a request faults: at once where it has left its instruction behind, else as its access meets it. A
copy makes the access anew when it goes on. -/
def failAccess (kind : Nat) (g : Tag) (m : Module) : Module :=
  match g.who with
  | .line _ => loseLine kind g m
  | .prefetch _ _ => m
  | .write (.entry _) => failOwner kind g m
  | _ => failOwner kind g (keepFailed g m)

/-- ERR (R374, R425). -/
def takeError (x : Msg) (g : Tag) (m : Module) : Module :=
  if x.op = 2 then
    match g.who with
    | .load t rd _ _ _ => deliverPoison t rd 0x21 g.addr m
    | .atomic t rd _ => deliverPoison t rd 0x26 g.addr m
    | .line _ => keepLine g (List.replicate 128 0) true m
    | _ => m
  else if x.op = 3 then failAccess 0x08 g (edgeAll 269 (count .fabric 0 3 1 m))
  else if x.op = 1 then failAccess 0x05 g m
  else m

/-- ERR (R374). -/
def execFabricErr (msg : List Byte) (s : State) : Outcome State Fault Refusal := atRequester 0x13 takeError msg s

/-- What a request needs of its leaf (R248). -/
def Requestor.need : Requestor → Need
  | .load _ _ _ _ _ | .line _ | .prefetch _ _ => .read
  | .write _ => .write
  | .atomic _ _ _ | .reduce _ => .update

/-- The thread whose access a request is. A write-back is none: its line has no virtual address. -/
def Requestor.accessor : Requestor → Option Nat
  | .load t _ _ _ _ | .atomic t _ _ | .reduce (some t) => some t
  | _ => .none

/-- A request is sent to `node` at `addr`. -/
def resendTo (g : Tag) (node : BitVec 12) (addr : Nat) : Acc Unit := do
  let m ← get
  let r := sendRequest g.who g.va.toNat { g.msg with dst := node, addr := addr } m
  match r.1 with
  | .sent => set r.2
  | .wait => stop .wait
  | .unreachable => set r.2; stop (.fault 0x08 g.who.access g.va.toNat)

/-- The line that an outstanding load may place in the L1 is the one its access now leads to. -/
def rekeyLoad (t : Nat) (rd : Reg) (key : Nat) (m : Module) : Module :=
  let th := threadAt m t
  setThread t { th with loads := th.loads.map fun p =>
    if p.rd == rd && p.data.isNone then { p with line := some key } else p } m

/-- A load that now leads to this module's memory: from the L1, or at the home slice. -/
def loadHere (t : Nat) (rd : Reg) (bytes : Nat) (sgn : Bool) (hint : BitVec 2) (a : Nat) (m : Module) : Module :=
  match l1Find (coreAt m (t / 2)) (lineOf a) with
  | some l =>
    if touchesPoison l.poison (a % 128) bytes then deliverPoison t rd 0x21 a m
    else deliver t rd (extendLoad (lineValue l.data (a % 128) bytes) bytes sgn) .none m
  | .none =>
    (arrive (homeSlice a) { ask := .load t rd bytes sgn, addr := a, hint := hint } (rekeyLoad t rd (lineOf a) m)).2

/-- A thread's access goes on at the place its address now leads to. -/
def resumeAt (g : Tag) (t : Nat) (p : Place) : Acc Unit := do
  match g.who, p with
  | .load _ rd bytes sgn hint, .mem a => modify (loadHere t rd bytes sgn hint a)
  | .load _ rd _ _ _, .remote n a => do
    modify (rekeyLoad t rd (placeKey p))
    resendTo g (BitVec.ofNat 12 n) (lineOf a)
  | .load _ rd bytes sgn _, .host a => do
    let m ← get
    let bs ← readHost (.line (.thread t)) (threadAt m t).priv.asid g.va.toNat a bytes
    modify (deliver t rd (extendLoad (ofBytes bs) bytes sgn) .none)
  | .atomic _ rd bytes, .mem a => do
    l1Evict t p
    let op : BitVec 4 := BitVec.ofNat 4 g.msg.op.toNat
    let ask : Ask := .atomic t rd op bytes (field g.msg.payload 0 bytes) (field g.msg.payload 8 bytes)
    modify fun m => (arrive (homeSlice a) { ask := ask, addr := a } m).2
  | .reduce w, .mem a => do
    l1Evict t p
    for e in redElements g.msg do
      modify fun m => (arrive (homeSlice a)
        { ask := .reduce w (BitVec.ofNat 3 g.msg.op.toNat) e.2, addr := lineOf a + e.1 % 128 } m).2
  | .atomic _ _ _, .remote n a => do
    l1Evict t p
    resendTo g (BitVec.ofNat 12 n) a
  | .reduce _, .remote n a => do
    l1Evict t p
    resendTo g (BitVec.ofNat 12 n) (lineOf a)
  | _, _ => stop (.fault 0x05 g.who.access g.va.toNat)

/-- A request whose fault has been resumed: the access of a thread walks again (R251), and any other request is sent over
the routes in force (R374). DEDUCED (log 34). -/
def resumeRequest (g : Tag) : Acc Unit := do
  match g.who.accessor with
  | some t => do
    let m ← get
    let p ← resolveMem (threadAgent m t) g.who.need g.va.toNat
    resumeAt g t p
  | .none => resendTo g g.msg.dst g.msg.addr

/-- One request of an owner is resumed, unless the owner has faulted anew; none while it must wait. -/
def resendOne (m : Module) (g : Tag) : Option Module :=
  match g.who.accessor with
  | some t => if (threadAt m t).run = .suspended then some (keepFailed g m) else go m
  | .none => go m
where
  go (m : Module) : Option Module :=
    match (resumeRequest g).go m with
    | (.ok _, m) => some m
    | (.error (.fault kind _ _), m) => some (failAccess kind g m)
    | (.error (.exc _ _), m) => some (failAccess 0x05 g m)
    | (.error (.poison _ pa), m) =>
      some (match g.who with
        | .load t rd _ _ _ => deliverPoison t rd 0x21 pa m
        | _ => m)
    | (.error _, _) => .none

/-- The requests of an owner whose fault has been resumed go on; none while one of them must wait. -/
def resendFailed (o : FaultOwner) (m : Module) : Option Module :=
  (m.fabric.failed.filter fun g => g.who.owner == some o).foldlM resendOne
    (dropFailed (fun w => w.owner == some o) m)

/-- RTO in timestamp ticks: 0 acts as 1 ms. -/
def rtoTicks (m : Module) : Nat := millis (Nat.max m.fabric.rto.toNat 1)

/-- What fails with a request that had no response (R375). DEDUCED (log 50). COUNT0 of a task's record is 0: the spec
states no completed bytes for a task. DESIGN CHOICE (log 67). -/
def failRequest (g : Tag) (m : Module) : Module :=
  match g.who.owner with
  | some (.thread t) =>
    let th := threadAt m t
    let loads := match g.who with
      | .load _ rd _ _ _ | .atomic _ rd _ => th.loads.filter fun p => !(p.rd == rd && p.data.isNone)
      | _ => th.loads
    endTask th.task { status := 0x51 } (setThread t { th with loads := loads } m)
  | some (.entry p) =>
    match entryAt m p with
    | some e =>
      match e.work with
      | .copy r =>
        let r := { r with sent := 0, tag := false }
        setCopy e (if r.ending.isSome then r else { r with ending := some { status := 0x51, count0 := r.done } }) m
      | _ => m
    | .none => m
  | some (.batch b) =>
    { m with weir := { m.weir with batches := m.weir.batches.map fun k =>
        if k.id == b && k.ending.isNone then { k with ending := some (0x51, k.combined.length) } else k } }
  | _ => m

/-- REQUEST_TIMEOUT (R375). -/
def execRequestTimeout (tid : BitVec 16) (s : State) : Outcome State Fault Refusal :=
  onModule (fun m =>
    match m.fabric.tags.find? fun g => g.tid == tid with
    | .none => m
    | some g =>
      if !alive m || g.quarantined || (m.time - g.sent).toNat < rtoTicks m then m
      else
        let tags := m.fabric.tags.map fun h => if h.tid == tid then { h with quarantined := true, sent := m.time } else h
        let m := count .fabric 0 1 1 { m with fabric := { m.fabric with tags := tags } }
        let die := if tid.toNat < 4096 then handleIodW else handleIodE
        failRequest g (edgeAll 270 (raiseError 4 0x33 die g.addr 0 m))) s

/-- TAG_QUARANTINE_END (R375). -/
def execTagQuarantineEnd (tid : BitVec 16) (s : State) : Outcome State Fault Refusal :=
  onModule (fun m =>
    match m.fabric.tags.find? fun g => g.tid == tid with
    | .none => m
    | some g =>
      if g.quarantined && (m.time - g.sent).toNat ≥ rtoTicks m then
        { m with fabric := { m.fabric with tags := m.fabric.tags.filter fun h => h.tid != tid } }
      else m) s

end Sys2Proof.Machine
end

