-- ==== Sys2Proof/Machine/Sluiceway.lean ====
section
/-! DEFINITION. Sluiceway ports, ways, RING_HOLD and link retry (R359-R370), and topology change (R379-R381). -/

namespace Sys2Proof.Machine

open Host

/-! ## Ports -/

def portAt (m : Module) (w i : Nat) : Port := Sparse.get {} (wayAt m w).ports i

def setPort (w i : Nat) (p : Port) (m : Module) : Module :=
  let y := wayAt m w
  setWay w { y with ports := Sparse.set y.ports i p } m

/-- A port enters a state. -/
def Port.enter (p : Port) (st : PortState) (now : Word) : Port := { p with state := st, since := now }

/-- A port is in a state that began at least `n` ticks ago. -/
def portDue (m : Module) (w i : Nat) (st : PortState) (n : Nat) : Bool :=
  alive m && (portAt m w i).state == st && (m.time - (portAt m w i).since).toNat ≥ n

/-! ## A port or way goes down (R365) -/

/-- Held flits go out again, in order. -/
def resend (w : Nat) (l : List Sent) (m : Module) : Module :=
  l.foldl (fun m s => putFlit w s.port 0 s.seq s.msgs m) (clearWire w m)

/-- Flits of a lost port go out again on the ports that remain. -/
def replayPort (w i : Nat) (m : Module) : Module :=
  let y := wayAt m w
  let ports := activePorts y
  let n := (y.retry.filter fun s => s.port == i).length
  let moved (s : Sent) : Sent := { s with port := ports.getD (s.seq.toNat % ports.length) 0 }
  let again := (y.retry.filter fun s => s.port == i).map moved
  let retry := y.retry.map fun s => if s.port = i then moved s else s
  resend w again (count .way w 2 n (setWay w { y with retry := retry } m))

/-- Messages that were queued for a way that has gone down are routed again. -/
def rerouteQueues (w : Nat) (m : Module) : Module :=
  let y := wayAt m w
  let all := (y.queues.map (·.2)).flatten
  all.foldl (fun m q => post q.arrived q.msg q.slots m) (setWay w { y with queues := [] } m)

/-- The last port has left ACTIVE: the way goes down, its unacknowledged flits are discarded and counted. -/
def wayDown (w : Nat) (m : Module) : Module :=
  let y := wayAt m w
  let m := setWay w { y with up := false, neigh := 0, retry := [], early := [], freed := [], heldBack := 0 } m
  let m := count .way w 4 y.retry.length m
  let m := edgeAll (256 + w) (raiseError 4 0x32 (handleWay w) 0 0 m)
  let lost := ((y.retry.map (·.msgs)).flatten).filter fun x => x.type.toNat / 16 == 2
  rerouteQueues w (lost.foldl (fun m x => lostWeir x m) m)

/-- A port takes another state; one that was ACTIVE leaves its way. -/
def leavePort (w i : Nat) (p : Port) (m : Module) : Module :=
  let old := portAt m w i
  let p := { p with matched := false, lock := 0, linkDue := false }
  let m := setPort w i p m
  if old.state = .active then
    let m := raiseError 4 0x31 (handlePort w i) 0 0 (count .port (4 * w + i) 5 1 m)
    if !old.matched then m
    else if (activePorts (wayAt m w)).isEmpty then wayDown w m
    else edgeAll (264 + w) (replayPort w i m)
  else m

/-- A port enters FAILED with a reason. -/
def failPort (w i : Nat) (reason : BitVec 3) (m : Module) : Module :=
  leavePort w i { (portAt m w i).enter .failed m.time with reason := reason } m

/-! ## RING_HOLD (R363) -/

/-- The two ways of a dimension: false for X. -/
def dimWays (dim : Bool) : List Nat := if dim then [0, 2] else [1, 3]

/-- Whether some enabled port of a way has passed LOOPBACK. -/
def wayPassed (m : Module) (w : Nat) : Bool :=
  (List.range 4).any fun i => (portAt m w i).passed && (portAt m w i).enable

/-- Ports of a way that wait in LOOPBACK after their test go on to WAIT. -/
def releasePorts (w : Nat) (m : Module) : Module :=
  (List.range 4).foldl (fun m i =>
    let p := portAt m w i
    if p.state = .loopback ∧ p.passed then setPort w i (p.enter .wait m.time) m else m) m

/-- Both outputs of a dimension are asserted once each of its ways has a port that has passed. -/
def assertHold (dim : Bool) (m : Module) : Module :=
  let ws := dimWays dim
  if ws.all (fun w => (wayAt m w).hold) then ws.foldl (fun m w => releasePorts w m) m
  else if ws.all (fun w => wayPassed m w && (wayAt m w).retryAt.isNone) then
    ws.foldl (fun m w =>
      releasePorts w (setWay w { wayAt m w with hold := true, holdSince := m.time, holdDue := true } m)) m
  else m

/-- Both outputs are deasserted. -/
def releaseHold (dim : Bool) (m : Module) : Module :=
  (dimWays dim).foldl (fun m w => setWay w { wayAt m w with hold := false, holdDue := false } m) m

/-- A port goes back to LOOPBACK and is tested again. -/
def toLoopback (w i : Nat) (m : Module) : Module :=
  leavePort w i { (portAt m w i).enter .loopback m.time with passed := false } m

/-! ## Training (R362) -/

/-- The loop that clocks the lanes of a way (R403). -/
def laneLoop (w : Nat) : Nat := if w = 0 ∨ w = 3 then 6 else 7

/-- The Sluiceway is out of reset and the lanes of a way have their clock (R422). -/
def slOut (m : Module) (w : Nat) : Bool :=
  !m.errors.stopped && !m.clocks.bootFail && m.clocks.step ≥ 9 && (Sparse.get {} m.clocks.loops (laneLoop w)).lock
    && !unitGated m (handleWay w)

/-- PORT_TRAINING_ENTRY (R362). -/
def execPortTrainingEntry (w i : Nat) (s : State) : Outcome State Fault Refusal :=
  onModule (fun m =>
    let p := portAt m w i
    if slOut m w && portPresent m.board.part w i && p.enable && p.state == .disabled then
      setPort w i { p.enter .loopback m.time with passed := false } m
    else m) s

/-- LOOPBACK_COMPLETE (R362). -/
def execLoopbackComplete (w i : Nat) (ok : Bool) (s : State) : Outcome State Fault Refusal :=
  onModule (fun m =>
    if !portDue m w i .loopback (millis 1) || (portAt m w i).passed then m
    else if ok then assertHold (w % 2 == 0) (setPort w i { portAt m w i with passed := true } m)
    else failPort w i 1 m) s

/-- A port goes from one training state to the next. -/
def trainStep (w i : Nat) (a b : PortState) (lock : BitVec 8) (m : Module) : Module :=
  if alive m && (portAt m w i).state == a then setPort w i { (portAt m w i).enter b m.time with lock := lock } m else m

/-- SIGNAL_DETECTED (R362). -/
def execSignalDetected (w i : Nat) (s : State) : Outcome State Fault Refusal :=
  onModule (trainStep w i .wait .train 0) s

/-- TRAINING_COMPLETE (R362). -/
def execTrainingComplete (w i : Nat) (s : State) : Outcome State Fault Refusal :=
  onModule (trainStep w i .train .align 0) s

/-- LINK is to be sent on a port. -/
def oweLink (w i : Nat) (m : Module) : Module := setPort w i { portAt m w i with linkDue := true } m

/-- ALIGN_COMPLETE (R362): all eight lanes are locked, and LINK messages are exchanged. -/
def execAlignComplete (w i : Nat) (s : State) : Outcome State Fault Refusal :=
  onModule (fun m =>
    let m := trainStep w i .align .handshake 0xFF m
    if (portAt m w i).state = .handshake then oweLink w i m else m) s

/-- The time limit of a training state, in milliseconds, and the reason of its failure. -/
def trainLimit : PortState → Option (Nat × BitVec 3)
  | .wait => some (1000, 2)
  | .train => some (500, 2)
  | .align => some (10, 3)
  | .handshake => some (1, 4)
  | _ => .none

/-- TRAINING_STATE_TIMEOUT (R362). -/
def execTrainingStateTimeout (w i : Nat) (s : State) : Outcome State Fault Refusal :=
  onModule (fun m =>
    match trainLimit (portAt m w i).state with
    | some (n, reason) => if portDue m w i (portAt m w i).state (millis n) then failPort w i reason m else m
    | .none => m) s

/-- LOCK_LOSS (R362). -/
def execLockLoss (w i : Nat) (s : State) : Outcome State Fault Refusal :=
  onModule (fun m => if portDue m w i .active 0 then failPort w i 3 m else m) s

/-- ERRMAX_EXCEEDED (R362): codewords of one millisecond that cannot be corrected. -/
def execErrmaxExceeded (w i : Nat) (codewords : Nat) (s : State) : Outcome State Fault Refusal :=
  onModule (fun m =>
    if !portDue m w i .active 0 then m
    else
      let m := count .port (4 * w + i) 2 codewords m
      let max := (portAt m w i).errMax.toNat
      if max ≠ 0 ∧ codewords > max then failPort w i 5 m else m) s

/-- RECEIVE_IDLE_TIMEOUT (R362). -/
def execReceiveIdleTimeout (w i : Nat) (s : State) : Outcome State Fault Refusal :=
  onModule (fun m =>
    if portDue m w i .active 0 && (m.time - (portAt m w i).heard).toNat ≥ micros 100 then failPort w i 6 m else m) s

/-- FAILED_TIMEOUT (R362). -/
def execFailedTimeout (w i : Nat) (s : State) : Outcome State Fault Refusal :=
  onModule (fun m =>
    if portDue m w i .failed (millis 100) then
      if (wayAt m w).hold then setPort w i ((portAt m w i).enter .wait m.time) m else toLoopback w i m
    else m) s

/-- RING_HOLD_TIMEOUT (R363): the check 2 s after assertion. -/
def execRingHoldTimeout (dim : Bool) (s : State) : Outcome State Fault Refusal :=
  onModule (fun m =>
    let ws := dimWays dim
    let due := ws.all fun w => (wayAt m w).hold && (wayAt m w).holdDue && (m.time - (wayAt m w).holdSince).toNat ≥ millis 2000
    if !alive m || !due then m
    else if ws.all fun w => (List.range 4).any fun i => (portAt m w i).state == .active then
      ws.foldl (fun m w => setWay w { wayAt m w with holdDue := false } m) m
    else
      let m := releaseHold dim m
      let m := ws.foldl (fun m w => (List.range 4).foldl (fun m i =>
        if (portAt m w i).state = .disabled then m else toLoopback w i m) m) m
      let m := ws.foldl (fun m w => setWay w { wayAt m w with retryAt := some (m.time + BitVec.ofNat 64 (millis 10000)) } m) m
      edgeAll 272 m) s

/-- RING_HOLD_RETRY (R363). -/
def execRingHoldRetry (dim : Bool) (s : State) : Outcome State Fault Refusal :=
  onModule (fun m =>
    let ws := dimWays dim
    let due := ws.all fun w => match (wayAt m w).retryAt with
      | some t => t ≤ m.time
      | .none => false
    if alive m && due then
      assertHold dim (ws.foldl (fun m w => setWay w { wayAt m w with retryAt := .none } m) m)
    else m) s

/-! ## LINK (R365) -/

/-- A partner's identity matches. DEDUCED (log 49). -/
def linkMatches (f : Fabric) (w i : Nat) (node : BitVec 12) (valid : Bool) (way port : Nat) (nx ny : BitVec 6) : Bool :=
  let d := dimOf w
  way == opposite w && port == i
    && (!(valid && f.valid) ||
      (nx == f.nx && ny == f.ny && coord node.toNat (1 - d) == coord f.node.toNat (1 - d)
        && coord node.toNat d != coord f.node.toNat d))

/-- A way comes up: its credits and sequence numbers start again. -/
def wayUp (w : Nat) (node : BitVec 12) (m : Module) : Module :=
  let y := wayAt m w
  if y.up then setWay w { y with neigh := node } m
  else
    edgeAll (260 + w) (setWay w { y with
      up := true, neigh := node, seq := 0, ack := 0xFFFF, discarding := false, early := [], retry := []
      retrySince := m.time, credits := [], freed := [], heldBack := 0 } m)

/-- A mismatch is noted. -/
def misWired (w : Nat) (m : Module) : Module :=
  edgeAll 268 (raiseError 4 0x34 (handleWay w) 0 0 (setWay w { wayAt m w with misWire := true } m))

/-- LINK (R365). -/
def execLinkMessage (w i : Nat) (node : BitVec 12) (valid : Bool) (way port : Nat) (nx ny : BitVec 6) (s : State) :
    Outcome State Fault Refusal :=
  onModule (fun m =>
    let p := portAt m w i
    let ok := linkMatches m.fabric w i node valid way port nx ny
    if !alive m then m
    else if p.state = .handshake then
      if ok then
        wayUp w node (count .port (4 * w + i) 4 1
          (setPort w i { p.enter .active m.time with matched := true, heard := m.time } m))
      else failPort w i 4 (misWired w m)
    else if p.state = .active then
      if ok then
        let m := setPort w i { p with heard := m.time } m
        setWay w { wayAt m w with neigh := node } m
      else (activePorts (wayAt m w)).foldl (fun m k => failPort w k 4 m) (misWired w m)
    else m) s

/-! ## Flits (R366, R367) -/

/-- One byte of the IEEE 802.3 CRC-32, lowest bit first. -/
def crcBits : Nat → Nat → Nat
  | 0, c => c
  | n + 1, c => crcBits n (if c % 2 = 1 then (c / 2) ^^^ 0xEDB88320 else c / 2)

def crc32 (bs : List Byte) : Nat :=
  (bs.foldl (fun c b => crcBits 8 (c ^^^ b.toNat)) 0xFFFFFFFF) ^^^ 0xFFFFFFFF

/-- Bytes 0-11 and the slots of a flit as it goes out: unused slots are zero (R366). -/
def Flit.front (f : Flit) : List Byte :=
  let slots := (f.msgs.map fun x => x.size).foldl (· + ·) 0
  let returns := (List.range 4).foldl (fun n v => n + f.returns.getD v 0 * 2 ^ (12 * v)) 0
  bytesOf 1 f.kind.toNat ++ bytesOf 1 slots ++ bytesOf 2 f.seq.toNat ++ bytesOf 2 f.ack.toNat ++ bytesOf 6 returns

def Flit.slots (f : Flit) : List Byte :=
  let bs := (f.msgs.map encodeMsg).flatten
  bs ++ List.replicate (1008 - bs.length) 0

/-- The 1,024 bytes of a flit (R366). -/
def Flit.bytes (f : Flit) : List Byte := f.front ++ bytesOf 4 (crc32 (f.front ++ f.slots)) ++ f.slots

/-- The CRC of a flit stands over bytes 0-11 and the slots. -/
def flitSound (f : List Byte) : Bool :=
  f.length == 1024 && field f 12 4 == crc32 (f.take 12 ++ f.drop 16)

/-- `a` lies at or before `b` in sequence order. -/
def seqLe (a b : BitVec 16) : Bool := (b - a).toNat < 32768

/-- ACK and credit returns of a sound flit. DEDUCED (log 48). -/
def takeReturns (w : Nat) (f : List Byte) (m : Module) : Module :=
  let y := wayAt m w
  let ack := BitVec.ofNat 16 (field f 4 2)
  let retry := y.retry.filter fun s => !seqLe s.seq ack
  let cr := field f 6 6
  let credits := (List.range 4).foldl (fun c v =>
    Sparse.set c v (Nat.min (vcSlots v) (y.credit v + cr / 2 ^ (12 * v) % 4096))) y.credits
  setWay w { y with
    retry := retry, credits := credits
    retrySince := if retry.length < y.retry.length then m.time else y.retrySince } m

/-- A message of a data flit is taken: discarded where a reserved field is not 0, else forwarded, or kept for this
module. -/
def takeMessage (w : Nat) (x : Msg) (m : Module) : Module :=
  if x.type = 0x38 then freeArrival (some w) x m
  else if x.unsound then freeArrival (some w) x (refuseMsg (some w) x m)
  else post (some w) x x.size m

/-- The messages of a data flit are taken. -/
def takeMessages (w : Nat) (msgs : List Msg) (m : Module) : Module :=
  msgs.foldl (fun m x => takeMessage w x m) (count .way w 1 1 m)

/-- Flits received ahead of order that follow the last in order. -/
def takeEarly : Nat → Nat → Module → Module
  | 0, _, m => m
  | fuel + 1, w, m =>
    let y := wayAt m w
    match Sparse.find y.early (y.ack + 1).toNat with
    | some msgs =>
      takeEarly fuel w (takeMessages w msgs
        (setWay w { y with ack := y.ack + 1, early := Sparse.del y.early (y.ack + 1).toNat } m))
    | .none => m

/-- A NAK is sent, once until the flit in order arrives. -/
def sendNak (w : Nat) (m : Module) : Module :=
  let y := wayAt m w
  if y.discarding then m
  else
    let m := count .way w 3 1 (setWay w { y with discarding := true, wire := [] } m)
    match activePorts y with
    | p :: _ => putFlit w p 2 0 [] m
    | [] => m

/-- A data flit. -/
def takeData_ (w : Nat) (f : List Byte) (m : Module) : Module :=
  let y := wayAt m w
  let seq := BitVec.ofNat 16 (field f 2 2)
  let d := (seq - y.ack).toNat
  let msgs := decodeMsgs 63 (f.drop 16 |>.take (16 * (byteAt f 1 % 64)))
  if d = 1 then
    takeEarly 64 w (takeMessages w msgs (setWay w { y with ack := seq, discarding := false } m))
  else if d = 0 ∨ d ≥ 32768 then m
  else if y.discarding then m
  else if d ≤ 64 then setWay w { y with early := Sparse.set y.early seq.toNat msgs } m
  else sendNak w m

/-- Every unacknowledged flit is sent again in order (R367). -/
def resendFlits (w : Nat) (m : Module) : Module :=
  let y := wayAt m w
  resend w y.retry (count .way w 2 y.retry.length (setWay w { y with retrySince := m.time } m))

/-- A flit comes in on a port. -/
def receiveFlit (w i : Nat) (f : List Byte) (m : Module) : Module :=
  let p := portAt m w i
  if !alive m || !p.matched then m
  else if !flitSound f then sendNak w (count .port (4 * w + i) 3 1 m)
  else
    let m := takeReturns w f (setPort w i { p with heard := m.time } m)
    match byteAt f 0 % 4 with
    | 0 => takeData_ w f m
    | 2 => resendFlits w m
    | _ => m

/-- FLIT (R367). -/
def execFlit (w i : Nat) (flit : List Byte) (s : State) : Outcome State Fault Refusal :=
  onModule (receiveFlit w i flit) s

/-- NAK (R367): a flit of that kind. -/
def execNak (w i : Nat) (flit : List Byte) (s : State) : Outcome State Fault Refusal :=
  onModule (fun m => if byteAt flit 0 % 4 = 2 then receiveFlit w i flit m else m) s

/-- RESEND_TIMEOUT (R367). -/
def execResendTimeout (w : Nat) (s : State) : Outcome State Fault Refusal :=
  onModule (fun m =>
    let y := wayAt m w
    if alive m && y.up && !y.retry.isEmpty && (m.time - y.retrySince).toNat ≥ micros 4 then resendFlits w m else m) s

/-! ## Topology and route change (R379-R381) -/

def topNode (e : Entry) : Nat := field e.bytes 24 2 % 4096
def topNx (e : Entry) : Nat := byteAt e.bytes 26 % 64
def topNy (e : Entry) : Nat := byteAt e.bytes 27 % 64
def topRoot (e : Entry) : Bool := natBit (byteAt e.bytes 28) 1
def topKids (e : Entry) : Nat := byteAt e.bytes 29
def topParent (e : Entry) : Nat := field e.bytes 30 2 % 4096
def topChild (e : Entry) (c : Nat) : Nat := field e.bytes (32 + 2 * c) 2 % 4096
def topMembers (e : Entry) : Nat := field e.bytes 48 2
def topPorts (e : Entry) : Nat := field e.bytes 50 2
def topTable (e : Entry) : Nat := field e.bytes 56 8

/-- Fields of a body that fail, TMAC apart (R380). -/
def topologyFailures (m : Module) (e : Entry) : List Nat :=
  let n := topNode e
  let used := (List.range (Nat.min (topKids e) 8)).map (topChild e)
  failing (n / 1024 ≠ 0 || n % 32 ≥ topNx e || n / 32 % 32 ≥ topNy e) 24
    ++ failing (topNx e == 0 || topNx e > 32) 26
    ++ failing (topNy e == 0 || topNy e > 32) 27
    ++ failing (topRoot e && topParent e != 0) 28
    ++ failing (topKids e > 8) 29
    ++ failing (!topRoot e && topParent e == n) 30
    ++ (List.range 8).flatMap (fun c => failing
        (if c ≥ topKids e then topChild e c != 0
         else topChild e c == n || (used.filter fun k => k == topChild e c).length > 1) (32 + 2 * c))
    ++ failing (if topRoot e then topMembers e == 0 || topMembers e > 1024 || topMembers e > topNx e * topNy e
                else topMembers e != 0) 48
    ++ failing ((List.range 16).any fun b => natBit (topPorts e) b && !portPresent m.board.part (b / 4) (b % 4)) 50
    ++ failing (topTable e % 4096 ≠ 0 || topTable e < extBase || topTable e + 2048 > extEnd) 56

/-- Bytes of memory read line by line through the LLC: none while a channel is blocked; else the bytes, or none if some
are poisoned. -/
def readLocal : Nat → Nat → Module → Option (Option (List Byte) × Module)
  | 0, _, m => some (some [], m)
  | n + 1, a, m =>
    match llcRead a 0 m with
    | .none => .none
    | some (d, m) =>
      if d.2 ≠ 0 then some (.none, m)
      else
        match readLocal n (a + 128) m with
        | .none => .none
        | some (some bs, m) => some (some (d.1 ++ bs), m)
        | some (.none, m) => some (.none, m)

/-- What keeps the fabric from being changed: the handle of the first unit concerned (R380). -/
def fabricBusy (m : Module) : Option Nat :=
  let busyWay (w : Nat) : Bool := (wayAt m w).queues.any (fun q => !q.2.isEmpty) || m.fabric.tags.any fun g => !g.quarantined && g.way == w
  match [0, 3, 1, 2].find? busyWay with
  | some w => some (handleWay w)
  | .none =>
    if !m.weir.entries.isEmpty then some handleWeir
    else if [m.gate.bank0, m.gate.bank1].any fun b => b.state == .collecting || b.state == .opened then some handleIodW
    else .none

/-- Step f of R73 and the checks after it (R380). DEDUCED (log 36). -/
def topologyCheck : BodyCheck := fun k e s =>
  match lowest (topologyFailures s.m e) with
  | some off => some (some (0x43, off), s)
  | .none =>
    match readLocal 16 (topTable e) s.m with
    | .none => .none
    | some (.none, m) => some (some (0x51, 0), { s with m := m })
    | some (some bs, m) =>
      let s := { s with m := m }
      if macWithUid k s.m.board.uid (bs.map (·.toNat)) ≠ natBytes e.bytes 64 16 then some (some (0x43, 64), s)
      else if !wayPresent m.board.part 0 then some (some (0x44, handleWay 0), s)
      else
        match fabricBusy m with
        | some h => some (some (0x45, h), s)
        | .none => some (.none, s)

/-- A vote bank in SENT is refused with REASON 2 and MIN 0 (R381). DEDUCED (log 50). -/
def refuseSent (b : Bank) (m : Module) : Module :=
  if b.state = .sent then
    refuseGate b.step 2 (setBank b.step { b with
      state := .refused, report := { b.report with reason := 2, min := 0 }, since := .none, tensor := 0 } m)
  else m

/-- PORTEN: ports taken out go to DISABLED, and RING_HOLD of a dimension without ports is released (R363, R381). -/
def enablePorts (mask : Nat) (m : Module) : Module :=
  let m := (List.range 16).foldl (fun m b =>
    let w := b / 4
    let i := b % 4
    let p := portAt m w i
    if !portPresent m.board.part w i then m
    else if natBit mask b then setPort w i { p with enable := true } m
    else leavePort w i { p.enter .disabled m.time with enable := false, passed := false } m) m
  [false, true].foldl (fun m dim =>
    if (dimWays dim).all fun w => (List.range 4).all fun i => (portAt m w i).state == .disabled then releaseHold dim m
    else m) m

/-- Each end of an up way sends LINK again (R381). -/
def relink (m : Module) : Module :=
  (List.range 16).foldl (fun m b => if (portAt m (b / 4) (b % 4)).matched then oweLink (b / 4) (b % 4) m else m) m

/-- What a successful command does (R381). -/
def changeTopology (e : Entry) (table : List Byte) (m : Module) : Module :=
  let f := m.fabric
  let f := { f with
    valid := true, order := natBit (byteAt e.bytes 28) 0, nx := BitVec.ofNat 6 (topNx e), ny := BitVec.ofNat 6 (topNy e)
    node := BitVec.ofNat 12 (topNode e), table := BitVec.ofNat 16384 (ofBytes table), heldMsgs := [], seen := [] }
  let g := { m.gate with
    parent := BitVec.ofNat 12 (topParent e), root := topRoot e, members := BitVec.ofNat 11 (topMembers e)
    children := (List.range (topKids e)).map fun c => BitVec.ofNat 12 (topChild e c) }
  let m := enablePorts (topPorts e) { m with fabric := f, gate := g }
  let m := relink m
  let m := refuseSent m.gate.bank0 m
  refuseSent m.gate.bank1 m

/-- FABRIC_TOPOLOGY_AND_ROUTE_CHANGE (R381): COUNT0 counts the entries with REACH. -/
def execFabricTopologyAndRouteChange (p : Nat) (s : State) : Outcome State Fault Refusal :=
  onCritical p 0x82 anyBody topologyCheck (fun _ e s =>
    match readLocal 16 (topTable e) s.m with
    | some (some bs, m) =>
      let m := changeTopology e bs m
      finishCommand e ((List.range 4096).filter (reachable m.fabric)).length { s with m := m }
    | _ => s) s

end Sys2Proof.Machine
end

