-- ==== Sys2Proof/Machine/Weir.lean ====
section
/-! DEFINITION. The Weir: experts and their rounds at a home, batches and their choices at a source, and the combine
(R384-R401). -/

namespace Sys2Proof.Machine

open Host

/-! ## Experts (R384-R386) -/

def expertAt (m : Module) (x : Nat) : Expert := Sparse.get {} m.weir.experts x
def setExpert (x : Nat) (k : Expert) (m : Module) : Module :=
  { m with weir := { m.weir with experts := Sparse.set m.weir.experts x k } }

/-- A field of the table entry, by its offset in the opcode 0x07 body. -/
def Expert.f (k : Expert) (off n : Nat) : Nat := field k.body (off - 8) n

def Expert.homes (k : Expert) : List Nat := (List.range (Nat.min (k.f 10 1 % 8) 4)).map fun r => k.f (12 + 2 * r) 2 % 4096
def Expert.valid (k : Expert) : Bool := k.f 10 1 % 8 != 0
def Expert.spill (k : Expert) : Bool := natBit (k.f 11 1) 0
def Expert.expect (k : Expert) : Nat := k.f 22 2
def Expert.intake (k : Expert) : Nat := k.f 24 2
def Expert.ovSlots (k : Expert) : Nat := k.f 26 2
def Expert.slotBytes (k : Expert) : Nat := k.f 28 4
def Expert.tagBase (k : Expert) : Nat := k.f 48 8

/-- Whether this module is a home of an expert. -/
def hosted (m : Module) (k : Expert) : Bool := k.homes.contains m.fabric.node.toNat

/-- Address of a slot (R393). -/
def Expert.slotAt (k : Expert) (s : Nat) : Nat :=
  if s < k.intake then k.f 32 8 + k.slotBytes * s else k.f 40 8 + k.slotBytes * (s - k.intake)

/-- The Weir works: present, clocked, and the module alive. -/
def weirRuns (m : Module) : Bool := alive m && weirPresent m.board.part && !unitGated m handleWeir

def Granted.whole (g : Granted) : Bool := g.arrived ≥ g.vbytes

/-! ## Local accesses -/

/-- Bytes written at a local address through the home slices. -/
def writeLocal (a : Nat) (bytes : List Byte) : Acc Unit := do
  for q in pieces a bytes.length do
    writeLine (lineOf q.1) (q.1 % 128) ((bytes.drop (q.1 - a)).take q.2) (fun _ => true) 0

/-- Bytes read at a local address; poisoned ones stop. -/
def readBytes (a n : Nat) : Acc (List Byte) := do
  let mut out : List (List Byte) := []
  for q in pieces a n do
    let d ← readLine 501 (lineOf q.1) 0
    if touchesPoison d.2 (q.1 % 128) q.2 then stop (.poison 0 q.1) else pure ()
    out := (d.1.drop (q.1 % 128)).take q.2 :: out
  pure out.reverse.flatten

/-! ## Messages (R389) -/

/-- A Weir message of this module. -/
def sendWeir (type : BitVec 8) (op dst tid addr : Nat) (payload : List Byte) (m : Module) : Module :=
  inject { type := type, op := BitVec.ofNat 8 op, dst := BitVec.ofNat 12 dst, src := m.fabric.node
           tid := BitVec.ofNat 16 tid, addr := addr, payload := payload } m

/-- A message about token-table entry `e`, whose bit 16 stands in OP bit 0. -/
def sendEntry (type : BitVec 8) (op dst e addr : Nat) (payload : List Byte) (m : Module) : Module :=
  sendWeir type (op + e / 65536) dst (e % 65536) addr payload m

def entryOf (x : Msg) : Nat := 65536 * (x.op.toNat % 2) + x.tid.toNat

/-- Reserved fields of a message are zero. -/
def weirSound (x : Msg) : Bool :=
  x.byte15 == 0 && !x.reserved && x.payload.length ≤ 256 && (match x.type.toNat with
    | 0x20 => x.op.toNat < 2 && x.payload.isEmpty
    | 0x21 => x.op.toNat < 8 && x.addr < 2 ^ 16 && x.payload.isEmpty
    | 0x22 => x.op == 0 && x.addr < 2 ^ 24 && !x.payload.isEmpty
    | 0x23 => x.op == 0 && x.addr < 2 ^ 25 && x.payload.isEmpty
    | _ => x.op.toNat < 2 && x.addr < 2 ^ 12 && !x.payload.isEmpty)

/-- Handle a Weir message; one whose access stops has asked for what it needs, and waits here. -/
def onWeir (type : Nat) (bytes : List Byte) (act : Msg → Module → Except (Module → Module) Module) (m : Module) : Module :=
  match decodeMsg bytes with
  | .none => m
  | some (x, _) =>
    if !weirRuns m || x.type.toNat ≠ type || x.dst ≠ m.fabric.node then m
    else
      match takeMsg (fun y => y == x) m with
      | .none => m
      | some (_, m1) =>
        if !weirSound x then badMsg m1
        else
          match act x m1 with
          | .ok m2 => m2
          | .error asks =>
            let m := asks m
            if m.fabric.inbox.any fun a => a.msg == x then m else keepHere .none [x] m

/-! ## The home (R393-R395) -/

/-- The lowest free slot of `lo .. lo + n - 1`. -/
def slotFree (k : Expert) (lo n : Nat) : Option Nat :=
  ((List.range n).map (lo + ·)).find? fun s => (Sparse.find k.slots s).isNone

/-- Bytes 0-7 of a slot's tag. -/
def tagBytes (g : Granted) (lost : Bool) : List Byte :=
  bytesOf 2 g.src.toNat ++ bytesOf 3 g.entry ++ bytesOf 1 (if lost then 1 else 0) ++ bytesOf 2 (g.vbytes / 16)

def tagAt (k : Expert) (s : Nat) : Nat := k.tagBase + 16 + 8 * s

/-- The first DISPATCH or END of a round starts its close timeout. -/
def Expert.touch (k : Expert) (now : Word) : Expert := { k with since := some (k.since.getD now) }

/-- A slot is granted: its tag is written before the GRANT leaves. -/
def grantSlot (x : Msg) (e s code : Nat) (k : Expert) (vbytes : Nat) (m : Module) : Except (Module → Module) Module :=
  let g : Granted := { src := x.src, entry := entryOf x, vbytes := vbytes }
  match (writeLocal (tagAt k s) (tagBytes g false)).go m with
  | (.error st, _) => .error st.asks
  | (.ok _, m) =>
    let m := setExpert e { k with slots := Sparse.set k.slots s g } m
    let m := count .weir 0 (2 + code) 1 m
    let m := if code = 1 then count .espill e 0 1 m else m
    .ok (sendEntry 0x21 (2 * code) x.src.toNat (entryOf x) s [] m)

/-- The answer that grants nothing: 2 refused, 3 not yet. -/
def answer (x : Msg) (code : Nat) (m : Module) : Module := sendEntry 0x21 (2 * code) x.src.toNat (entryOf x) 0 [] m

/-- DISPATCH (R393). DEDUCED (log 52). -/
def takeDispatch (x : Msg) (m : Module) : Except (Module → Module) Module :=
  let e := natBits x.addr 11 0
  let q := BitVec.ofNat 16 (natBits x.addr 27 12)
  let vbytes := 16 * (natBits x.addr 39 28 + 1)
  let k := expertAt m e
  if !hosted m k || vbytes > k.slotBytes then .ok (answer x 2 { m with weir := { m.weir with badMsg := true } })
  else if k.state = .opened ∧ q = k.round then
    let k := k.touch m.time
    let m := setExpert e k m
    match slotFree k 0 k.intake with
    | some s => grantSlot x e s 0 k vbytes m
    | .none =>
      match (if k.spill then slotFree k k.intake k.ovSlots else .none) with
      | some s => grantSlot x e s 1 k vbytes m
      | .none => .ok (answer x 2 (count .erefuse e 0 1 m))
  else if 1 ≤ (q - k.round).toNat ∧ (q - k.round).toNat < 32768 then .ok (answer x 3 m)
  else .ok (answer x 2 (count .erefuse e 0 1 m))

/-- TDATA (R393). -/
def takeTdata (x : Msg) (m : Module) : Except (Module → Module) Module :=
  let e := natBits x.addr 23 12
  let off := 16 * natBits x.addr 11 0
  let s := x.tid.toNat
  let k := expertAt m e
  match Sparse.find k.slots s with
  | .none => .ok (badMsg m)
  | some g =>
    if k.state ≠ .opened ∨ g.src ≠ x.src ∨ off + x.payload.length > g.vbytes then .ok (badMsg m)
    else
      match (writeLocal (k.slotAt s + off) x.payload).go m with
      | (.error st, _) => .error st.asks
      | (.ok _, m) =>
        let k := expertAt m e
        .ok (setExpert e { k with slots := Sparse.set k.slots s { g with arrived := g.arrived + x.payload.length } } m)

/-- END for one expert (R394); false where it is for another round. -/
def endAt (q : BitVec 16) (m : Module) (e : Nat) : Bool × Module :=
  let k := expertAt m e
  if !hosted m k then (true, m)
  else if q = k.round then (true, setExpert e { k.touch m.time with ends := k.ends + 1 } m)
  else if q = k.round + 1 then (true, setExpert e { k with nextEnds := k.nextEnds + 1 } m)
  else (false, m)

/-- END (R394). -/
def takeEnd (x : Msg) (m : Module) : Except (Module → Module) Module :=
  let first := natBits x.addr 11 0
  let r := (List.range (natBits x.addr 24 12)).foldl (fun (r : Bool × Module) i =>
    let y := endAt (BitVec.ofNat 16 x.tid.toNat) r.2 (first + i)
    (r.1 && y.1, y.2)) (true, m)
  .ok (if r.1 then r.2 else badMsg r.2)

/-- The close record and the LOST marks (R394). -/
def writeClose (k : Expert) : Acc Unit := do
  let lost := k.slots.filter fun p => !p.2.whole
  for p in lost do
    writeLocal (tagAt k p.1) (tagBytes p.2 true)
  let nin := (k.slots.filter fun p => p.1 < k.intake).length
  writeLocal k.tagBase (bytesOf 2 k.round.toNat ++ [0, 0] ++ bytesOf 4 nin ++ bytesOf 4 (k.slots.length - nin)
    ++ bytesOf 4 lost.length)

/-- An expert closes its round. -/
def closeExpert (e : Nat) (timeout : Bool) (m : Module) : Module :=
  let k := expertAt m e
  match (writeClose k).go m with
  | (.error _, _) => m
  | (.ok _, m) =>
    let m := count .weir 0 9 1 (setExpert e { expertAt m e with state := .closed, since := .none } m)
    if timeout then edgeAll 290 (count .weir 0 10 1 m) else edgeAll 289 m

/-- EXPERT_CLOSE (R394). -/
def execExpertClose (x : Nat) (s : State) : Outcome State Fault Refusal :=
  onModule (fun m =>
    let k := expertAt m x
    if weirRuns m && hosted m k && k.state == .opened && k.ends ≥ k.expect && k.slots.all (fun p => p.2.whole) then
      closeExpert x false m
    else m) s

/-- CLOSE_TIMEOUT (R394). -/
def execCloseTimeout (x : Nat) (s : State) : Outcome State Fault Refusal :=
  onModule (fun m =>
    let k := expertAt m x
    match k.since with
    | some t =>
      if weirRuns m && hosted m k && k.state == .opened && (m.time - t).toNat ≥ millis (Nat.max m.weir.cto.toNat 1) then
        closeExpert x true m
      else m
    | .none => m) s

/-- RDATA of one slot, 256 bytes to a message. -/
def sendSlot (g : Granted) (bytes : List Byte) (m : Module) : Module :=
  (List.range (ceilDiv g.vbytes 256)).foldl (fun m i =>
    sendEntry 0x24 0 g.src.toNat g.entry (16 * i) ((bytes.drop (256 * i)).take 256) m) m

/-- The results of an expert go back, slot by slot; false while a channel is blocked. -/
def sendResults (k : Expert) : List (Nat × Granted) → Module → Bool × Module
  | [], m => (true, m)
  | p :: ps, m =>
    if !p.2.whole then sendResults k ps m
    else
      match (readBytes (k.slotAt p.1) p.2.vbytes).go m with
      | (.ok bs, m) => sendResults k ps (sendSlot p.2 bs m)
      | (.error (.poison _ pa), m) => sendResults k ps (raiseError 3 0x23 handleWeir pa 0 m)
      | (.error _, _) => (false, m)

/-- A returning expert sends its results and opens for the next round (R395). -/
def finishReturn (m : Module) (e : Nat) : Module :=
  let k := expertAt m e
  if k.state ≠ .returning then m
  else
    let r := sendResults k k.slots m
    if !r.1 then m
    else
      setExpert e { k with
        state := .opened, round := k.round + 1, slots := [], ends := k.nextEnds, nextEnds := 0, writer := .none
        since := if k.nextEnds > 0 then some m.time else .none } r.2

/-! ## Batches (R387, R388) -/

def batchAt (m : Module) (b : Nat) : Option Batch := m.weir.batches.find? fun k => k.id == b
def setBatch (b : Batch) (m : Module) : Module :=
  { m with weir := { m.weir with batches := m.weir.batches.map fun k => if k.id == b.id then b else k } }

def Batch.f (b : Batch) (i n : Nat) : Nat := field b.record i n
def Batch.event (b : Batch) : Bool := natBit (byteAt b.record 1) 3
def Batch.fmt (b : Batch) : Nat := byteAt b.record 2 % 16
def Batch.yfmt (b : Batch) : Nat := byteAt b.record 2 / 16
def Batch.k (b : Batch) : Nat := byteAt b.record 3 % 16
def Batch.round (b : Batch) : Nat := b.f 4 2
def Batch.efirst (b : Batch) : Nat := b.f 6 2
def Batch.ecount (b : Batch) : Nat := b.f 8 2
def Batch.count (b : Batch) : Nat := b.f 12 4
def Batch.d (b : Batch) : Nat := b.f 16 4
def Batch.vbytes (b : Batch) : Nat := b.d * codeWidth b.fmt / 8
def Batch.ybytes (b : Batch) : Nat := b.d * codeWidth b.yfmt / 8
def Batch.x (b : Batch) : Nat := b.f 24 8
def Batch.route (b : Batch) : Nat := b.f 32 8
def Batch.stage (b : Batch) : Nat := b.f 40 8
def Batch.y (b : Batch) : Nat := b.f 48 8
def Batch.doneAt (b : Batch) : Nat := b.f 56 8

/-- Where choice `i` of a batch is staged. -/
def Batch.staging (b : Batch) (i : Nat) : Nat := b.stage + 128 * ceilDiv b.count 128 + b.vbytes * i

/-- EFIRST and ECOUNT are themselves valid. -/
def layerOk (b : Batch) : Bool := b.efirst < 4096 && 1 ≤ b.ecount && b.efirst + b.ecount ≤ 4096

def reservedBatch : List (Nat × Nat) :=
  [(1, 0x07), (3, 0xF0), (7, 0xF0), (9, 0xE0), (10, 0xFF), (11, 0xFF), (20, 0xFF), (21, 0xFF), (22, 0xFF), (23, 0xFF)]

/-- Byte offsets of arguments that fail (R283, R388). -/
def batchFailures (b : Batch) : List Nat :=
  let addr (off al : Nat) : List Nat := failing (tall (b.f off 8) || b.f off 8 % al != 0) off
  failing (!([0, 1, 3, 4].contains b.fmt) || b.yfmt > 1) 2
    ++ failing (b.k == 0 || b.k > 8) 3
    ++ failing (b.efirst ≥ 4096) 6 ++ failing (b.ecount == 0 || b.efirst + b.ecount > 4096) 8
    ++ failing (b.count == 0 || b.count * b.k > 131072) 12
    ++ failing (b.d == 0 || b.d > 16384 || (b.d * codeWidth b.fmt) % 128 != 0) 16
    ++ addr 24 16 ++ addr 32 8 ++ addr 40 128 ++ addr 48 16 ++ addr 56 8

/-- The first check a batch fails (R388). -/
def checkBatch (m : Module) (b : Batch) : Option (Nat × Nat) :=
  if byteAt b.record 0 ≠ 1 then some (0x40, 0)
  else if byteAt b.record 1 / 16 ≠ m.host.select.toNat then some (0x41, 0)
  else
    match firstNonzero b.record reservedBatch with
    | some off => some (0x42, off)
    | .none => (lowest (batchFailures b)).map fun o => (0x43, o)

/-- The pages of a range, each translated and noted. -/
def notePages (b : Batch) (need : Need) (va n : Nat) (l : Sparse Nat) : Acc (Sparse Nat) := do
  let mut out := l
  for i in List.range (if n = 0 then 0 else (va + n - 1) / 4096 - va / 4096 + 1) do
    let v := (va / 4096 + i) * 4096 % 2 ^ 48
    let pa ← translate b.agent need v
    let m ← get
    match locate m b.agent need pa with
    | .ok (.host a) => if grantHost b.asid a m then modify (useAts b.asid a) else stop (.fault 0x07 need.code v)
    | .ok _ => pure ()
    | .error k => stop (.fault k need.code v)
    out := Sparse.set out (v / 4096) (pa / 4096)
  pure out

/-- Every page of X, ROUTE, STAGE, Y and DONE (R388). DESIGN CHOICE (log 6). -/
def batchPages (b : Batch) : Acc (Sparse Nat) := do
  let n := b.count * b.k
  let l ← notePages b .read b.x (b.count * b.vbytes) []
  let l ← notePages b .read b.route (8 * n) l
  let l ← notePages b .update b.stage (128 * ceilDiv b.count 128 + b.vbytes * n) l
  let l ← notePages b .write b.y (b.count * b.ybytes) l
  notePages b .write b.doneAt 8 l

/-- The place of an address of a batch whose pages are known. -/
def batchPlace (b : Batch) (need : Need) (va : Nat) : Acc Place := do
  let m ← get
  let va := va % 2 ^ 48
  match Sparse.find b.pages (va / 4096) with
  | some p =>
    match locate m b.agent need (4096 * p + va % 4096) with
    | .ok p => pure p
    | .error k => stop (.fault k need.code va)
  | .none => stop .wait

/-- Read bytes for a batch; its pass holds the host's translations. -/
def batchRead (b : Batch) (va n : Nat) : Acc (List Byte) := do
  let mut out : List (List Byte) := []
  for q in pieces va n do
    let p ← batchPlace b .read q.1
    let bs ← match p with
      | .host a => do
        modify (useAts b.asid a)
        readHost (.line (.batch b.id)) b.asid q.1 a q.2
      | .aperture _ => stop .wait
      | .mem a | .remote _ a => do
        let d ← lineRead (.line (.batch b.id)) q.1 p 0
        if touchesPoison d.2 (a % 128) q.2 then stop (.poison q.1 a) else pure ((d.1.drop (a % 128)).take q.2)
    out := bs :: out
  pure out.reverse.flatten

/-- Write bytes for a batch. -/
def batchWrite (b : Batch) (va : Nat) (bytes : List Byte) : Acc Unit := do
  for q in pieces va bytes.length do
    let bs := (bytes.drop (q.1 - va)).take q.2
    let p ← batchPlace b .write q.1
    match p with
    | .host a => do
      modify (useAts b.asid a)
      writeHost (.write (.batch b.id)) b.asid q.1 a bs
    | .aperture _ => stop .wait
    | .mem a => writeLine (lineOf a) (a % 128) bs (fun _ => true) 0
    | .remote n a =>
      sendWrite (.write (.batch b.id)) q.1 n (lineOf a) (byteMask (a % 128) bs.length) (List.replicate (a % 128) 0 ++ bs)

/-- A batch ends other than by combining its tokens. -/
def endBatch (b : Batch) (status n : Nat) (m : Module) : Module :=
  if b.ending.isSome then m else setBatch { b with ending := some (BitVec.ofNat 16 status, n) } m

/-- What an access that could not be made leaves: one that finds no route raises source 269 (R374). -/
def Stop.unreached (s : Stop) (m : Module) : Module :=
  match s with
  | .fault 0x08 _ _ => edgeAll 269 m
  | _ => m

/-- What a batch whose access stopped does; `m` is the module before it. -/
def batchStop (b : Batch) (s : Stop) (m m' : Module) : Module :=
  match s with
  | .wait | .fetch _ _ _ _ | .miss _ _ _ | .register _ | .clean _ => s.asks m
  | .fault kind access va | .faultUnder _ kind access va => suspendBatch b kind access va m'
  | .exc _ va => suspendBatch b 0x05 0 va m'
  | .poison _ pa => endBatch b 0x51 b.combined.length (raiseError 3 0x23 handleWeir pa 0 m')
  | .host _ va => suspendBatch b 0x07 0 va m'

/-! ## Posts (R387) -/

/-- BAR0 offset of WP_POST of a die. -/
def wpOffset (d : Nat) : Nat := 0x01D10000 + 0x01000000 * d

/-- A write of WP_POST; false where the post waits for a full queue. -/
def wpPost (who : Option Nat) (value : Word) (m : Module) : Bool × Module :=
  let refused := (true, { m with weir := { m.weir with hostPost := true } })
  if !weirPresent m.board.part then (true, m)
  else if unitGated m handleWeir then (true, touchGated handleWeir m)
  else
    match who with
    | .none => refused
    | some t =>
      let th := threadAt m t
      if th.priv.level = 2 then refused
      else if m.weir.batches.length ≥ 64 then (false, m)
      else
        let tag := taskTag m th.task
        let b : Batch :=
          { id := m.weir.nextId, addr := BitVec.ofNat 64 (64 * bitsOf value 47 6), thread := t, task := th.task
            asid := th.priv.asid, tag := BitVec.ofNat 32 tag.1, ring := tag.2, level := th.priv.level, squall := m.squall.active }
        (true, { m with weir := { m.weir with batches := m.weir.batches ++ [b], nextId := m.weir.nextId + 1 } })

/-- WP_POST (R387). -/
def execWpPost (who : Option Nat) (value : Word) (s : State) : Outcome State Fault Refusal :=
  onModule (fun m => if alive m then (wpPost who value m).2 else m) s

/-- The lowest thread whose post waits goes through once the queue has room. -/
def releaseWpPost (m : Module) : Module :=
  let waiting := m.threads.findSome? fun p =>
    match p.2.aperture with
    | some w => if (List.range 4).any fun d => w.off == wpOffset d then some (p.1, w.value) else .none
    | .none => .none
  match waiting with
  | some (t, v) => if m.weir.batches.length ≥ 64 then m else completeAperture t (wpPost (some t) v m).2
  | .none => m

/-! ## Entries and choices (R390-R392) -/

def setChoice (e : Nat) (c : Choice) (m : Module) : Module :=
  { m with weir := { m.weir with entries := Sparse.set m.weir.entries e c } }

def freeEntry (e : Nat) (m : Module) : Module :=
  { m with weir := { m.weir with entries := Sparse.del m.weir.entries e } }

/-- A choice has ended: 1 staged, 2 dropped, 3 lost. -/
def settleChoice (c : Choice) (how : Nat) (m : Module) : Module :=
  match batchAt m c.batch with
  | some b => setBatch { b with outcomes := Sparse.set b.outcomes (b.k * c.token + c.choice) how } m
  | .none => m

/-- A choice is dropped to the residual path. -/
def dropChoice (e : Nat) (c : Choice) (m : Module) : Module :=
  edgeAll 291 (count .edrop c.expert 0 1 (count .weir 0 5 1 (settleChoice c 2 (freeEntry e m))))

/-- A batch that sends and writes no more: stopped, killed or failed. -/
def Batch.draining (b : Batch) : Bool := b.stopped || b.ending.isSome

/-- The DISPATCH of a choice. -/
def sendDispatch (b : Batch) (e : Nat) (c : Choice) (home : Nat) (m : Module) : Module :=
  let addr := c.expert + 2 ^ 12 * b.round + 2 ^ 28 * (b.vbytes / 16 - 1)
  let m := if c.sent then m else count .weir 0 1 1 m
  sendEntry 0x20 0 home e addr []
    (setChoice e { c with sent := true, phase := .awaiting (BitVec.ofNat 12 home) m.time } m)

/-- A fresh choice goes to its next replica, or is dropped. -/
def nextReplica : Nat → Batch → Nat → Module → Module
  | 0, _, _, m => m
  | fuel + 1, b, e, m =>
    match Sparse.find m.weir.entries e with
    | .none => m
    | some c =>
      if c.phase ≠ .fresh then m
      else
        let k := expertAt m c.expert
        let homes := k.homes
        let inLayer := b.efirst ≤ c.expert && c.expert < b.efirst + b.ecount
        if !inLayer || c.tried ≥ homes.length then dropChoice e c m
        else
          let h := homes.getD ((c.token % homes.length + c.tried) % homes.length) 0
          let c := { c with tried := c.tried + 1 }
          if h = m.fabric.node.toNat ∨ reachable m.fabric h then
            nextReplica fuel b e (sendDispatch b e c h m)
          else nextReplica fuel b e (setChoice e c m)

/-- Entry numbers of a batch's choices that are in use. -/
def batchEntries (m : Module) (b : Batch) : List (Nat × Choice) := m.weir.entries.filter fun p => p.2.batch == b.id

/-- Choices not dispatched to their end yet. -/
def Choice.early (c : Choice) : Bool :=
  match c.phase with
  | .fresh | .awaiting _ _ | .retry _ _ => true
  | _ => false

/-- Fresh choices are dispatched in order; those of a draining batch go no further. -/
def dispatchFresh (b : Batch) (m : Module) : Module :=
  (batchEntries m b).foldl (fun m p =>
    if b.draining then
      match p.2.phase with
      | .fresh | .retry _ _ => settleChoice p.2 2 (freeEntry p.1 m)
      | _ => m
    else nextReplica 6 b p.1 m) m

/-- Homes that a batch's END messages go to (R391). -/
def endHomes (m : Module) (b : Batch) : List Nat :=
  (List.range b.ecount).foldl (fun l i =>
    (expertAt m (b.efirst + i)).homes.foldl (fun l h => if l.contains h then l else l ++ [h]) l) []

def sendEnds (b : Batch) (m : Module) : Module :=
  (endHomes m b).foldl (fun m h => sendWeir 0x23 0 h b.round (b.efirst + 2 ^ 12 * b.ecount) [] m) m

/-! ## Combine (R396) -/

/-- The combined element of a token: staged results in ascending choice order. -/
def combineElem (terms : List (Nat × Nat)) : Nat := terms.foldl (fun y p => Fp.add32 y (Fp.mul32 p.1 p.2)) 0

/-- One token's output row. -/
def combineToken (b : Batch) (t : Nat) : Acc (List Byte) := do
  let routes ← batchRead b (b.route + 8 * b.k * t) (8 * b.k)
  let mut rows : List (Nat × List Nat) := []
  for j in List.range b.k do
    if Sparse.get 0 b.outcomes (b.k * t + j) = 1 then
      let bs ← batchRead b (b.staging (b.k * t + j)) b.vbytes
      rows := rows ++ [(field routes (8 * j + 4) 4, (splitElems (codeWidth b.fmt / 8) b.d bs).map (widen b.fmt))]
    else pure ()
  let out := (List.range b.d).map fun i =>
    let y := combineElem (rows.map fun r => (r.1, r.2.getD i 0))
    if b.yfmt = 0 then y else (Fp.encodeCode b.yfmt Fp.nearest (Fp.decode Fp.fp32 y)).1
  pure (joinElems (codeWidth b.yfmt / 8) out)

/-- Its row and its mask byte are written. -/
def writeToken (b : Batch) (t : Nat) (row : List Byte) : Acc Unit := do
  batchWrite b (b.y + b.ybytes * t) row
  let mask := (List.range b.k).foldl (fun n j =>
    if Sparse.get 0 b.outcomes (b.k * t + j) ≥ 2 then n + 2 ^ j else n) 0
  batchWrite b (b.stage + t) (bytesOf 1 mask)

/-- Every choice of a token has ended. -/
def tokenReady (b : Batch) (t : Nat) : Bool :=
  !b.combined.contains t && (List.range b.k).all fun j => (Sparse.find b.outcomes (b.k * t + j)).isSome

/-- Tokens that are ready are combined: one whose write cannot be made whole writes nothing. -/
def combineReady (id : Nat) (m : Module) (t : Nat) : Module :=
  match batchAt m id with
  | .none => m
  | some b =>
    if b.draining || b.waiting || !tokenReady b t then m
    else
      match (combineToken b t).go m with
      | (.error s, m') => batchStop b s m m'
      | (.ok row, m₁) =>
        match (writeToken b t row).go m₁ with
        | (.ok _, m) => setBatch { b with combined := b.combined ++ [t] } m
        | (.error s, _) => batchStop b s m (s.unreached m₁)

/-! ## The end of a batch -/

/-- STATUS and COUNT of the DONE word. -/
def batchStatus (b : Batch) : Nat × Nat :=
  match b.ending with
  | some (s, n) => (s.toNat, n)
  | .none => if b.stopped then (0x10, b.atStop) else (0, b.count)

/-- The DONE word (R396). -/
def batchDone (b : Batch) (squall : Bool) : List Byte :=
  bytesOf 2 (batchStatus b).1 ++ [0]
    ++ bytesOf 1 ((if b.outcomes.any (fun o => o.2 ≥ 2) then 1 else 0) + (if squall then 2 else 0))
    ++ bytesOf 4 (batchStatus b).2

/-- A batch leaves the queue. -/
def removeBatch (b : Batch) (m : Module) : Module :=
  let m := count .weir 0 0 1 { m with weir := { m.weir with batches := m.weir.batches.filter fun k => k.id != b.id } }
  let m := forgetFaults (· == .batch b.id) m
  releaseWpPost (if b.event then edgeAll 288 m else m)

/-- Writes of a batch to other modules that are not answered yet. -/
def batchWritesOpen (m : Module) (b : Batch) : Bool :=
  (m.fabric.tags ++ m.fabric.failed).any fun g => g.who == .write (.batch b.id) && !g.quarantined

/-- The DONE word is written and the batch completes. -/
def writeDone (b : Batch) (m : Module) : Module :=
  if b.noDone then removeBatch b m
  else
    let bytes := batchDone b (b.squall || m.squall.active)
    let write : Acc Unit :=
      if b.pages.isEmpty then agentWrite b.agent (.write (.batch b.id)) b.doneAt bytes else batchWrite b b.doneAt bytes
    match write.go m with
    | (.ok _, m) => removeBatch b m
    | (.error (.fault kind access va), m') => suspendBatch b kind access va m'
    | (.error s, _) => s.asks m

/-- A batch that is over completes; the record of one that ended while it was queued is read for its DONE address. -/
def finishBatch (b : Batch) (m : Module) : Module :=
  if batchWritesOpen m b then m
  else if b.noDone || !b.record.isEmpty then writeDone b m
  else
    match (agentRead b.agent (.line (.batch b.id)) b.addr.toNat 64).go m with
    | (.ok rec, m) =>
      let b := { b with record := rec }
      let b := { b with noDone := tall b.doneAt || b.doneAt % 8 != 0 }
      writeDone b (setBatch b m)
    | (.error s, m') => if s.waits then s.asks m else writeDone { b with noDone := true } m'

/-- A batch goes on as far as it can. -/
def advanceBatch (m : Module) (id : Nat) : Module :=
  match batchAt m id with
  | .none => m
  | some b =>
    if b.waiting then m
    else if !b.started then (if b.ending.isSome then finishBatch b m else m)
    else
      let m := dispatchFresh b m
      match batchAt m id with
      | .none => m
      | some b =>
        let m := if !b.ended && !(batchEntries m b).any (fun p => p.2.early) then
            setBatch { b with ended := true } (sendEnds b m)
          else m
        let m := (List.range b.count).foldl (combineReady id) m
        match batchAt m id with
        | .none => m
        | some b =>
          let open_ := (batchEntries m b).any fun p => match p.2.phase with
            | .lost _ => false
            | _ => true
          if !b.waiting && b.ended && !open_ && (b.draining || b.combined.length ≥ b.count) then finishBatch b m else m

/-- All batches and returning experts go on. -/
def weirProgress (m : Module) : Module :=
  let m := (m.weir.experts.map (·.1)).foldl finishReturn m
  (m.weir.batches.map (·.id)).foldl advanceBatch m

/-- A command of the Weir: its act, and what follows from it. -/
def onWeirMsg (type : Nat) (msg : List Byte) (act : Msg → Module → Except (Module → Module) Module) (s : State) :
    Outcome State Fault Refusal :=
  onModule (fun m => if weirRuns m then weirProgress (onWeir type msg act m) else m) s

/-- DISPATCH (R393). -/
def execDispatch (msg : List Byte) (s : State) : Outcome State Fault Refusal := onWeirMsg 0x20 msg takeDispatch s

/-- TDATA (R393). -/
def execTdata (msg : List Byte) (s : State) : Outcome State Fault Refusal := onWeirMsg 0x22 msg takeTdata s

/-- END_MESSAGE (R394). -/
def execEndMessage (msg : List Byte) (s : State) : Outcome State Fault Refusal := onWeirMsg 0x23 msg takeEnd s

/-! ## The start of a batch (R388, R390) -/

/-- The lowest `n` numbers from `i` that are not among rising `keys`. -/
def freeNumbers : Nat → Nat → Nat → List Nat → List Nat
  | 0, _, _, _ => []
  | fuel + 1, n, i, keys =>
    if n = 0 then []
    else
      match keys with
      | k :: ks => if k = i then freeNumbers fuel n (i + 1) ks else i :: freeNumbers fuel (n - 1) (i + 1) keys
      | [] => i :: freeNumbers fuel (n - 1) (i + 1) []

/-- The choices of a batch take their entries; a NONE choice ends at once. -/
def reserveChoices (b : Batch) (routes : List Byte) (m : Module) : Module :=
  let n := b.count * b.k
  let free := freeNumbers (n + m.weir.entries.length + 1) n 0 (m.weir.entries.map (·.1))
  (free.zipIdx).foldl (fun m p =>
    let r := field routes (8 * p.2) 2
    let c : Choice := { batch := b.id, token := p.2 / b.k, choice := p.2 % b.k, expert := r % 4096 }
    if natBit r 15 then settleChoice c 0 m else setChoice p.1 c m) m

/-- A batch that fails its checks sends only its END messages, and its DONE word. -/
def failBatch (b : Batch) (status n : Nat) (noDone : Bool) (m : Module) : Module :=
  let b := { b with ending := some (BitVec.ofNat 16 status, n), noDone := noDone }
  setBatch b (if layerOk b then sendEnds b m else m)

/-- A batch whose record is read starts, once its pages translate and its entries are free. DEDUCED (log 51). -/
def launchBatch (b : Batch) (m : Module) : Module :=
  match checkBatch m b with
  | some f => failBatch b f.1 f.2 (tall b.doneAt || b.doneAt % 8 != 0) m
  | .none =>
    let act : Acc (Sparse Nat × List Byte) := do
      let pages ← if b.pages.isEmpty then batchPages b else pure b.pages
      let routes ← batchRead { b with pages := pages } b.route (8 * (b.count * b.k))
      pure (pages, routes)
    match act.go m with
    | (.error s, m') => batchStop b s m m'
    | (.ok (pages, routes), m) =>
      let b := { b with pages := pages }
      if m.weir.entries.length + b.count * b.k > 131072 then
        edgeAll 292 (count .weir 0 7 1 (setBatch b m))
      else reserveChoices { b with started := true } routes (setBatch { b with started := true } m)

/-- The first batch that has not started, when those before it have. -/
def startBatch (m : Module) : Module :=
  match m.weir.batches.find? fun b => !b.started && b.ending.isNone with
  | .none => m
  | some b =>
    if b.waiting then m
    else if !b.record.isEmpty then launchBatch b m
    else
      match (agentRead b.agent (.line (.batch b.id)) b.addr.toNat 64).go m with
      | (.ok rec, m) => launchBatch { b with record := rec } (setBatch { b with record := rec } m)
      | (.error (.poison _ pa), m') => failBatch b 0x51 0 true (raiseError 3 0x23 handleWeir pa 0 m')
      | (.error (.fault _ _ _), m') | (.error (.exc _ _), m') => failBatch b 0 0 true m'
      | (.error s, m') => batchStop b s m m'

/-- BATCH_START (R390). -/
def execBatchStart (s : State) : Outcome State Fault Refusal :=
  onModule (fun m => if weirRuns m then weirProgress (startBatch m) else m) s

/-! ## GRANT, timeouts and RDATA at the source (R390-R392) -/

/-- The data of a granted choice, 256 bytes to a message. -/
def sendTdata (b : Batch) (c : Choice) (home slot : Nat) (row : List Byte) (m : Module) : Module :=
  (List.range (ceilDiv b.vbytes 256)).foldl (fun m i =>
    sendWeir 0x22 0 home slot (16 * i + 2 ^ 12 * c.expert) ((row.drop (256 * i)).take 256) m) m

/-- A message whose access stops for its batch waits, and a fault is recorded once (R388). -/
def batchAsks (b : Batch) (s : Stop) (m : Module) : Module := if b.waiting then m else batchStop b s m (s.unreached m)

/-- GRANT (R390). -/
def takeGrant (x : Msg) (m : Module) : Except (Module → Module) Module :=
  let e := entryOf x
  match Sparse.find m.weir.entries e with
  | .none => .ok (badMsg m)
  | some c =>
    match c.phase, batchAt m c.batch with
    | .awaiting home _, some b =>
      if home ≠ x.src then .ok (badMsg m)
      else
        match x.op.toNat / 2 with
        | 2 => .ok (count .weir 0 4 1 (setChoice e { c with phase := .fresh } m))
        | 3 => .ok (setChoice e { c with phase := .retry home m.time } m)
        | _ =>
          match (batchRead b (b.x + b.vbytes * c.token) b.vbytes).go m with
          | (.error (.poison va pa), m') => .ok (settleChoice c 2 (freeEntry e (batchStop b (.poison va pa) m m')))
          | (.error s, m') =>
            if b.draining && !s.waits then .ok (settleChoice c 2 (freeEntry e m')) else .error (batchAsks b s)
          | (.ok row, m) => .ok (sendTdata b c home.toNat x.addr row (setChoice e { c with phase := .granted m.time } m))
    | _, _ => .ok (badMsg m)

/-- GRANT (R390). -/
def execGrant (msg : List Byte) (s : State) : Outcome State Fault Refusal := onWeirMsg 0x21 msg takeGrant s

/-- TTO in timestamp ticks: 0 acts as 1 ms. -/
def ttoTicks (m : Module) : Nat := millis (Nat.max m.weir.tto.toNat 1)

/-- A timer of an entry. -/
def onEntry (e : Nat) (act : Choice → Batch → Module → Module) (s : State) : Outcome State Fault Refusal :=
  onModule (fun m =>
    match Sparse.find m.weir.entries e with
    | .none => m
    | some c =>
      match batchAt m c.batch with
      | some b => if weirRuns m && !b.waiting then weirProgress (act c b m) else m
      | .none => m) s

/-- NOT_YET_RETRY (R390). -/
def execNotYetRetry (e : Nat) (s : State) : Outcome State Fault Refusal :=
  onEntry e (fun c b m =>
    match c.phase with
    | .retry home t =>
      if (m.time - t).toNat ≥ micros (Nat.max m.weir.retry.toNat 1) && !b.draining then
        count .weir 0 8 1 (sendDispatch b e c home.toNat m)
      else m
    | _ => m) s

/-- DISPATCH_TIMEOUT (R390): it counts as refused. -/
def execDispatchTimeout (e : Nat) (s : State) : Outcome State Fault Refusal :=
  onEntry e (fun c _ m =>
    match c.phase with
    | .awaiting _ t =>
      if (m.time - t).toNat ≥ ttoTicks m then count .weir 0 4 1 (setChoice e { c with phase := .fresh } m) else m
    | _ => m) s

/-- RDATA (R392). -/
def takeRdata (x : Msg) (m : Module) : Except (Module → Module) Module :=
  let e := entryOf x
  match Sparse.find m.weir.entries e with
  | .none => .ok (badMsg m)
  | some c =>
    match c.phase, batchAt m c.batch with
    | .lost _, _ => .ok (count .weir 0 11 1 m)
    | .granted _, some b =>
      let off := 16 * x.addr
      if off + x.payload.length > b.vbytes then .ok (badMsg m)
      else
        let write : Acc Unit :=
          if b.draining then pure () else batchWrite b (b.staging (b.k * c.token + c.choice) + off) x.payload
        match write.go m with
        | (.error s, _) => .error (batchAsks b s)
        | (.ok _, m) =>
          let c := { c with arrived := c.arrived + x.payload.length }
          .ok (if c.arrived ≥ b.vbytes then settleChoice c 1 (freeEntry e m) else setChoice e c m)
    | _, _ => .ok (badMsg m)

/-- RDATA (R392). -/
def execRdata (msg : List Byte) (s : State) : Outcome State Fault Refusal := onWeirMsg 0x24 msg takeRdata s

/-- CHOICE_LOST (R392): the entry of a stopped batch is free then (R399). -/
def execChoiceLost (e : Nat) (s : State) : Outcome State Fault Refusal :=
  onEntry e (fun c b m =>
    match c.phase with
    | .granted t =>
      if (m.time - t).toNat < ttoTicks m then m
      else if b.draining then settleChoice c 3 (freeEntry e m)
      else
        edgeAll 293 (count .weir 0 6 1 (settleChoice c 3 (setChoice e { c with phase := .lost m.time } m)))
    | _ => m) s

/-- ENTRY_QUARANTINE_END (R392). -/
def execEntryQuarantineEnd (e : Nat) (s : State) : Outcome State Fault Refusal :=
  onModule (fun m =>
    match Sparse.find m.weir.entries e with
    | .none => m
    | some c =>
      match c.phase with
      | .lost t => if weirRuns m && (m.time - t).toNat ≥ ttoTicks m then weirProgress (freeEntry e m) else m
      | _ => m) s

/-- A write of WP_RETURN (R395). -/
def wpReturn (who : Option Nat) (value : Word) (m : Module) : Module :=
  if !weirPresent m.board.part then m
  else if unitGated m handleWeir then touchGated handleWeir m
  else
    let e := bitsOf value 11 0
    let k := expertAt m e
    if hosted m k ∧ k.state = .closed ∧ k.round.toNat = bitsOf value 27 12 then
      weirProgress (setExpert e { k with state := .returning, writer := who } m)
    else edgeAll 294 { m with weir := { m.weir with badReturn := true } }

/-- WP_RETURN (R395). -/
def execWpReturn (who : Option Nat) (value : Word) (s : State) : Outcome State Fault Refusal :=
  onModule (fun m => if alive m then wpReturn who value m else m) s

end Sys2Proof.Machine
end

