-- ==== Sys2Proof/Machine/Clocks.lean ====
section
/-! DEFINITION. Switching sequences and source failures (R405-R409), clock enables (R410-R412), CLKMON (R413), and
STANDBY (R414). -/

namespace Sys2Proof.Machine

open Host

/-! ## Switching a loop (R405, R406) -/

/-- A sequence ends: BUSY clears and its command completes. -/
def endSwitch (n : Nat) (m : Module) : Module :=
  let l := loopAt m n
  let m := setLoop n { l with phase := .none, command := .none } m
  let m := match l.command with
    | some p =>
      match entryAt m p with
      | some e => completeEntry e 0 0 0 0 m
      | .none => m
    | .none => m
  checkRun m

/-- The domain is on the hold clock, and its loop leaves its lock for the new setting. -/
def Loop.toHold (l : Loop) : Loop := { l with phase := .relock, lock := false }

/-- A sequence begins by dividing down; at the divider already, the hold clock follows at once. -/
def beginSwitch (n : Nat) (target : BitVec 2 × BitVec 24 × Nat) (command : Nat) (m : Module) : Module :=
  let l := { loopAt m n with target := target, command := some command }
  let hi := slowDivider l.product 1
  setLoop n (if l.div < hi then { l with phase := .down hi } else l.toHold) m

/-- One step of the divider. -/
def stepDivider (n : Nat) (m : Module) : Module :=
  let l := loopAt m n
  match l.phase with
  | .down hi =>
    if l.div + 1 < hi then setLoop n { l with div := l.div + 1 } m
    else if sourceGood m 0 then setLoop n { l.toHold with div := hi } m
    else m
  | .up =>
    if l.div - 1 > l.target.2.2 then setLoop n { l with div := l.div - 1 } m
    else endSwitch n (setLoop n { l with div := l.target.2.2 } m)
  | _ => m

/-- DIVIDER_STEP (R405): a sequence goes on across a reset that keeps the loops. DEDUCED (log 53). -/
def execDividerStep (n : Nat) (s : State) : Outcome State Fault Refusal :=
  onModule (fun m => if m.board.input && n < 10 then stepDivider n m else m) s

/-- A relocking loop locks at its target; the domain leaves the hold clock at the slow divider. -/
def relockLoop (n : Nat) (m : Module) : Module :=
  let l := loopAt m n
  let t := l.target
  if l.phase ≠ .relock ∨ !sourceGood m 0 ∨ !sourceGood m t.1.toNat then m
  else
    let hi := slowDivider (productOf t.1.toNat t.2.1.toNat) t.2.2
    let m := setLoop n { l with lock := true, coast := false, src := t.1, mult := t.2.1, div := hi, phase := .up } m
    if hi > t.2.2 then m else endSwitch n m

/-- LOOP_RELOCK (R405). -/
def execLoopRelock (n : Nat) (s : State) : Outcome State Fault Refusal :=
  onModule (fun m => if m.board.input && n < 10 then relockLoop n m else m) s

def clkLoop (e : Entry) : Nat := byteAt e.bytes 24
def clkSrc (e : Entry) : Nat := byteAt e.bytes 25
def clkMult (e : Entry) : Nat := field e.bytes 26 3
def clkDiv (e : Entry) : Nat := byteAt e.bytes 30

/-- Highest domain output of a loop. -/
def highestKhz (n : Nat) : Nat := if n < 4 then 2200000 else if n = 4 then 1600000 else if n = 5 then 1500000 else 1000000

/-- Failing fields of a clock change (R406). -/
def clockFailures (m : Module) (e : Entry) : List Nat :=
  let n := clkLoop e
  let d := clkDiv e
  let f := productOf (clkSrc e) (clkMult e)
  failing (n == 6 || n == 7 || n == 8 || n > 9) 24
    ++ failing (clkSrc e > 1 || !sourceGood m (clkSrc e) || !sourceGood m 0) 25
    ++ failing (f < khz 400000 || f > khz 4400000) 26
    ++ failing (d == 0 || d > 64 || (if n = 9 then f != d * khz 1000000 else f > d * khz (highestKhz n))) 30

/-- A thread of a core holds a task. -/
def coreBusy (m : Module) (c : Nat) : Bool := (threadAt m (2 * c)).run != .idle || (threadAt m (2 * c + 1)).run != .idle

/-- Every ring but `own` is disabled and quiesced. -/
def ringsQuiet (m : Module) (own : Option Nat) : Bool :=
  m.host.rings.all fun r => some r.1 == own || (!r.2.enable && r.2.quiesced)

/-- The stack whose module job the commit of a step comes to next: queued, running, suspended on its fault, or waiting for
a gated stack (R291, R411). -/
def commitStack (m : Module) (step : BitVec 48) : Option Nat :=
  let b := stepBank m step
  if b.state ≠ .opened ∨ b.step ≠ step ∨ m.haze.scaleBase = 0 then .none
  else (List.range 8).find? fun st => b.tensor < 512 * (st + 1) && stackPresent m.board.part st

/-- A job is queued or running on a stack, module jobs included: those of an admitted update and of a scale commit too. -/
def stackBusy (m : Module) (st : Nat) : Bool :=
  !(stackAt m st).jobs.isEmpty || m.gate.commits.any (fun c => commitStack m c.1 == some st)
    || m.hg.pool.any fun e => match e.work with
      | .update _ => updateStack e == st
      | _ => false

/-- A request of this module holds a tag; one that has timed out only keeps it out of use (R375). -/
def tagInUse (m : Module) : Bool := m.fabric.tags.any fun g => !g.quarantined

/-- The unit that keeps a loop from being switched (R406). -/
def loopBusy (m : Module) (e : Entry) : Option Nat :=
  let n := clkLoop e
  if n < 4 then (((List.range 48).map (48 * n + ·)).find? (coreBusy m)).map handleCore
  else if n = 4 then
    if ringsQuiet m (some e.ring) && m.hg.pool.all (fun x => x.id == e.id) && !tagInUse m
        && m.weir.entries.isEmpty then .none
    else some 0
  else if n = 5 then
    match (List.range 8).find? (stackBusy m) with
    | some st => some (handleStack st)
    | .none => if m.threads.any fun t => t.2.run != .idle then some (handleStack 0) else .none
  else .none

/-- Step f of R73 and the checks after it; a sequence of the loop that runs is awaited. DEDUCED (log 53). -/
def clockCheck : BodyCheck := fun _ e s =>
  match lowest (clockFailures s.m e) with
  | some off => some (some (0x43, off), s)
  | .none =>
    if (loopAt s.m (clkLoop e)).phase ≠ .none then .none
    else some ((loopBusy s.m e).map fun h => (0x45, h), s)

/-- CLOCK_SOURCE_CHANGE (R406): the command completes when BUSY clears. -/
def execClockSourceChange (p : Nat) (s : State) : Outcome State Fault Refusal :=
  onCritical p 0x84 anyBody clockCheck (fun _ e s =>
    let target := (BitVec.ofNat 2 (clkSrc e), BitVec.ofNat 24 (clkMult e), clkDiv e)
    let m := beginSwitch (clkLoop e) target e.id (admitEntry e .idle s.m)
    { s with m := m }) s

/-! ## Sources (R407-R409) -/

/-- The lanes of a way lose lock. -/
def lanesLost (w : Nat) (m : Module) : Module :=
  (List.range 4).foldl (fun m i =>
    match (portAt m w i).state with
    | .train | .align | .handshake | .active => failPort w i 3 m
    | _ => m) m

/-- A locked loop whose source fails coasts (R408). -/
def coastLoop (c : Nat) (m : Module) (n : Nat) : Module :=
  let l := loopAt m n
  if !l.lock || l.stopped || l.src.toNat ≠ c then m
  else
    let m := setLoop n { l with lock := false, coast := true, coasted := true } m
    let m := raiseError 7 0x62 handleClocks 0 n m
    if n = 6 then lanesLost 3 (lanesLost 0 m) else if n = 7 then lanesLost 2 (lanesLost 1 m) else m

/-- SOURCE_FAIL (R407, R408). -/
def execSourceFail (c : Nat) (s : State) : Outcome State Fault Refusal :=
  onModule (fun m =>
    if c ≥ 4 || !sourceGood m c then m
    else
      let bit : BitVec 4 := 1#4 <<< c
      let m := { m with clocks := { m.clocks with srcGood := m.clocks.srcGood &&& ~~~bit, srcFail := m.clocks.srcFail ||| bit } }
      (List.range 10).foldl (coastLoop c) (raiseError 7 0x61 handleClocks 0 c m)) s

/-- L6 and L7 start when XIN_B recovers, if boot has left them stopped for it (R422). -/
def startLane (m : Module) (n : Nat) : Module :=
  if (loopAt m n).stopped && wayPresent m.board.part 0 then relockKept n m else m

/-- SOURCE_RECOVERY (R407): FAIL stays, and no coasting loop relocks. -/
def execSourceRecovery (c : Nat) (s : State) : Outcome State Fault Refusal :=
  onModule (fun m =>
    if c < 4 then
      let m := { m with clocks := { m.clocks with srcGood := m.clocks.srcGood ||| (1#4 <<< c) } }
      if c = 2 then [6, 7].foldl startLane m else m
    else m) s

/-! ## Clock enables (R410-R412) -/

/-- Whether a unit with a clock enable is idle (R411). -/
def unitIdle (m : Module) : UnitName → Bool
  | .core c => !coreBusy m c
  | .stack st => !stackBusy m st
  | .way w => (List.range 4).all fun i => (portAt m w i).state == .disabled
  | .weir => m.weir.batches.isEmpty && m.weir.entries.isEmpty
      && m.weir.experts.all fun x => !hosted m x.2 || x.2.state == .opened
  | .squall => !m.squall.enabled
  | _ => true

/-- One bit of a CK_EN write. -/
def writeEnable (h : Nat) (on : Bool) (m : Module) : Module :=
  match unitOf h with
  | .none => m
  | some u =>
    let bit : BitVec 384 := 1#384 <<< h
    if !clockEnabled u || !unitPresent m.board.part u then m
    else if on then { m with clocks := { m.clocks with gated := m.clocks.gated &&& ~~~bit } }
    else if m.clocks.gated.getLsbD h then m
    else if unitIdle m u then { m with clocks := { m.clocks with gated := m.clocks.gated ||| bit } }
    else { m with clocks := { m.clocks with gateRej := true } }

/-- A write of CK_EN w under a mask of written bits. -/
def writeCkEn (w : Nat) (value mask : Word) (m : Module) : Module :=
  (List.range 64).foldl (fun m i => if mask.getLsbD i then writeEnable (64 * w + i) (value.getLsbD i) m else m) m

/-- CK_EN_WRITE (R411). -/
def execCkEnWrite (w : Nat) (value : Word) (s : State) : Outcome State Fault Refusal :=
  onModule (fun m => if w < 6 then writeCkEn w value (BitVec.allOnes 64) m else m) s

/-- GATED_TOUCH (R412). -/
def execGatedTouch (h : Nat) (s : State) : Outcome State Fault Refusal :=
  onModule (fun m => if handlePresent m.board.part h && unitGated m h then touchGated h m else m) s

/-! ## CLKMON (R413) -/

def writeMon (value : BitVec 32) (m : Module) : Module :=
  { m with clocks := { m.clocks with monDiv := BitVec.ofNat 16 (bitsOf value 31 16), monSel := BitVec.ofNat 6 value.toNat } }

/-- CK_MON_WRITE (R413). -/
def execCkMonWrite (value : BitVec 32) (s : State) : Outcome State Fault Refusal := onModule (writeMon value) s

/-- The domain output of a loop: none while it is stopped, and the hold clock while it relocks (R405). -/
def Loop.output (l : Loop) : Nat :=
  if l.stopped then 0 else if l.phase = .relock then khz 100000 else l.product / Nat.max l.div 1

/-- The selected clock, in kHz / 65,536; 0 with none. -/
def monClock (m : Module) : Nat :=
  let n := m.clocks.monSel.toNat
  if n = 0 then 0
  else if n ≤ 4 then khz (sourceKhz (n - 1))
  else if n = 5 then khz 100000
  else if 8 ≤ n ∧ n ≤ 17 then (if (loopAt m (n - 8)).stopped then 0 else (loopAt m (n - 8)).product)
  else if 18 ≤ n ∧ n ≤ 27 then (loopAt m (n - 18)).output
  else 0

/-- CK_MON.OVER: an output above 250 MHz. -/
def monOver (m : Module) : Bool := monClock m > khz 250000 * (m.clocks.monDiv.toNat + 1)

/-- PERST# as the module acts on it: its deassertion is held until step 1 of the current boot completes (R445). -/
def inPerst (m : Module) : Bool :=
  m.host.perst || (match m.clocks.booting with
    | some (_, n) => n ≤ 1
    | .none => false)

/-- A reset has begun and not ended (R415). -/
def inReset (m : Module) : Bool := !m.board.input || inPerst m

/-- What drives the pin CLKMON: a clock, in kHz / 65,536, and the divisor it goes through; none while the pin is held
low. Of each `n` cycles of the clock the pin is high for floor(n / 2), and a divisor of 1 passes it through (R413). -/
def clkmon (m : Module) : Option (Nat × Nat) :=
  if inReset m || monClock m == 0 || monOver m then .none else some (monClock m, m.clocks.monDiv.toNat + 1)

/-- Cycles of the selected clock, of each `n`, in which the pin is high. -/
def clkmonHigh (n : Nat) : Nat := n / 2

/-! ## STANDBY (R414) -/

/-- Nothing keeps the module from STANDBY. -/
def standbyAllowed (m : Module) : Bool :=
  ringsQuiet m .none && m.hg.pool.isEmpty && !((List.range 8).any (stackBusy m)) && m.weir.batches.isEmpty
    && !tagInUse m && !m.clocks.standby && !m.clocks.moving

/-- The core islands are off: their caches are lost. DEDUCED (log 54). -/
def powerOffCores (m : Module) : Module :=
  { m with
    cores := m.cores.map fun c => (c.1, { c.2 with l1d := [], l1i := [], tlb := [], vecUp := false, waking := false })
    walks := m.walks.filter fun u => !(163 ≤ u.1 && u.1 < 355) }

/-- A write of PW_CTRL. -/
def writeStandby (on : Bool) (m : Module) : Module :=
  if on then
    if m.clocks.standby && !m.clocks.moving then m
    else if standbyAllowed m then
      let m := (List.range 4).foldl (fun m n => setLoop n { loopAt m n with stopped := true, lock := false, coast := false } m) m
      powerOffCores { m with clocks := { m.clocks with standbyReq := true, standby := true } }
    else { m with clocks := { m.clocks with rej := true } }
  else leaveStandby m

/-- STANDBY_ENTRY (R414). -/
def execStandbyEntry (s : State) : Outcome State Fault Refusal :=
  onModule (fun m => if alive m then writeStandby true m else m) s

/-- STANDBY_EXIT (R414). -/
def execStandbyExit (s : State) : Outcome State Fault Refusal :=
  onModule (fun m => if alive m then writeStandby false m else m) s

end Sys2Proof.Machine
end

