-- ==== Sys2Proof/Machine/Boot.lean ====
section
/-! DEFINITION. Reset kinds (R415-R419), boot (R422, R423) and firmware activation (R420, R421). -/

namespace Sys2Proof.Machine

open Host

/-! ## Resets (R415-R417) -/

/-- Rails 1-5 all up. -/
def railsUp : BitVec 5 := BitVec.allOnes 5

/-- The boot step a reset kind runs from. -/
def entryStep (m : Module) : ResetKind → Nat
  | .powerOn => 1
  | .fundamental => if m.board.rails = railsUp then 2 else 1
  | .hostLink | .warm => 5

/-- CAUSE of BOOT_STATUS. -/
def ResetKind.code : ResetKind → BitVec 4
  | .powerOn => 0
  | .fundamental => 1
  | .hostLink => 2
  | .warm => 3

/-- An address lies in a lost channel, whose accesses are not performed (R272). -/
def channelLost (m : Module) (a : Nat) : Bool := (dramAt m (dramKey a)).lost

/-- Every pending reduction is applied, and every dirty line and eviction buffer entry written back (R416): those of a
channel in a retrain when it ends, which it does with the reset. DESIGN CHOICE (log 55). -/
def flushSlice (m : Module) (sl : Nat) : Module :=
  let m := drainReds sl m
  let s := sliceAt m sl
  let m := s.evicted.foldl (fun m e => if channelLost m e.line then m else writeDram e.line e.data e.poison m) m
  s.lines.foldl (fun m l => if l.dirty && !channelLost m l.line then writeDram l.line l.data l.poison m else m) m

def flushLlc (m : Module) : Module := (List.range 64).foldl flushSlice m

/-- Whether a reset boots the module: a FATAL error holds it until a power-on reset, or a fundamental one where there
was no thermal trip; failed boot until either (R415, R423, R430). -/
def bootsAfter (m : Module) (k : ResetKind) : Bool :=
  match k with
  | .powerOn => true
  | .fundamental => !(m.errors.stopped && m.board.thermTrip)
  | _ => !m.errors.stopped && !m.clocks.bootFail

/-- Error state after a reset: the log is cleared by power-on and fundamental resets, ER_FATAL by power-on alone (R430). -/
def errorsAfter (k : ResetKind) (boots : Bool) (e : Errors) : Errors :=
  match k with
  | .powerOn => {}
  | .fundamental =>
    { e with log := [], head := 0, tail := 0, seq := 0, lost := false, badHead := false, clearing := .none, stopped := !boots }
  | _ => { e with clearing := .none }

/-- Loop `n` across a reset that keeps its setting: a sequence goes on without its command, and a core loop that STANDBY
stopped starts again (R414, R417). DEDUCED (log 55). -/
def keepLoop (good : BitVec 4) (n : Nat) (l : Loop) : Loop :=
  let l := { l with command := .none }
  if n < 4 && l.stopped then l.restart (good.getLsbD l.src.toNat) else l

/-- Clocks after a reset of kind `k`, which boots as `kind` from step `start` (R417). -/
def clocksAfter (k kind : ResetKind) (boots : Bool) (start : Nat) (seed : Option Word) (c : Clocks) : Clocks :=
  let cold := k == .powerOn || k == .fundamental
  let c : Clocks := if k = .powerOn then { srcGood := c.srcGood } else c
  { c with
    srcFail := if cold then 0 else c.srcFail
    loops := if cold then [] else c.loops.map fun l => (l.1, keepLoop c.srcGood l.1 l.2)
    gated := 0, standbyReq := false, moving := false, standby := false
    seed := seed.getD c.seed, cause := k.code, step := if boots then start - 1 else c.step
    booting := if boots then some (kind, start) else .none
    bootFail := c.bootFail && !boots, code := if boots then 0 else c.code, whereAt := if boots then 0 else c.whereAt }

/-- Channel state across a reset that keeps LPDDR5X training; a retrain in progress ends with it. DESIGN CHOICE (log 55). -/
def keepChannel (d : DramChannel) : DramChannel := { trained := d.trained, lost := d.lost }

/-- A warm reset that has its command waits on through other resets: TIME starts at 0, and its 10 µs go on (R415). -/
def keepWarm (k : ResetKind) (m : Module) : List (Word × Option Word × Bool) :=
  if k = .powerOn then [] else m.pendingReset.warm.map fun w => (w.1 - m.time, w.2)

/-- The module as a reset of kind `k` leaves it, before its boot as kind `kind` (R417). DEDUCED (log 55). -/
def clearedBy (k kind : ResetKind) (seed : Option Word) (clear : Bool) (m : Module) : Module :=
  let cold := k == .powerOn || k == .fundamental
  let boots := bootsAfter m k
  let host : HostPort :=
    { perst := m.host.perst, hostMem := m.host.hostMem, hostAnswers := m.host.hostAnswers, msixSent := m.host.msixSent
      linkUp := k == .warm && m.host.linkUp, msix := if k = .warm then m.host.msix else [] }
  { freeCount := m.freeCount, host := host, mem := m.mem, poison := m.poison
    drams := if cold then [] else m.drams.map fun d => (d.1, keepChannel d.2)
    clocks := clocksAfter k kind boots (entryStep m kind) seed m.clocks
    pendingReset := { warm := keepWarm k m, clearMem := clear }
    errors := errorsAfter k boots m.errors
    board := m.board
    stats := if k = .powerOn then [] else m.stats.filter fun c => c.1 / 65536 == Stat.auth.block }

/-- The kind whose steps boot runs: one that begins during another restarts it from the earlier of the two steps, so that
it runs the steps of the kind that begins earlier (R415). Once boot has failed or a FATAL error has stopped it, the steps are
those of the new kind alone: DESIGN CHOICE (log 56). -/
def bootKind (k : ResetKind) (m : Module) : ResetKind :=
  match (if m.errors.stopped then .none else m.clocks.booting) with
  | some (k0, _) => if k ≠ .powerOn ∧ (k0 = .powerOn ∨ entryStep m k0 < entryStep m k) then k0 else k
  | .none => k

/-- A reset begins, and clears what its kind clears. No message leaves while lines are written back (R416). -/
def startReset (k : ResetKind) (seed : Option Word) (clear : Bool) (m : Module) : Module :=
  let kind := bootKind k m
  let clear := clear || m.pendingReset.clearMem
  let m := beginStop m
  let m := if k = .hostLink ∨ k = .warm then { flushLlc m with host := m.host } else m
  clearedBy k kind seed clear m

/-- POWER_ON_RESET (R415, R441): the input rises into its range, and the rails start from nothing.
DESIGN CHOICE (log 9). -/
def powerOn (m : Module) : Module :=
  let m := startReset .powerOn .none false
    { m with board := { m.board with
      input := true, excursion := false, rails := 0, pwrOk := false, thermTrip := false, temp := [], hot := [] } }
  { m with mem := [], poison := [] }

/-- POWER_ON_RESET (R415). -/
def execPowerOnReset (s : State) : Outcome State Fault Refusal := onModule powerOn s

/-- FUNDAMENTAL_RESET (R415, R445): PERST# is asserted; without the input it only stays so until it is deasserted. -/
def execFundamentalReset (s : State) : Outcome State Fault Refusal :=
  onModule (fun m =>
    let m := { m with host := { m.host with perst := true } }
    if m.board.input then startReset .fundamental .none false m else m) s

/-- PERST_DEASSERT (R415). -/
def execPerstDeassert (s : State) : Outcome State Fault Refusal :=
  onModule (fun m => { m with host := { m.host with perst := false } }) s

/-- HOST_LINK_RESET (R415). -/
def execHostLinkReset (s : State) : Outcome State Fault Refusal :=
  onModule (fun m => if m.board.input then startReset .hostLink .none false m else m) s

/-- WARM_RESET (R415): 10 µs after the completion record. -/
def execWarmReset (s : State) : Outcome State Fault Refusal :=
  onModule (fun m =>
    match m.pendingReset.warm with
    | (t, seed, clear) :: rest =>
      if m.board.input && (m.time - t).toNat ≥ micros 10 then
        startReset .warm seed clear { m with pendingReset := { m.pendingReset with warm := rest } }
      else m
    | [] => m) s

/-- Step f of R73: SEED without SETSEED. -/
def warmFailures (_ : KeySlot) (e : Entry) (_ : State) : List Nat :=
  failing (!natBit (byteAt e.bytes 32) 0 && field e.bytes 24 8 != 0) 24

/-- WARM_RESET_COMMAND (R419): the reset follows its record. -/
def execWarmResetCommand (p : Nat) (s : State) : Outcome State Fault Refusal :=
  onCritical p 0x86 anyBody (fieldsCheck warmFailures) (fun _ e s => finishCommand e 0 s) s

/-- HOST_LINK_UP (R36, R444, R445): the link trains once its rail is up and PERST# is released. -/
def execHostLinkUp (s : State) : Outcome State Fault Refusal :=
  onModule (fun m =>
    if m.board.input && m.board.rails.getLsbD 1 && !inPerst m then { m with host := { m.host with linkUp := true } }
    else m) s

/-! ## Boot (R422, R423) -/

/-- The step after `n` of a reset kind; none after step 10. -/
def nextStep (k : ResetKind) (clear : Bool) (n : Nat) : Option Nat :=
  let runs (i : Nat) : Bool :=
    if i = 6 then k == .powerOn || k == .fundamental || clear
    else if i = 8 then k == .powerOn
    else true
  ((List.range 11).drop (n + 1)).find? runs

/-- Failure codes a step may report. -/
def codeFits (n : Nat) (code : Nat) : Bool :=
  match n with
  | 1 => code == 5
  | 2 => code == 2 || code == 6
  | 3 => code == 1 || code == 6
  | 4 => code == 3
  | 5 => code == 6
  | 6 => code == 4
  | _ => false

/-- The firmware bank step 2 loads, and whether it had to fall back; none with no valid image (R420). -/
def pickBank (b : Board) (bad : Bool) : Option (Bool × Bool) :=
  let bank (i : Bool) : FwBank := if i then b.bank1 else b.bank0
  if (bank b.active).valid && !bad then some (b.active, false)
  else if (bank !b.active).valid then some (!b.active, true)
  else .none

/-- The lowest loop whose setting is kept and that has not locked: step 5 of a host-link or warm reset finds it. -/
def unlockedLoop (k : ResetKind) (m : Module) : Option Nat :=
  if k = .hostLink ∨ k = .warm then
    (List.range 10).find? fun n => !(loopAt m n).stopped && !(loopAt m n).lock
  else .none

/-- The failure of a step: the one reported, or the one the module's state forces. Without FOSC step 2 cannot lock L9, and
step 3 has no hold clock to set a loop by (R405, R408). DEDUCED (log 56). -/
def stepFailure (k : ResetKind) (n : Nat) (failure : Option (BitVec 8 × BitVec 8)) (bad : Bool) (m : Module) :
    Option (BitVec 8 × BitVec 8) :=
  match failure with
  | some f => some f
  | .none =>
    if n = 2 ∧ !sourceGood m 0 then some (6, 9)
    else if n = 3 ∧ !sourceGood m 1 then some (1, 0)
    else if n = 3 ∧ !sourceGood m 0 then some (6, 0)
    else if n = 2 ∧ (pickBank m.board bad).isNone then some (2, 0)
    else if n = 5 then (unlockedLoop k m).map fun i => (6, BitVec.ofNat 8 i)
    else .none

/-- A boot step fails: boot stops (R423, R444). -/
def failBoot (n : Nat) (f : BitVec 8 × BitVec 8) (m : Module) : Module :=
  let where_ := if f.1 = 3 ∨ f.1 = 4 ∨ f.1 = 6 then f.2 else 0
  { m with
    clocks := { m.clocks with bootFail := true, code := f.1, whereAt := where_, booting := .none }
    board := if n = 1 then { m.board with rails := 3 } else m.board }

/-- Step 2: L9 locks on FOSC × 5 and firmware is loaded. DESIGN CHOICE (log 64). -/
def bootFirmware (bad : Bool) (m : Module) : Module :=
  match pickBank m.board bad with
  | .none => m
  | some (i, fell) =>
    let bank := if i then m.board.bank1 else m.board.bank0
    setLoop 9 { loopAt m 9 with lock := true, src := 0, mult := 5 * 65536, div := 1 }
      { m with
        board := { m.board with running := bank.version, image := bank.image }
        clocks := { m.clocks with bank := i, fallback := fell } }

/-- Step 3: every loop takes its boot setting, COASTED apart; L6 and L7 stay stopped without XIN_B or without ways. -/
def bootLoops (m : Module) : Module :=
  (List.range 10).foldl (fun m n =>
    let lanes := n = 6 ∨ n = 7
    let stopped := lanes && (!sourceGood m 2 || !wayPresent m.board.part 0)
    setLoop n { bootLoop n with lock := !stopped, stopped := stopped, coasted := (loopAt m n).coasted } m) m

/-- Machine-level firmware in the machine-reserved region, behind the return stacks (R242). DESIGN CHOICE (log 64). -/
def firmwareBase : Nat := reservedBase + 0xC00000

/-- Step 7 places machine-level firmware; units it covers lose their marks. -/
def placeFirmware (m : Module) : Module :=
  let l := m.board.image
  (List.range (l.length / 32)).foldl (fun m i => setPoison (firmwareBase / 32 + i) false m)
    { m with mem := memPutMasked m.mem firmwareBase (fun _ => true) 0 l }

/-- Step 7: cores are reset and every lane generator is seeded (R418). DEDUCED (log 66). DESIGN CHOICE (log 8). -/
def seedThreads (m : Module) : Module :=
  (List.range 384).foldl (fun m t =>
    let gens : Sparse Gen := (List.range 32).map fun l => (l, Gen.seed m.clocks.seed (32 * t + l))
    setThread t { gens := gens } m) m

def seedStacks (m : Module) : Module :=
  (List.range 8).foldl (fun m st =>
    let gens : Sparse Gen := (List.range 512).map fun i => (i, Gen.seed m.clocks.seed (12288 + 512 * st + i))
    setStack st { stackAt m st with gens := gens } m) m

/-- What a completed step has done; the rails that step 1 has not brought up yet come up in order (R444). -/
def stepDone (n : Nat) (bad : Bool) (m : Module) : Module :=
  match n with
  | 1 => { m with board := { m.board with rails := railsUp, pwrOk := true } }
  | 2 => bootFirmware bad m
  | 3 => bootLoops m
  | 4 => (List.range 64).foldl (fun m k => setDram k { dramAt m k with trained := true } m) m
  | 5 => { m with clocks := { m.clocks with gated := 0 } }
  | 6 => { m with mem := [], poison := [] }
  | 7 => seedStacks (seedThreads (placeFirmware m))
  | _ => m

/-- A boot step has completed: the next one starts, and after step 10 the module is ready for rings. -/
def bootOn (k : ResetKind) (n : Nat) (bad : Bool) (s : State) : State :=
  let m := stepDone n bad s.m
  let next := (nextStep k m.pendingReset.clearMem n).map fun i => (k, i)
  let m := { m with
    clocks := { m.clocks with step := n, booting := next }
    pendingReset := if next.isNone then { m.pendingReset with clearMem := false } else m.pendingReset }
  -- step 8: AUTH_LAST := CEIL for every slot that is not empty (R78)
  { s with auth := if n = 8 then s.auth.powerOn else s.auth, m := m }

/-- Boot may go on: there is power, no FATAL error, past step 1 PERST# is released (R415, R445), and step 5 waits for loops
that are in a sequence (R422). -/
def bootRuns (m : Module) (n : Nat) : Bool :=
  m.board.input && !m.errors.stopped && (n ≤ 1 || !m.host.perst)
    && (n != 5 || (List.range 10).all fun i => (loopAt m i).phase == .none)

/-- BOOT_STEP_COMPLETE (R422, R423): `failure` names a step that failed, with CODE and WHERE; `bad` that the active image
fails its checks. -/
def execBootStepComplete (failure : Option (BitVec 8 × BitVec 8)) (bad : Bool) (s : State) : Outcome State Fault Refusal :=
  .next (match s.m.clocks.booting with
    | .none => s
    | some (k, n) =>
      if !bootRuns s.m n then s
      else if failure.any fun f => !codeFits n f.1.toNat then s
      else
        match stepFailure k n failure bad s.m with
        | some f => { s with m := failBoot n f s.m }
        | .none => bootOn k n bad s)

/-! ## Firmware activation (R420, R421) -/

def fwImage (e : Entry) : Nat := field e.bytes 24 8
def fwLength (e : Entry) : Nat := field e.bytes 32 4

/-- IMAGE and LENGTH. -/
def rangeFailures (e : Entry) : List Nat :=
  let n := fwLength e
  failing (fwImage e % 4096 ≠ 0 || fwImage e < extBase || fwImage e + n > reservedBase) 24
    ++ failing (n % 4096 ≠ 0 || n < 4096 || n > 16777216) 32

/-- Step f of R73. DESIGN CHOICE (log 10). DEDUCED (log 36). -/
def firmwareCheck : BodyCheck := fun k e s =>
  match lowest (rangeFailures e) with
  | some off => some (some (0x43, off), s)
  | .none =>
    match readLocal (fwLength e / 128) (fwImage e) s.m with
    | .none => .none
    | some (.none, m) => some (some (0x51, 0), { s with m := m })
    | some (some bs, m) =>
      let mac := macWithUid k s.m.board.uid (bs.map (·.toNat))
      let bad := failing (Config.imageVersion bs != BitVec.ofNat 32 (field e.bytes 36 4)) 36
        ++ failing (mac != natBytes e.bytes 48 16) 48
        ++ failing (!Config.imageSigned bs) 0x100
      some ((lowest bad).map fun off => (0x43, off), { s with m := m })

/-- FIRMWARE_ACTIVATION (R421): the steward core takes the image. -/
def execFirmwareActivation (p : Nat) (s : State) : Outcome State Fault Refusal :=
  onCritical p 0x81 anyBody firmwareCheck (fun _ e s =>
    match readLocal (fwLength e / 128) (fwImage e) s.m with
    | some (some bs, m) =>
      let work : Work := .store bs (BitVec.ofNat 32 (field e.bytes 36 4))
      { s with m := admitEntry e work m }
    | _ => s) s

/-- The image a pool entry stores. -/
def Entry.storing (e : Entry) : Option FwBank :=
  match e.work with
  | .store image version => some { valid := true, version := version, image := image }
  | _ => .none

/-- The image stands verified in the inactive bank, which becomes the active one. -/
def storeImage (b : Board) (bank : FwBank) : Board :=
  if b.active then { b with bank0 := bank, active := false } else { b with bank1 := bank, active := true }

/-- FIRMWARE_STORE_COMPLETE (R421): a copy that does not verify is written again. -/
def execFirmwareStoreComplete (ok : Bool) (s : State) : Outcome State Fault Refusal :=
  onModule (fun m =>
    match m.hg.pool.find? fun e => e.storing.isSome with
    | .none => m
    | some e =>
      match e.storing with
      | .none => m
      | some bank =>
        if !ok || !alive m then m
        else
          let m := completeEntry e 0 0 0 0 { m with board := storeImage m.board bank }
          if natBit (byteAt e.bytes 40) 0 then startReset .fundamental .none false m else m) s

end Sys2Proof.Machine
end

