-- ==== Sys2Proof/Machine/Caches.lean ====
section
/-! DEFINITION. What the LLC slices, the L1 prefetcher and the DRAM channels do by themselves (R254, R262-R274,
R414). -/

namespace Sys2Proof.Machine

open Host (Outcome)

/-! ## Slices (R262-R269) -/

/-- REDUCTION_APPLY (R262): the oldest reduction that has arrived. -/
def execReductionApply (sl : Nat) (s : State) : Outcome State Fault Refusal :=
  onModule (fun m => if alive m then applyOldest sl m else m) s

/-- LLC_FILL (R266): the data of an open miss register arrives; it may have to wait for a victim. -/
def execLlcFill (sl : Nat) (line : Nat) (s : State) : Outcome State Fault Refusal :=
  onModule (fun m =>
    if alive m && dramReady m line && readGranted m line then (fill false sl line m).getD m else m) s

/-- Whether a waiting request can go on now: it joins, hits, or gets a free register within the cap (R266, R267). -/
def grantable (m : Module) (sl : Nat) (r : Request) : Bool :=
  let s := sliceAt m sl
  let line := lineOf r.addr
  match s.miss line with
  | some k => k.waiters.length < 16
  | .none => (s.find line).isSome || (s.entry line).isSome
      || (s.underCap line && s.misses.length < sliceRegisters m)

/-- The access whose turn it is at a line is given up: its agent has not made it again. DESIGN CHOICE (log 26). -/
def Slice.giveUp (s : Slice) (line : Nat) : Slice :=
  match s.find line with
  | some l => if l.owed.isSome then s.put (l.use 0) else s
  | .none => s

/-- The queued request `r` is taken; the others keep their places. -/
def grantRequest (sl : Nat) (r : Request) (m : Module) : Module :=
  let q := (sliceAt m sl).queue
  let m := setSlice sl ((sliceAt m sl).giveUp (lineOf r.addr)) m
  let m := (takeRequest sl r (setSlice sl { sliceAt m sl with queue := [] } m)).2
  setSlice sl { sliceAt m sl with queue := q.erase r ++ (sliceAt m sl).queue } m

/-- The waiting request that goes on: the oldest within its bank's cap whose line is owed to no other, else the oldest
whose line is. -/
def nextGrant (sl : Nat) (m : Module) : Option Request :=
  let s := sliceAt m sl
  match s.queue.find? fun r => grantable m sl r && !s.owesOther r.ask.who (lineOf r.addr) with
  | some r => some r
  | .none => s.queue.find? (grantable m sl)

/-- MISS_REGISTER_GRANT (R266, R267): a waiting request goes on; where there is none,
each that finds no free register has waited one more cycle (LLC_STAT 2). -/
def execMissRegisterGrant (sl : Nat) (s : State) : Outcome State Fault Refusal :=
  onModule (fun m =>
    let k := sliceAt m sl
    if !alive m then m
    else match nextGrant sl m with
      | .none => count .llc sl 2 (k.queue.filter k.wantsRegister).length m
      | some r => grantRequest sl r m) s

/-- A write-back holds its request register until memory acknowledges it (R278). -/
def holdWriteBack (line : Nat) (m : Module) : Module :=
  if line ≥ extBase then m
  else
    let st := stackOf line
    setStack st { stackAt m st with held := (stackAt m st).held ++ [dramRequest line forWriteBack] } m

/-- EVICTION_WRITE_BACK (R265): an entry no reduction waits for sends its value. -/
def execEvictionWriteBack (sl : Nat) (line : Nat) (s : State) : Outcome State Fault Refusal :=
  onModule (fun m =>
    let k := sliceAt m sl
    match k.entry line with
    | .none => m
    | some e =>
      if alive m && !e.sent && !(k.reds.any fun r => lineOf r.addr == line) then
        withRegister line forWriteBack (fun m =>
          writeDram line e.data e.poison (setSlice sl (k.putEntry { e with sent := true, redirty := false })
            (holdWriteBack line m))) m
      else m) s

/-- WRITE_BACK_ACKNOWLEDGE (R265): the entry retires, or has a later value to send. -/
def execWriteBackAcknowledge (sl : Nat) (line : Nat) (s : State) : Outcome State Fault Refusal :=
  onModule (fun m =>
    let k := sliceAt m sl
    match k.entry line with
    | .none => m
    | some e =>
      let m := if line < extBase && e.sent then freeRegister (stackOf line) (dramRequest line forWriteBack) m else m
      if !e.sent then m
      else if e.redirty || k.reds.any (fun r => lineOf r.addr == line) then
        setSlice sl (k.putEntry { e with sent := false, redirty := false }) m
      else setSlice sl { k with evicted := k.evicted.filter fun x => x.line != line } m) s

/-- PFDEPTH as it acts: at most 3 (LLC_CTRL). -/
def Slice.depth (s : Slice) : Nat := Nat.min 3 s.pfDepth.toNat

/-- A line ahead of a run of misses of one requester, at most 2^PFDEPTH of this slice's lines away. -/
def Slice.ahead (s : Slice) (line : Nat) : Bool :=
  let i := sliceIndex line
  s.runs.any fun r =>
    let l := sliceIndex r.last
    match r.descends with
    | .none => false
    | some true => i < l && l ≤ i + 2 ^ s.depth
    | some false => l < i && i ≤ l + 2 ^ s.depth

/-- LLC_PREFETCH (R269): a line ahead of the run takes a miss register. -/
def execLlcPrefetch (sl line : Nat) (s : State) : Outcome State Fault Refusal :=
  onModule (fun m =>
    let k := sliceAt m sl
    if alive m && k.pfEn && line % 128 == 0 && plainMemory m line && homeSlice line == sl && k.ahead line
        && (k.find line).isNone && (k.entry line).isNone && (k.miss line).isNone
        && k.roomFor m line then
      (arrive sl { ask := .prefetch, addr := line } (count .llc sl 12 1 m)).2
    else m) s

/-! ## The L1 prefetcher (R254) -/

/-- The prefetcher of a thread fetches a line ahead of its accesses, when its translation is at hand. A line of another
module comes later. DEDUCED (log 26). -/
def prefetchLine (t va : Nat) : Acc Unit := do
  let m ← get
  let ag := threadAgent m t
  let held := ag.level == 2 || (tlbOf m ag.unit).any fun e => e.covers ag.asid va
  let follows := (Sparse.find (coreAt m (t / 2)).follow t).any (·.ahead va)
  if !held || !follows then stop .wait
  else
    let p ← resolveMem ag .read va
    let m ← get
    if (l1Find (coreAt m (t / 2)) (placeKey p)).isSome then stop .wait
    else
      match p with
      | .mem _ =>
        let d ← lineRead (.prefetch t true) va p 0
        l1Install t { line := placeKey p, data := d.1, poison := d.2, pf := true }
        modify (perf t 0x08 1)
      | .remote n a =>
        if m.fabric.tags.any fun g => g.prefetches (t / 2) && remoteKey g == placeKey p then stop .wait
        else
          match sendRequest (.prefetch t true) va
              { type := 0x01, op := 7, dst := BitVec.ofNat 12 n, src := m.fabric.node, addr := lineOf a } m with
          | (.sent, m) => set (perf t 0x08 1 m)
          | _ => stop .wait
      | _ => stop .wait

/-- L1_PREFETCH (R254): a prefetch that cannot be made at once changes nothing, but for its wait at the home slice. -/
def execL1Prefetch (t : Nat) (line : Nat) (s : State) : Outcome State Fault Refusal :=
  onModule (fun m =>
    if alive m && t < 384 && (threadAt m t).run == .running && line < 2 ^ 48 then
      match (prefetchLine t line).go m with
      | (.ok _, m') => m'
      | (.error s, _) => if s.waits then s.asks m else m
    else m) s

/-! ## Way power (R270, R427) -/

/-- BUSY of LLC_WAYSTAT. -/
def Slice.busyWays (s : Slice) : Bool := s.goingOff != 0 || s.goingOn != 0

/-- LLC_WAYEN as a write leaves it: 0 is taken as 1, and a retired way stays off. -/
def Slice.wayTarget (s : Slice) (v : BitVec 16) : BitVec 16 := (if v = 0 then 1 else v) &&& ~~~s.retired

/-- Begin the sequence to a new LLC_WAYEN, or hold it until the running one ends. -/
def Slice.writeWays (s : Slice) (v : BitVec 16) : Slice :=
  let w := s.wayTarget v
  if s.busyWays then { s with nextEn := some w }
  else { s with wayEn := w, goingOff := s.wayOn &&& ~~~w, goingOn := w &&& ~~~s.wayOn }

/-- A write of LLC_WAYEN. -/
def writeWayEn (sl : Nat) (v : BitVec 32) (m : Module) : Module :=
  if sl < 64 then setSlice sl ((sliceAt m sl).writeWays (v.setWidth 16)) m else m

/-- WAY_POWER_DOWN (R270). -/
def execWayPowerDown (sl : Nat) (value : BitVec 32) (s : State) : Outcome State Fault Refusal :=
  onModule (writeWayEn sl value) s

/-- WAY_POWER_UP (R270). -/
def execWayPowerUp (sl : Nat) (value : BitVec 32) (s : State) : Outcome State Fault Refusal :=
  onModule (writeWayEn sl value) s

/-- Lines of the ways that power down. -/
def Slice.leaving (s : Slice) : List LlcLine := s.lines.filter fun l => s.goingOff.getLsbD l.way

/-- WAY_SEQUENCE_COMPLETE (R270): once no line of the ways is busy, dirty lines are written back and the ways
switch; a held write then begins its own sequence. -/
def execWaySequenceComplete (sl : Nat) (s : State) : Outcome State Fault Refusal :=
  onModule (fun m =>
    let k := sliceAt m sl
    if !k.busyWays || k.leaving.any (fun l => k.busy l.line) then m
    else if k.leaving.any fun l => l.dirty && !writeReady m l.line then
      k.leaving.foldl (fun m l => if l.dirty then waitWriteBack l.line m else m) m
    else
      let m := k.leaving.foldl (fun m l =>
        if l.dirty then writeDram l.line l.data l.poison (endWriteBack l.line m) else m) m
      let k := { k with
        lines := k.lines.filter fun l => !k.goingOff.getLsbD l.way
        wayOn := (k.wayOn &&& ~~~k.goingOff) ||| k.goingOn
        wayEn := k.wayEn &&& ~~~k.retired
        goingOff := 0
        goingOn := 0
        nextEn := .none }
      let k := match (sliceAt m sl).nextEn with
        | some v => k.writeWays v
        | .none => k
      edge (sl / 16) (65 + 4 * (sl % 16)) (setSlice sl k m)) s

/-! ## DRAM channels (R272-R274, R414) -/

/-- Number of DRAM channels: 64 of LPDDR5X and 32 for each of eight stacks. DEDUCED (log 27). -/
def channelCount : Nat := 320

/-- PATROL_SCRUB (R274, R279): a line is read and written back as corrected. -/
def execPatrolScrub (line : Nat) (s : State) : Outcome State Fault Refusal :=
  onModule (fun m => if alive m then withRegister line forScrub (touchDram (scrubRequester line) line) m else m) s

/-- REFRESH (R273, R279). -/
def execRefresh (ch : Nat) (bank : Nat) (s : State) : Outcome State Fault Refusal :=
  onModule (fun m => if ch < channelCount then setDram ch { dramAt m ch with refreshed := bank } m else m) s

/-- WCK_DRIFT_CHECK (R272): a drifted channel is blocked for a retrain. -/
def execWckDriftCheck (ch : Nat) (drifted : Bool) (s : State) : Outcome State Fault Refusal :=
  onModule (fun m =>
    let d := dramAt m ch
    if alive m && ch < 64 && d.trained && drifted && !d.blocked && !d.lost then
      setDram ch { d with blocked := true, attempts := 0 } m
    else m) s

/-- RETRAIN_COMPLETE (R272): a failure is repeated, and the fourth loses the channel. -/
def execRetrainComplete (ch : Nat) (ok : Bool) (s : State) : Outcome State Fault Refusal :=
  onModule (fun m =>
    let d := dramAt m ch
    if !d.blocked || d.lost then m
    else if ok then setDram ch { d with blocked := false, attempts := 0 } m
    else
      let d := { d with attempts := d.attempts + 1 }
      if d.attempts < 4 then setDram ch d m
      else raiseFatal 0xF4 (handleController (ch / 4)) ch d.attempts (setDram ch { d with lost := true } m)) s

/-- SELF_REFRESH_ENTRY (R414): in STANDBY, 10 microseconds after the last access. -/
def execSelfRefreshEntry (ch : Nat) (s : State) : Outcome State Fault Refusal :=
  onModule (fun m =>
    let d := dramAt m ch
    if ch < channelCount && m.clocks.standby && (m.time - d.lastAccess).toNat ≥ micros 10 then
      setDram ch { d with selfRefresh := true } m
    else m) s

end Sys2Proof.Machine
end

