-- ==== Sys2Proof/Machine/Haze.lean ====
section
/-! DEFINITION. Haze offers and samples (R328-R331), and the commit of a step: scale records, counter and tokens (R233, R235,
R322). -/

namespace Sys2Proof.Machine

open Host

/-! ## Module jobs -/

/-- A module job stands before the task jobs that have not started (R288). DEDUCED (log 38). -/
def queueModuleJob (st : Nat) (j : Job) (m : Module) : Module :=
  let k := stackAt m st
  let front := k.jobs.takeWhile fun x => x.started || x.kind.isSome || x.ending.isSome
  assignAll st (setStack st { k with jobs := front ++ j :: k.jobs.drop front.length, nextId := k.nextId + 1 } m)

/-- A module job leaves its stack. -/
def dropJob (st j : Nat) (m : Module) : Module :=
  let k := stackAt m st
  assignAll st (setStack st { k with jobs := k.jobs.filter fun x => x.id != j } m)

/-- Engines of a stack that hold a chunk of a job. -/
def enginesOn (k : Stack) (j : Nat) : Nat := (k.engines.filter fun r => r.2.job == j).length

/-- How a stack reaches the tables of the Haze configuration, under its ASID and at a level (R248, R324). -/
def hazeReach (m : Module) (st level : Nat) : Reach :=
  { ag := { asid := m.haze.asid, level := level, unit := handleStack st }, st := st, job := 0, direct := false }

/-! ## Stash and Haze configuration (R324) -/

/-- The operation of a posted job, whose record its stack may not have read yet: 0 where the record cannot be read, and
none while its translation must wait. -/
def postedOp (m : Module) (st : Nat) (j : Job) : Option Nat :=
  if !j.record.isEmpty then some j.op
  else match (engineAt { j.reach st with direct := false } .read j.addr.toNat).go m with
    | (.ok a, _) => some (byteAt (heldLine (lineOf a) m).1 (a % 128))
    | (.error s, _) => if s.waits then .none else some 0

/-- A STASH, UNSTASH or Haze job; none while that is not known. DEDUCED (log 43). -/
def stashJob (m : Module) (st : Nat) (j : Job) : Option Bool :=
  match j.kind with
  | some (.haze _ _ _) => some true
  | some (.update _ _) | some (.commit _ _) => some false
  | .none => (postedOp m st j).map fun op => op == 7 || op == 8

/-- Some job is a STASH, UNSTASH or Haze job, or is not known not to be one. -/
def stashJobs (m : Module) (found : Option Bool → Bool) : Bool :=
  m.basins.any fun k => k.2.jobs.any fun j => found (stashJob m k.1 j)

def stashBusy (m : Module) : Bool := stashJobs m (· == some true)
def stashUnknown (m : Module) : Bool := stashJobs m (· == .none)

/-- A token word with V = 1. -/
def tokenWord (w : Nat) : Option (BitVec 12) := if natBit w 15 then some (BitVec.ofNat 12 w) else .none

/-- The settings of a sound descriptor. -/
def hazeSettings (e : Entry) : Haze :=
  let b := e.bytes
  { scaleBase := BitVec.ofNat 64 (field b 8 8), stashTab := BitVec.ofNat 64 (field b 16 8)
    hazeTab := BitVec.ofNat 64 (field b 24 8), hazeOut := BitVec.ofNat 64 (field b 32 8)
    layers := BitVec.ofNat 13 (field b 40 2), ctoken := tokenWord (field b 42 2)
    rtoken := tokenWord (field b 44 2), enabled := natBit (byteAt b 46) 0, asid := asidOf e, offers := [] }

/-- STASH_AND_HAZE_CONFIGURATION (R324). -/
def execStashAndHazeConfiguration (p : Nat) (s : State) : Outcome State Fault Refusal :=
  onModule (onDescriptor p (· == 6) fun e m =>
    if !bankFree m.gate.bank0 || !bankFree m.gate.bank1 || stashBusy m then completeEntry e 0x45 0 0 0 m
    else if stashUnknown m then setEntry { e with held := true } m
    else completeEntry e 0 (field e.bytes 40 2) 0 0 { m with haze := hazeSettings e }) s

/-! ## Offers (R328, R329) -/

/-- Fields of an offer record. -/
def hzLayer (b : List Byte) : Nat := field b 0 2 % 4096
def hzFa (b : List Byte) : Nat := byteAt b 2 % 16
def hzFw (b : List Byte) : Nat := byteAt b 2 / 16
def hzOf (b : List Byte) : Nat := byteAt b 3 % 16
def hzM (b : List Byte) : Nat := byteAt b 4 % 32 + 1
def hzN (b : List Byte) : Nat := byteAt b 5 % 32 + 1
def hzK (b : List Byte) : Nat := field b 8 4
/-- K of a layer's table entry, and whether it is enabled. -/
def hzRate (e : List Byte) : Nat := byteAt e 0 % 16
def hzOn (e : List Byte) : Bool := natBit (byteAt e 0) 7

def hzInput (c : Nat) : Bool := (1 ≤ c && c ≤ 4) || (7 ≤ c && c ≤ 11)

/-- An offer record breaks no rule of R329. -/
def offerSound (b : List Byte) : Bool :=
  let mx := Fp.isMx (hzFa b) || Fp.isMx (hzFw b)
  let clear (l : List (Nat × Nat)) : Bool := (firstNonzero b l).isNone
  clear ([(1, 0xF0), (3, 0xF0), (4, 0xE0), (5, 0xE0)] ++ wholeBytes 6 2 ++ wholeBytes 52 4)
    && hzInput (hzFa b) && hzInput (hzFw b) && hzOf b ≤ 4
    && 1 ≤ hzK b && hzK b ≤ 65536 && (!mx || hzK b % 32 == 0)
    && !([field b 16 8, field b 24 8, field b 32 8, field b 56 8].any tall) && (mx || field b 56 8 == 0)

/-- Flags of a layer's report are set, where there is a report and it can be reached; none while that must wait. -/
def flagReport (st level layer flag : Nat) (m : Module) : Option Module :=
  if m.haze.hazeOut = 0 then some m
  else
    let r := hazeReach m st level
    let a := m.haze.hazeOut.toNat + 128 * layer
    let put : Acc Unit := do
      let bs ← engineRead r a 128
      engineWrite r a (bs.take 86 ++ bytesOf 1 (byteAt bs 86 ||| flag) ++ bs.drop 87)
    match put.go m with
    | (.ok _, m) => some m
    | (.error s, _) => if s.waits then .none else some m

/-- The record of an offer and its layer's table entry, when the offer counts. -/
def readOffer (st t : Nat) (addr : Nat) : Acc (Option (List Byte × List Byte)) := do
  let m ← get
  let h := m.haze
  let th := threadAt m t
  let level := if th.priv.level = 0 then 0 else 1
  let r : Reach := { hazeReach m st level with ag := { asid := th.priv.asid, level := level, unit := handleStack st } }
  let b ← engineRead r addr 64
  if hzLayer b ≥ h.layers.toNat ∨ h.hazeTab = 0 then pure .none
  else
    let e ← engineRead (hazeReach m st level) (h.hazeTab.toNat + 8 * hzLayer b) 8
    pure (if hzOn e then some (b, e) else .none)

/-- An accepted offer: dropped while 64 samples wait, flagged when malformed, else queued as a module job; none while its
flag must wait. -/
def acceptOffer (st t : Nat) (b e : List Byte) (offers : BitVec 32) (m : Module) : Option Module :=
  let level := if (threadAt m t).priv.level = 0 then 0 else 1
  let waiting := ((stackAt m st).jobs.filter fun j => !j.started && (match j.kind with
    | some (.haze _ _ _) => true
    | _ => false)).length
  if !offerSound b then flagReport st level (hzLayer b) 4 m
  else if waiting ≥ 64 then (flagReport st level (hzLayer b) 2 m).map (edgeAll 246)
  else
    let j := newJob m st t 0
    let step := match taskRole m j with
      | some s => s
      | .none => 0
    some (queueModuleJob st
      { j with record := b ++ e, kind := some (.haze (hzLayer b) step offers), checked := true, total := 4 } m)

/-- A write of HZ_OFFER by a thread below machine level; false where it must wait, and nothing has happened. A malformed
record sets BAD when its offer is taken as a sample. DEDUCED (log 43). -/
def offer (t : Nat) (value : Word) (m : Module) : Bool × Module :=
  let st := 2 * (t / 96)
  if !m.haze.enabled then (true, m)
  else
    match (readOffer st t (64 * bitsOf value 47 6)).go m with
    | (.error s, m') => if s.waits then (false, s.asks m) else (true, m')
    | (.ok .none, m') => (true, m')
    | (.ok (some (b, e)), m') =>
      let n : BitVec 32 := Sparse.get 0 m'.haze.offers (hzLayer b)
      let m' := { m' with haze := { m'.haze with offers := Sparse.set m'.haze.offers (hzLayer b) (n + 1) } }
      if n.toNat % 2 ^ hzRate e = 0 then
        match acceptOffer st t b e (n + 1) m' with
        | some m' => (true, m')
        | .none => (false, m)
      else (true, m')

/-- A write of HZ_OFFER by anyone. -/
def hazeOffer (who : Option Nat) (value : Word) (m : Module) : Bool × Module :=
  match who with
  | .none => (true, m)
  | some t => if (threadAt m t).priv.level = 2 then (true, m) else offer t value m

/-- HZ_OFFER (R329): an offer that must wait is made again by the next such command. -/
def execHzOffer (who : Option Nat) (value : Word) (s : State) : Outcome State Fault Refusal :=
  onModule (fun m => if alive m then (hazeOffer who value m).2 else m) s

/-! ## Samples (R330, R331) -/

/-- An element of `w` bits at index `k` of a packed row (R154). -/
def packed (bs : List Byte) (w k : Nat) : Nat := (ofBytes bs >>> (w * k)) % 2 ^ w

/-- The exact values of a row with its block scales. -/
def hzRow (r : Reach) (code base k scales : Nat) : Acc (List Fp.Val) := do
  let w := codeWidth code
  let bs ← engineRead r base (ceilDiv (k * w) 8)
  let ss ← if Fp.isMx code then engineRead r scales (k / 32) else pure []
  let n := ofBytes bs
  pure ((List.range k).map fun i =>
    let v := Fp.decode (mxFmt code) ((n >>> (w * i)) % 2 ^ w)
    let s := if Fp.isMx code then byteAt ss (i / 32) else 127
    if s = 0xFF then .nan false else v.scale ((s : Int) - 127))

/-- The quotient of two exact finite values, rounded once; `b` is not zero. -/
def ratio32 (a b : Fp.Val) : Nat :=
  match a, b with
  | .num _ m e, .num _ n g =>
    if m = 0 then 0
    else
      let sh := 64 + Fp.bitLen n
      (Fp.roundMag Fp.fp32 Fp.nearest false ((m * 2 ^ sh) / n) (e - g - sh) ((m * 2 ^ sh) % n != 0)).1
  | _, _ => 0x7F800000

/-- The error of one output element (R330). -/
def elementError (gs : Nat) (x w : List Fp.Val) (o : Fp.Val) : Nat :=
  let p := (x.zip w).map fun q => (Fp.encodeVal Fp.fp32 Fp.nearest (Fp.mulVal q.1 q.2).1).1
  let sum := ((orderedSum (fun a b => Fp.add Fp.fp32 Fp.nearest a b) 16 (indexed p)).1).getD 0
  let ref := Fp.decode Fp.fp32 (Fp.mul32 gs sum)
  if o.nonFinite || ref.nonFinite then 0x7F800000
  else if ref.isZero then (if o.isZero then 0 else 0x7F800000)
  else Fp.absBits Fp.fp32 (ratio32 (Fp.addVal o ref.neg).1 ref)

/-- Bin of an error. -/
def errorBin (e : Nat) : Nat :=
  if e ≥ 0x3E800000 then 15
  else if e < 0x37800000 then 0
  else (Fp.log2Val (Fp.decode Fp.fp32 e) + 17).toNat

/-- The errors of a tile, row by row. -/
def tileErrors (j : Job) (r : Reach) : Acc (List Nat) := do
  let b := j.record
  let k := hzK b
  let blocks := k / 32
  let sa := field b 56 8
  let row (base i stride : Nat) : Nat := intLow 48 ((base : Int) + i * natSigned 32 stride)
  let mut ws : List (List Fp.Val) := []
  for n in List.range (hzN b) do
    let w ← hzRow r (hzFw b) (row (field b 24 8) n (field b 44 4)) k (sa + (hzM b + n) * blocks)
    ws := w :: ws
  let mut out : List Nat := []
  let ow := codeBytes (hzOf b)
  for i in List.range (hzM b) do
    let x ← hzRow r (hzFa b) (row (field b 16 8) i (field b 40 4)) k (sa + i * blocks)
    let os ← engineRead r (row (field b 32 8) i (field b 48 4)) (ow * hzN b)
    for p in (ws.reverse.zip (splitElems ow (hzN b) os)) do
      out := elementError (field b 12 4) x p.1 (Fp.decodeCode (hzOf b) p.2) :: out
  pure out.reverse

/-- A u32 count that saturates, with whether it did. -/
def satAdd (a n : Nat) : Nat × Bool := if a + n > maxU32 then (maxU32, true) else (a + n, false)

/-- The report of a layer after a sample (R331). -/
def newReport (old : List Byte) (errs : List Nat) (thresh : Nat) (offers : BitVec 32) (step : BitVec 48) : List Byte × Bool :=
  let hist := (List.range 16).map fun i => satAdd (field old (4 * i) 4) ((errs.filter fun e => errorBin e == i).length)
  let worst := errs.foldl Nat.max 0
  let above := Fp.lt32 thresh worst
  let tiles := satAdd (field old 68 4) 1
  let exceed := satAdd (field old 76 4) (if above then 1 else 0)
  let sat := hist.any (·.2) || tiles.2 || exceed.2
  ((hist.map fun h => bytesOf 4 h.1).flatten ++ bytesOf 4 (Nat.max (field old 64 4) worst) ++ bytesOf 4 tiles.1
      ++ bytesOf 4 offers.toNat ++ bytesOf 4 exceed.1 ++ bytesOf 6 step.toNat
      ++ bytesOf 1 ((byteAt old 86 ||| (if sat then 1 else 0)) % 8) ++ List.replicate 41 0, above)

/-- The sample: its tile is recomputed and its layer's report written wholly. -/
def sampleTile (j : Job) (layer : Nat) (step : BitVec 48) (offers : BitVec 32) (st : Nat) : Acc Bool := do
  let errs ← tileErrors j (j.reach st)
  let m ← get
  if m.haze.hazeOut = 0 then pure (Fp.lt32 (field j.record 68 4) (errs.foldl Nat.max 0))
  else
    let a := m.haze.hazeOut.toNat + 128 * layer
    let r := (j.reach st).tables m
    let old ← tableAccess m (engineRead r a 128)
    let new := newReport old errs (field j.record 68 4) offers step
    tableAccess m (engineWrite r a new.1)
    pure new.2

/-- A sample completes on its four engines (R329); one that has ended leaves without being counted. -/
def completeSample (st j : Nat) (m : Module) : Module :=
  let m := assignAll st m
  match jobAt m st j with
  | .none => m
  | some k =>
    match k.kind with
    | some (.haze layer step offers) =>
      if !stackRuns m st then m
      else if k.ending.isSome then dropJob st j m
      else if enginesOn (stackAt m st) j < 4 then m
      else
        match (sampleTile k layer step offers st).go m with
        | (.ok above, m) =>
          let m := dropJob st j m
          if above then edgeAll 245 m else m
        | (.error s, m') => chunkStop st k 0 0 s m (dropChunk st j 0 m')
    | _ => m

/-- HAZE_SAMPLE_COMPLETE (R331). -/
def execHazeSampleComplete (st j : Nat) (s : State) : Outcome State Fault Refusal := onModule (completeSample st j) s

/-! ## The scale commit (R233, R235) -/

/-- Largest finite value of a tensor's target format. -/
def targetMax (code : Nat) : Fp.Val := Fp.decode (mxFmt code) (Fp.maxFinite (mxFmt code))

/-- floor(log2(f / a)) of positive finite values. -/
def log2Ratio (f a : Fp.Val) : Int :=
  let d := Fp.log2Val f - Fp.log2Val a
  if Fp.ltVal f (a.scale d) then d - 1 else d

/-- An FP32 history entry that may be used: finite and not below zero. -/
def usableHistory (x : Nat) : Bool := Fp.finite32 x && !(natBit x 31 && natBits x 30 0 != 0)

def power32 (e : Int) : Nat := (e + 127).toNat * 2 ^ 23

/-- A scale record after the commit of step `s` with what its stack took. -/
def committedScale (b : List Byte) (p : Pend) (s : BitVec 48) : List Byte :=
  let h := byteAt b 72 % 32
  let fmt := byteAt b 73 % 16
  let st := byteAt b 76
  let bit (on : Bool) (i : Nat) (x : Nat) : Nat := if on then x ||| 2 ^ i else x
  if h > 16 || !([2, 3, 4, 7, 8, 9, 10, 11].contains fmt) then b.take 76 ++ bytesOf 1 (bit true 3 st) ++ b.drop 77
  else
    let hist := splitElems 4 16 b
    let hist := if p.v then p.p.toNat :: hist.take 15 else hist
    let fill := if p.v then Nat.min (byteAt b 75 + 1) 16 else byteAt b 75
    let range := hist.take (Nat.min h fill)
    let win := range.filter usableHistory
    let a := (win.map (Fp.absBits Fp.fp32)).foldl Nat.max 0
    let e : Int := if a = 0 then 0 else log2Ratio (targetMax fmt) (Fp.decode Fp.fp32 a) - natSigned 8 (byteAt b 74)
    let clamp := decide (e > 126) || decide (e < -126)
    let e := min (max e (-126)) 126
    let st := if p.v then st &&& 0xFD else st ||| 2
    let st := bit (win.length < range.length) 4 (bit clamp 2 (bit p.nonfin 0 st))
    joinElems 4 hist ++ bytesOf 4 (power32 e) ++ bytesOf 4 (power32 (-e)) ++ (b.drop 72).take 3 ++ bytesOf 1 fill
      ++ bytesOf 1 st ++ (b.drop 77).take 3 ++ bytesOf 6 s.toNat ++ b.drop 86

/-- The record of tensor `t` is read and written for the commit. DEDUCED (log 44). -/
def commitTensor (t : Nat) (p : Pend) (s : BitVec 48) : Acc Unit := do
  let m ← get
  let r := hazeReach m (tensorStack t) 1
  let a := m.haze.scaleBase.toNat + 128 * t
  let b ← engineRead r a 128
  if byteAt b 72 % 32 = 0 then pure () else engineWrite r a (committedScale b p s)

/-- The bank of a commit goes on to the next tensor. -/
def nextTensor (step : BitVec 48) (m : Module) : Module :=
  let b := stepBank m step
  setBank step { b with tensor := b.tensor + 1 } m

/-- The module job of a tensor's scale record, which its stack runs on an engine (R291). -/
def commitJob (m : Module) (st b t : Nat) : Option Job :=
  (stackAt m st).jobs.find? fun j => j.kind == some (.commit b t)

/-- That job is queued, unless it is. -/
def queueCommit (st b t : Nat) (entry : BitVec 32 × Nat) (m : Module) : Module :=
  if (commitJob m st b t).isSome then assignAll st m
  else queueModuleJob st
    { id := (stackAt m st).nextId, thread := 0xFFFF, task := 0, asid := m.haze.asid, tag := entry.1, ring := entry.2
      level := 1, kind := some (.commit b t), checked := true, total := 1 } m

/-- Tensors from the bank's next one on, until one must wait or all are done; a gated stack's wait for it (R411). -/
def commitTensors : Nat → BitVec 48 → (BitVec 32 × Nat) → Module → Module
  | 0, _, _, m => m
  | fuel + 1, step, entry, m =>
    let b := stepBank m step
    let t := b.tensor
    let st := tensorStack t
    if t ≥ 4096 then m
    else if m.haze.scaleBase = 0 || !stackPresent m.board.part st then commitTensors fuel step entry (nextTensor step m)
    else if !stackRuns m st then m
    else
      let k := pendKey (bankIndex step) t
      let m := queueCommit st (bankIndex step) t entry m
      match commitJob m st (bankIndex step) t with
      | .none => m
      | some j =>
        if enginesOn (stackAt m st) j.id = 0 then m
        else
          match (commitTensor t (Sparse.get {} (stackAt m st).took k) step).go m with
          | (.ok _, m) => commitTensors fuel step entry (nextTensor step (dropJob st j.id m))
          | (.error (.poison _ pa), m') =>
            commitTensors fuel step entry
              (nextTensor step (raiseError 3 0x23 (handleStack st) pa 0 (dropJob st j.id m')))
          | (.error (.fault kind access va), m') =>
            raiseFault (.scale st k)
              { kind := kind, access := access, asid := m.haze.asid, unit := handleStack st, tag := entry.1.toNat
                ring := entry.2, element := t, vaddr := va } (dropJob st j.id m')
          | (.error s, _) => s.asks m

/-- An admitted update of a step still runs. -/
def updateRuns (m : Module) (step : BitVec 48) : Bool :=
  m.hg.pool.any fun e => updateStep e == step && match e.work with
    | .update _ => true
    | _ => false

/-- A record of the commit waits for the host. -/
def scaleSuspended (m : Module) (b : Nat) : Bool :=
  m.faults.suspended.any fun s => match s.owner with
    | .scale _ k => k / 4096 == b
    | _ => false

/-- Updates of a committed step that are still in the pool are late (R356). -/
def retireLate (step : BitVec 48) (m : Module) : Module :=
  let late := (m.hg.pool.filter fun e =>
    opcodeOf e == 3 && e.stage == .waiting && e.checked && updateStep e == step).map (·.id)
  late.foldl (fun m p =>
    match entryAt m p with
    | some e => count .update 0 5 1 (completeEntry e 0x43 48 0 0 m)
    | .none => m) m

/-- The commit ends: counter, bank, token and source (R322). -/
def endCommit (step : BitVec 48) (m : Module) : Module :=
  let b := bankIndex step
  let m := { m with
    gate := { m.gate with stepCount := step + 1, commits := m.gate.commits.filter fun c => c.1 != step }
    basins := m.basins.map fun k => (k.1, { k.2 with took := otherEntries b k.2.took }) }
  let m := setBank step { stepBank m step with state := .idle, tensor := 0 } m
  let m := match m.haze.ctoken with
    | some t => setToken t.toNat m
    | .none => m
  retireLate step (edgeAll 243 m)

/-- The commit of bank `b` goes as far as it can. -/
def commitBank (b : Nat) (m : Module) : Module :=
  let k := bankAt m.gate b
  match m.gate.commits.find? (fun c => c.1 == k.step) with
  | .none => m
  | some c =>
    if k.state ≠ .opened ∨ updateRuns m k.step ∨ scaleSuspended m b then m
    else
      let m := commitTensors 4097 k.step c.2 m
      if (bankAt m.gate b).tensor ≥ 4096 then endCommit k.step m else m

/-- GATE_COMMIT (R322). -/
def execGateCommit (b : Nat) (s : State) : Outcome State Fault Refusal :=
  onModule (fun m => if working m then commitBank (b % 2) m else m) s

end Sys2Proof.Machine
end

