-- ==== Sys2Proof/Machine/Headgate.lean ====
section
/-! DEFINITION. The Headgate: admission and retirement of tasks, the stall and the reservation, and the phases of a cycle
(R83-R98), with the casts of R316 and the waits of R311. -/

namespace Sys2Proof.Machine

open Host

/-! ## Admission (R85, R92) -/

/-- Tile storage and flags a grant covers are cleared (R92, R208). -/
def clearTiles (grant t : Nat) (k : Core) : Core :=
  if grant = 1 then { k with wt := [], act := [], accum := [], tflags := 0 }
  else if grant = 2 then
    let h := t % 2
    let half : BitVec 1024 := BitVec.ofNat 1024 ((2 ^ 512 - 1) * 2 ^ (512 * h))
    { k with
      wt := k.wt.filter fun r => r.1 % 32 / 16 != h
      act := k.act.filter fun r => r.1 % 256 / 128 != h
      accum := k.accum.map fun r => (r.1, r.2 &&& ~~~half)
      tflags := k.tflags &&& ~~~(BitVec.ofNat 32 (if h = 0 then 0x0F0F0F0F else 0xF0F0F0F0)) }
  else k

/-- Stack pointer of thread `i` of a task. -/
def stackTop (e : Entry) (i : Nat) : Nat :=
  if stackLog e = 0 then 0 else field e.bytes 32 8 + (i + 1) * 2 ^ stackLog e

/-- Bounds of the data stack of thread `i` of a task (R115). -/
def stackBound (e : Entry) (i : Nat) : BitVec 48 :=
  if stackLog e = 0 then 0 else BitVec.ofNat 48 (field e.bytes 32 8 + i * 2 ^ stackLog e)

/-- General registers at the start of thread `i`. -/
def startRegs (e : Entry) (i : Nat) : Sparse Word :=
  let w (n : Nat) : Word := BitVec.ofNat 64 n
  [(1, w (field e.bytes 24 8)), (2, w i), (3, w (widthOf e)), (4, w (tagOf e)), (31, w (stackTop e i))]

/-- A thread as a task's admission leaves it (R92): held registers and lane generators stay. -/
def startThread (m : Module) (e : Entry) (i t : Nat) : Thread :=
  let base := stopThread (threadAt m t)
  let grant := BitVec.ofNat 2 (arraysOf e)
  { base with
    run := .running, task := e.id, index := i, pc := BitVec.ofNat 48 (field e.bytes 16 8), g := startRegs e i
    sblo := stackBound e i, sbhi := stackBound e (i + 1)
    priv := { base.priv with level := BitVec.ofNat 2 (levelOf e), asid := asidOf e }
    vec := { precise := preciseMode e, ref := refMode e || m.gate.force }
    tile := { grant := grant, lease := grant } }

/-- Thread `t` begins; a vector unit that no other thread of the core uses is powered down. DEDUCED (log 30). -/
def beginThread (e : Entry) (m : Module) (it : Nat × Nat) : Module :=
  let t := it.2
  let k := coreAt m (t / 2)
  let alone := (threadAt m (if t % 2 = 0 then t + 1 else t - 1)).run = .idle
  let k := if alone then { k with vecUp := false, waking := false } else k
  setThread t (startThread m e it.1 t) (setCore (t / 2) (clearTiles (arraysOf e) t k) m)

/-- INV_START: the L1s of the receiving cores are written back and invalidated (R92, R253). -/
def startClean : List Nat → Acc Unit
  | [] => pure ()
  | t :: ts => do
    l1Clean t (fun _ => true) true
    modify (dropFetched (t / 2))
    startClean ts

/-- Consume an entry's CONSUME inputs. -/
def consumeInputs (e : Entry) (m : Module) : Module := (consumeTokens e).foldl (fun m t => clearToken t m) m

/-- A task is admitted on the threads given. -/
def admitTask (e : Entry) (threads : List Nat) (m : Module) : Module :=
  let m := dropReservation e.id (consumeInputs e m)
  let m := admitEntry e (.task { threads := threads, admitted := m.time }) m
  let m := count .hg 0 0 1 { m with hg := { m.hg with tookTask := true } }
  (threads.zipIdx.map fun p => (p.2, p.1)).foldl (beginThread e) m

/-- Whether a task is ready: it has passed its checks, or passes them now. -/
def admissible (m : Module) (e : Entry) : Bool :=
  opcodeOf e == 1 && unadmitted e && (failureOf m e).isNone && ready m e

/-- Task `p` with its threads, when the scan would admit it now: it is ready and can be placed, and nothing is to be
admitted before it (R83, R85, R89). -/
def placedTask (m : Module) (p : Nat) : Option (Entry × List Nat) :=
  match entryAt m p with
  | some e => if opcodeOf e == 1 && candidate m e && itsTurn m e then (placement m e).map fun l => (e, l) else .none
  | .none => .none

/-- The scan runs: the Headgate works, and Squall does not hold it (R436). -/
def scanning (m : Module) : Bool := working m && m.squall.skip == 0

/-- The admission of task `p`, when the scan finds it; a write-back that INV_START needs may have to wait. -/
def scanAdmit (p : Nat) (m : Module) : Module :=
  match placedTask m p with
  | .none => m
  | some (e, l) =>
    if invStart e then
      match (startClean l).go m with
      | (.ok _, m) => admitTask e l m
      | (.error _, _) => setEntry { e with held := true } m
    else admitTask e l m

/-- TASK_ADMIT (R90). -/
def execTaskAdmit (p : Nat) (s : State) : Outcome State Fault Refusal :=
  onModule (fun m => if scanning m then scanAdmit p m else m) s

/-! ## Retirement (R93, R94, R313) -/

/-- Every thread has finished or stopped, and what they wrote is coherent. -/
def taskDue (m : Module) (r : TaskRun) : Bool :=
  r.threads.all fun t => (r.finished.contains t || r.stopped.contains t) && workDone m t

/-- Whether the task ends by its own threads. -/
def endsItself (r : TaskRun) : Bool :=
  match r.ending with
  | .none => true
  | some x => x.status == 0x10 && r.stopped.isEmpty

/-- The record of a task. One that FR_RESUME kills and that a live abort counts as a target has OUTCOME 1, as R60 has it for
a target that ends by itself, where R66 names 0. DESIGN CHOICE (log 33). -/
def taskClosing (m : Module) (e : Entry) (r : TaskRun) : Closing :=
  if endsItself r then
    { status := 0, outcome := ownOutcome e, count0 := r.threads.length
      count2 := if r.threads.isEmpty then 0 else (m.time - r.admitted).toNat }
  else
    match r.ending with
    | some x =>
      if x.status = 0x10 then
        { status := 0x10, outcome := 3, count0 := r.finished.length, count1 := r.stopped.length }
      else { status := x.status.toNat, outcome := ownOutcome e, count0 := x.count0, count1 := x.count1 }
    | .none => { status := 0 }

/-- The events of a task that wait are withdrawn. -/
def dropTaskEvents (p : Nat) (m : Module) : Module :=
  { m with gate := { m.gate with waiting := m.gate.waiting.filter fun w =>
    match w with
    | .opening q _ | .cast q _ => q != p
    | _ => true } }

/-- A task retires: its threads free their slots, its tokens are set, and its record is written. HG_STAT 1 counts tasks
that were admitted, whatever their status. DEDUCED (log 33). -/
def finishTask (e : Entry) (r : TaskRun) (m : Module) : Module :=
  let o := taskClosing m e r
  let m := r.threads.foldl (fun m t => setThread t (stopThread (threadAt m t)) m) (dropTaskEvents e.id m)
  let m := if endsItself r then setTokens (validTokens (outWords e)) m else m
  count .hg 0 1 1 (retireEntryWith e o m)

/-- The open or cast that the retirement of a task is; false where the retirement must wait (R311, R316). -/
def retirementEvent (e : Entry) (r : TaskRun) (m : Module) : Bool × Module :=
  let step := taskStep e
  if !endsItself r then (true, m)
  else if gateRole e = 1 then gateEvent step (applyOpen step) (.opening e.id step) m
  else if gateRole e = 3 then
    if castWaits m step then (false, m) else gateEvent step (applyCast step) (.cast e.id step) m
  else (true, m)

/-- A task whose threads are done retires, unless its gate event waits. The event may retire updates that stood
in the pool, so the entry is read again. -/
def retireTask (p : Nat) (m : Module) : Module :=
  match entryAt m p with
  | .none => m
  | some e =>
    match e.work with
    | .task r =>
      if !taskDue m r || !working m then m
      else
        let x := retirementEvent e r m
        if x.1 then finishTask ((entryAt x.2 p).getD e) r x.2 else x.2
    | _ => m

/-- TASK_RETIRE (R93). -/
def execTaskRetire (p : Nat) (s : State) : Outcome State Fault Refusal := onModule (retireTask p) s

/-- CAST (R316): the retirement of a task with GATE 3. -/
def execCast (p : Nat) (s : State) : Outcome State Fault Refusal :=
  onModule (fun m =>
    match entryAt m p with
    | some e => if opcodeOf e == 1 && gateRole e == 3 then retireTask p m else m
    | .none => m) s

/-! ## Gate events that waited (R311) -/

def waitEnds (m : Module) (e : GateEvent) : Bool :=
  let free (step : BitVec 48) : Bool := fateOf (stepBank m step) step != .wait
  match e with
  | .opening _ step | .cast _ step | .fold _ step _ _ => free step
  | .child _ v => free v.step

/-- GATE_EVENT_WAIT_END (R311). -/
def execGateEventWaitEnd (k : Nat) (s : State) : Outcome State Fault Refusal :=
  onModule (fun m =>
    match m.gate.waiting[k]? with
    | .none => m
    | some e =>
      if !alive m || !waitEnds m e then m
      else
        let m := { m with gate := { m.gate with waiting := m.gate.waiting.eraseIdx k } }
        match e with
        | .opening p _ | .cast p _ => retireTask p m
        | .fold t step nonfin layer =>
          completeAperture t (gateEvent step (applyFold step nonfin layer) e m).2
        | .child c v => (gateEvent v.step (applyChild v.step c v) e m).2) s

/-! ## Stall and reservation (R97, R98) -/

/-- HEADGATE_STALL (R97). -/
def execHeadgateStall (s : State) : Outcome State Fault Refusal :=
  onModule (fun m =>
    let h := m.hg
    if working m && h.stall != 0 && h.pool.length ≥ poolSize && h.stuck ≥ 1024 * h.stall.toNat then
      signalRingError (count .hg 0 5 1 { m with hg := { h with stallSeen := true, stuck := 0 } })
    else m) s

/-- The first ready task in admission order. -/
def firstReady (m : Module) : Option Entry := (admissionOrder m).find? (admissible m)

/-- RESERVATION (R98). -/
def execReservation (s : State) : Outcome State Fault Refusal :=
  onModule (fun m =>
    match firstReady m with
    | .none => m
    | some e =>
      if working m && m.hg.rsv.isNone && m.hg.reserve != 0 && e.ready ≥ 16 * m.hg.reserve.toNat then
        count .hg 0 3 1 { m with hg := { m.hg with
          rsv := some { ring := e.ring, index := e.index, handle := placeOf e, entry := e.id } } }
      else m) s

/-! ## One Headgate cycle (R83) -/

/-- Ids of the entries for which `f` holds, in pool order. -/
def idsWhere (m : Module) (f : Entry → Bool) : List Nat := (m.hg.pool.filter f).map (·.id)

/-- What ends now retires in phase 1 of the next cycle, or at once. -/
def setScan (on : Bool) (m : Module) : Module := { m with hg := { m.hg with scan := on } }

/-- Phase 2: the abort points of the aborts decoded now. -/
def phaseAbort (m : Module) : Module :=
  setScan false ((idsWhere m fun e => opcodeOf e == 5 && e.stage == .waiting).foldl
    (fun m p => onDescriptor p (· == 5) abortPoint m) (setScan true m))

/-- The first of each ring in a list. -/
def firstOfRing : List Entry → List Nat → List Nat
  | [], _ => []
  | e :: es, seen => if seen.contains e.ring then firstOfRing es seen else e.id :: firstOfRing es (e.ring :: seen)

/-- Phase 3: token descriptors, at most one per ring, in admission order, and those that fail their checks (R86). -/
def phaseTokens (m : Module) : Module :=
  let l := (admissionOrder m).filter fun e => opcodeOf e == 4 && e.stage == .waiting && fenceOpen m e
  let acting := firstOfRing (l.filter (tokenActs m)) []
  (l.filter fun e => !tokenActs m e || acting.contains e.id).foldl (fun m e =>
    onDescriptor e.id (· == 4) (actTokens (byteAt e.bytes 12 == 1)) m) m

/-- Whether a waiting update's step has been refused (R321). -/
def refusedUpdate (m : Module) (e : Entry) : Bool :=
  opcodeOf e == 3 && e.stage == .waiting && (stepBank m (updateStep e)).state == .refused
    && (stepBank m (updateStep e)).step == updateStep e && (failureOf m e).isNone

/-- The checks of an entry of the pool, made once and, where it is fenced, when its fence is satisfied. Token descriptors
and aborts are checked as they are decoded (R60, R86). DEDUCED (log 31). -/
def checkEntry (m : Module) (p : Nat) : Module :=
  match entryAt m p with
  | .none => m
  | some e =>
    if e.stage ≠ .waiting ∨ e.checked ∨ opcodeOf e = 4 ∨ opcodeOf e = 5 then m
    else if refusedUpdate m e then
      count .update 0 4 1 (completeEntry e 0x20 (stepBank m (updateStep e)).report.reason.toNat 0 0 m)
    else if !fenceOpen m e then m
    else
      match descriptorCheck m e with
      | some f => failDescriptor e f m
      | .none => setEntry { e with checked := true } m

/-- Phase 5: a fetched descriptor enters the pool. -/
def enterPool (m : Module) (p : Nat) : Module :=
  match entryAt m p with
  | .none => m
  | some e => if e.stage = .fetched then checkEntry (setEntry { e with stage := .waiting } m) p else m

def phaseEnter (m : Module) : Module := (idsWhere m fun e => e.stage == .fetched).foldl enterPool m

/-- Cycles a ready task has gone unplaced, and those the pool has stood full and still (R97, R98). -/
def countCycle (m : Module) : Module :=
  let m := setPool (m.hg.pool.map fun e =>
    if admissible m e then { e with ready := e.ready + 1 } else { e with ready := 0 }) m
  let full := m.hg.pool.length ≥ poolSize
  let stuck := if full && !m.hg.moved then m.hg.stuck + 1 else 0
  let m := { m with hg := { m.hg with stuck := stuck, moved := false, actedRings := [], tookTask := false } }
  if full then count .hg 0 4 1 m else m

/-- Squall may hold the admission scan back (R435, R436). DESIGN CHOICE (log 61). -/
def squallSkip (m : Module) : Module :=
  if m.squall.skip > 0 then { m with squall := { m.squall with skip := m.squall.skip - 1 } }
  else if knob m 4 then
    let r := m.squall.gen.step
    let m := { m with squall := { m.squall with gen := r.1 } }
    if bitsOf r.2 63 56 < squallByte m 51 1 then
      count .squall 0 4 1
        { m with squall := { m.squall with skip := bitsOf r.2 55 40 % (squallByte m 52 2 % 1024) + 1 } }
    else m
  else m

end Sys2Proof.Machine
end

