-- ==== Sys2Proof/Machine/Update.lean ====
section
/-! DEFINITION. Parameter update (R335-R356): admission, the parameter record, the four rules, and retirement. -/

namespace Sys2Proof.Machine

open Host

/-! ## The parameter record (R340, R341) -/

/-- A layer update as it runs: its descriptor and its parameter record. -/
structure UpdateJob where
  e : Entry
  par : List Byte
  deriving DecidableEq, Repr

def UpdateJob.rule (u : UpdateJob) : Nat := ruleOf u.e
def UpdateJob.bc1 (u : UpdateJob) : Bool := natBit (byteAt u.e.bytes 10) 2
def UpdateJob.bc2 (u : UpdateJob) : Bool := natBit (byteAt u.e.bytes 10) 3
def UpdateJob.engines (u : UpdateJob) : Nat := byteAt u.e.bytes 11 / 8 + 1
def UpdateJob.lr (u : UpdateJob) : Nat := field u.e.bytes 12 4
def UpdateJob.addr (u : UpdateJob) (off : Nat) : Nat := field u.par off 8
def UpdateJob.rows (u : UpdateJob) : Nat := field u.par 48 4
def UpdateJob.cols (u : UpdateJob) : Nat := field u.par 52 4
def UpdateJob.elems (u : UpdateJob) : Nat := u.rows * u.cols
def UpdateJob.beta1 (u : UpdateJob) : Nat := field u.par 56 4
def UpdateJob.beta2 (u : UpdateJob) : Nat := field u.par 60 4
def UpdateJob.eps (u : UpdateJob) : Nat := field u.par 64 4
def UpdateJob.wd (u : UpdateJob) : Nat := field u.par 68 4
def UpdateJob.bcBase (u : UpdateJob) : Nat := field u.par 72 6
def UpdateJob.gfmt (u : UpdateJob) : Nat := byteAt u.par 78 % 16
def UpdateJob.chunks (u : UpdateJob) : Nat := ceilDiv u.elems 4096

/-- Arrays a rule uses: offset of the address in the record, and bytes. -/
def UpdateJob.arrays (u : UpdateJob) : List (Nat × Nat) :=
  [(0, 2 * u.elems), (8, 2 * u.elems), (16, codeBytes u.gfmt * u.elems), (24, 4 * u.elems)]
    ++ (if u.rule = 1 then [(32, 4 * u.elems)]
        else if u.rule = 2 then [(32, 4 * u.rows), (40, 4 * u.cols)] else [])

/-- A factor in [0, 1). -/
def UpdateJob.unit (x : Nat) : Bool := Fp.lt32 x Fp.one32 && !(natBit x 31 && natBits x 30 0 != 0)

/-- A finite value not below zero; -0 is accepted. -/
def UpdateJob.plain (x : Nat) : Bool := !negativeOrWild x

/-- Whether the array at an offset meets another array or the record. -/
def UpdateJob.meetsOther (u : UpdateJob) (off : Nat) : Bool :=
  let all := (u.arrays.map fun a => (a.1, u.addr a.1, a.2)) ++ [(128, field u.e.bytes 16 8, 128)]
  match all.find? fun a => a.1 == off with
  | some a => all.any fun b => b.1 != off && meets a.2.1 a.2.2 b.2.1 b.2.2
  | .none => false

/-- Offsets of the fields that break a rule of R341. DEDUCED (log 45). -/
def UpdateJob.failures (u : UpdateJob) : List Nat :=
  let used := u.arrays.map (·.1)
  let sized := u.elems ≤ 2 ^ 31
  ([0, 8, 16, 24, 32, 40].map fun off =>
      failing (if used.contains off then
          u.addr off == 0 || u.addr off % 128 != 0 || tall (u.addr off) || (sized && u.meetsOther off)
        else u.addr off != 0) off).flatten
    ++ failing (u.rows == 0 || !sized || (u.rule == 2 && u.rows < 2)) 48
    ++ failing (u.cols == 0 || (u.rule == 2 && u.cols < 2)) 52
    ++ failing (!UpdateJob.unit u.beta1) 56 ++ failing (u.rule != 0 && !UpdateJob.unit u.beta2) 60
    ++ failing ((u.rule == 1 || u.rule == 2) && (!UpdateJob.plain u.eps || natBits u.eps 30 0 == 0)) 64
    ++ failing (!UpdateJob.plain u.wd) 68
    ++ failing ((u.bc1 || u.bc2) && (u.bcBase == 0 || u.bcBase > (updateStep u.e).toNat)) 72
    ++ failing (u.gfmt > 1) 78

/-! ## Arithmetic (R343-R349) -/

/-- pw of R345, over bits `n - 1` down to 0 of `t`. -/
def powLoop (b t : Nat) : Nat → Nat → Nat
  | 0, r => r
  | n + 1, r =>
    let r := Fp.mul32 r r
    powLoop b t n (if natBit t n then Fp.mul32 r b else r)

def pw (b t : Nat) : Nat := powLoop b t 48 Fp.one32

/-- What every element of an update shares (R344). -/
structure Shared where
  rule : Nat
  gs : Nat
  lr : Nat
  wd : Nat
  beta1 : Nat
  beta2 : Nat
  eps : Nat
  c1 : Nat
  c2 : Nat
  bc1 : Nat
  bc2 : Nat
  deriving DecidableEq, Repr

def sharedOf (u : UpdateJob) (gs : Nat) : Shared :=
  let t := (updateStep u.e).toNat - u.bcBase + 1
  let corr (on : Bool) (b : Nat) : Nat := if on then Fp.sub32 Fp.one32 (pw b t) else Fp.one32
  { rule := u.rule, gs := gs, lr := u.lr, wd := u.wd, beta1 := u.beta1, beta2 := u.beta2, eps := u.eps
    c1 := Fp.sub32 Fp.one32 u.beta1, c2 := Fp.sub32 Fp.one32 u.beta2
    bc1 := corr u.bc1 u.beta1, bc2 := corr u.bc2 u.beta2 }

/-- beta * a + c * b. -/
def blend (beta a c b : Nat) : Nat := Fp.add32 (Fp.mul32 beta a) (Fp.mul32 c b)

/-- (m / bc1) / (sqrt v + eps). -/
def adaptive (k : Shared) (m v : Nat) : Nat := Fp.div32 (Fp.div32 m k.bc1) (Fp.add32 (Fp.sqrt32 v) k.eps)

/-- Direction and new moments of an element (R346-R349): gradient, first moment, and the second moment of rule 1
or vh of rule 2. -/
def ruleStep (k : Shared) (g m v : Nat) : Nat × Nat × Nat :=
  match k.rule with
  | 0 =>
    let m' := Fp.add32 (Fp.mul32 k.beta1 m) g
    (m', m', 0)
  | 1 =>
    let m' := blend k.beta1 m k.c1 g
    let v' := blend k.beta2 v k.c2 (Fp.mul32 g g)
    (adaptive k m' (Fp.div32 v' k.bc2), m', v')
  | 2 =>
    let m' := blend k.beta1 m k.c1 g
    (adaptive k m' v, m', 0)
  | _ =>
    let s := blend k.beta1 m k.c1 g
    let u := if Fp.lt32 0 s then Fp.one32 else if Fp.lt32 s 0 then 0xBF800000 else 0
    (u, blend k.beta2 m k.c2 g, 0)

/-- The frame of R344 on one element: master, first and second moment, or none where it is held. -/
def stepElem (k : Shared) (g w m v : Nat) : Option (Nat × Nat × Nat) :=
  let r := ruleStep k g m v
  let d := Fp.add32 r.1 (Fp.mul32 k.wd w)
  let w' := Fp.sub32 w (Fp.mul32 k.lr d)
  if Fp.finite32 w' && Fp.finite32 r.2.1 && Fp.finite32 r.2.2 then some (w', r.2.1, r.2.2) else .none

/-- A sum of R164 with p = 16 in nearest-even FP32. -/
def sum32 (xs : List Nat) : Nat := ((orderedSum (fun a b => Fp.add Fp.fp32 Fp.nearest a b) 16 (indexed xs)).1).getD 0

/-- Every `n`-th element from `i`. -/
def column (xs : List Nat) (rows cols i : Nat) : List Nat := (List.range rows).map fun r => xs.getD (cols * r + i) 0

/-- Pass 1 of rule 2 (R348): the new row and column statistics, or none where a value is not finite. -/
def newStats (k : Shared) (rows cols : Nat) (q v c : List Nat) : Option (List Nat × List Nat) :=
  let rs := (List.range rows).map fun r => sum32 ((q.drop (cols * r)).take cols)
  let cs := (List.range cols).map fun i => sum32 (column q rows cols i)
  let vr := (v.zip rs).map fun p => blend k.beta2 p.1 k.c2 (Fp.div32 p.2 (Fp.ofNat32 cols))
  let vc := (c.zip cs).map fun p => blend k.beta2 p.1 k.c2 (Fp.div32 p.2 (Fp.ofNat32 rows))
  let mr := Fp.div32 (sum32 vr) (Fp.ofNat32 rows)
  if (mr :: vr ++ vc).all Fp.finite32 then some (vr, vc) else .none

/-- vh of an element of rule 2. -/
def factored (k : Shared) (mr vr vc : Nat) : Nat :=
  if natBits mr 30 0 = 0 then 0 else Fp.div32 (Fp.div32 (Fp.mul32 vr vc) mr) k.bc2

/-! ## Reaching the arrays (R342, R350) -/

/-- How an update's engines reach memory; its job is `j`, and `pages` is what its translation pass has found. -/
def updateReach (e : Entry) (j : Nat) (pages : Sparse Nat) : Reach :=
  let st := updateStack e
  { ag := { asid := asidOf e, level := 1, unit := handleStack st }, st := st, job := j, direct := true, pages := pages }

/-- Address of the GSCALE word; 0 where the gradient scale is 1.0. -/
def scaleAddress (e : Entry) : Nat := field e.bytes 24 8

/-- The gradient scale: FP32 at GSCALE, or 1.0. -/
def gradScale (e : Entry) (r : Reach) : Acc Nat := do
  if scaleAddress e = 0 then pure Fp.one32
  else
    let bs ← engineRead r (scaleAddress e) 4
    pure (ofBytes bs)

/-- Every page of a range is translated for reads, and for writes where it is written: pages and where they lie. -/
def probeRange (r : Reach) (writes : Bool) (va n : Nat) : Acc (Sparse Nat) := do
  let mut out : Sparse Nat := []
  for i in List.range (if n = 0 then 0 else (va + n - 1) / 4096 - va / 4096 + 1) do
    let a := if i = 0 then va else (va / 4096 + i) * 4096
    let pa ← engineAt r .read a
    let _ ← if writes then engineAt r .write a else pure pa
    out := Sparse.set out (va / 4096 + i) (pa / 4096)
  pure out

/-- Every page of the arrays and of the GSCALE word is translated. -/
def probeArrays (u : UpdateJob) (r : Reach) : Acc (Sparse Nat) := do
  let mut out : Sparse Nat := []
  for a in u.arrays do
    let l ← probeRange r (a.1 != 16) (u.addr a.1) a.2
    out := l.foldl (fun s p => Sparse.set s p.1 p.2) out
  let l ← probeRange r false (scaleAddress u.e) (if scaleAddress u.e = 0 then 0 else 4)
  pure (l.foldl (fun s p => Sparse.set s p.1 p.2) out)

/-- The own-stack lines of every array, and that of the GSCALE word, are region-cleaned. -/
def cleanArrays (u : UpdateJob) (r : Reach) : Acc Unit := do
  for a in u.arrays do
    engineClean r .read (u.addr a.1) a.2
  if scaleAddress u.e = 0 then pure () else engineClean r .read (scaleAddress u.e) 4

/-- Elements `i .. i + n - 1` of `w` bytes of the array at a record offset. -/
def readArray (u : UpdateJob) (r : Reach) (off w i n : Nat) : Acc (List Nat) := do
  let bs ← engineRead r (u.addr off + w * i) (w * n)
  pure (splitElems w n bs)

/-- The gradients of a run of elements, scaled. -/
def readGrads (u : UpdateJob) (r : Reach) (gs i n : Nat) : Acc (List Nat) := do
  let g ← readArray u r 16 (codeBytes u.gfmt) i n
  pure (g.map fun x => Fp.mul32 gs (widen u.gfmt x))

/-- Pass 1 of rule 2. -/
def firstPass (u : UpdateJob) (gs : Nat) (r : Reach) : Acc (Option (List Nat × List Nat)) := do
  let g ← readGrads u r gs 0 u.elems
  let v ← readArray u r 32 4 0 u.rows
  let c ← readArray u r 40 4 0 u.cols
  pure (newStats (sharedOf u gs) u.rows u.cols (g.map fun x => Fp.mul32 x x) v c)

/-- The second value an element's rule reads: its second moment, or vh from the new statistics. -/
def secondValues (u : UpdateJob) (k : Shared) (stats : Sparse (BitVec 32 × BitVec 32)) (r : Reach) (i n : Nat) :
    Acc (List Nat) := do
  if u.rule = 1 then readArray u r 32 4 i n
  else if u.rule = 2 then
    let stat (x : Nat) : BitVec 32 × BitVec 32 := Sparse.get (0, 0) stats x
    let mr := Fp.div32 (sum32 ((List.range u.rows).map fun x => (stat x).1.toNat)) (Fp.ofNat32 u.rows)
    pure ((List.range n).map fun x =>
      factored k mr (stat ((i + x) / u.cols)).1.toNat (stat ((i + x) % u.cols)).2.toNat)
  else pure (List.replicate n 0)

/-- One chunk of the writing pass: how many elements were updated, and how many held. -/
def updateChunk (u : UpdateJob) (gs : Nat) (stats : Sparse (BitVec 32 × BitVec 32)) (c : Nat) (r : Reach) :
    Acc (Nat × Nat) := do
  let i := 4096 * c
  let n := Nat.min 4096 (u.elems - i)
  let k := sharedOf u gs
  let g ← readGrads u r gs i n
  let hi ← readArray u r 0 2 i n
  let lo ← readArray u r 8 2 i n
  let ms ← readArray u r 24 4 i n
  let vs ← secondValues u k stats r i n
  let w := (hi.zip lo).map fun p => p.1 * 65536 + p.2
  let old := w.zip (ms.zip vs)
  let new := (g.zip old).map fun p => stepElem k p.1 p.2.1 p.2.2.1 p.2.2.2
  let kept := (new.zip old).map fun p => p.1.getD p.2
  let done := (new.filter (·.isSome)).length
  if done = 0 then pure ()
  else
    engineWrite r (u.addr 0 + 2 * i) (joinElems 2 (kept.map fun x => x.1 / 65536))
    engineWrite r (u.addr 8 + 2 * i) (joinElems 2 (kept.map fun x => x.1 % 65536))
    engineWrite r (u.addr 24 + 4 * i) (joinElems 4 (kept.map fun x => x.2.1))
    if u.rule = 1 then engineWrite r (u.addr 32 + 4 * i) (joinElems 4 (kept.map fun x => x.2.2)) else pure ()
  pure (done, n - done)

/-! ## Retirement (R339, R353, R355) -/

/-- An update retires with a status and counts; its output tokens are set where the status allows (R339). -/
def retireUpdate (e : Entry) (o : Closing) (m : Module) : Module :=
  let outcome := ownOutcome e
  let m := if o.status = 0 ∨ o.status = 1 ∨ o.status = 0x21 then setTokens (validTokens (outWords e)) m else m
  endEntry e { o with outcome := outcome } (forgetFaults (· == .entry e.id) m)

/-- FREEZE, or the layer's bit of the freeze table (R353). -/
def frozenUpdate (m : Module) (e : Entry) : Bool :=
  natBit (byteAt e.bytes 10) 4 || m.freezeTab.getLsbD (layerOf e)

/-- STRICT of a layer update. -/
def strictUpdate (e : Entry) : Bool := natBit (byteAt e.bytes 10) 5

def setUpdate (e : Entry) (r : UpdateRun) (m : Module) : Module := setEntry { e with work := .update r } m

/-- The module job of an update leaves its stack. -/
def dropUpdateJob (e : Entry) (r : UpdateRun) (m : Module) : Module :=
  match r.job with
  | some j => dropJob (updateStack e) j m
  | .none => m

/-- An update waits for its fault, or ends on poisoned data with nothing written (R342, R351). -/
def stopUpdate (e : Entry) (r : UpdateRun) (held : Nat) (s : Stop) (m : Module) : Module :=
  let x := stopEntry e (handleStack (updateStack e)) s (setUpdate e { r with waiting := true }) m
  if x.1 then
    let m := count .update 0 3 held x.2
    retireUpdate e { status := 0x51, count1 := held } (dropUpdateJob e r m)
  else x.2

/-- The module before a stopped access where it only waits, else the module after it. -/
def afterStop (s : Stop) (m m' : Module) : Module :=
  if s.waits then m else m'

/-! ## Admission (R321, R339-R342, R353) -/

/-- The translation pass of an update whose record is sound: its job may start once every page translates (R342). -/
def translateUpdate (e : Entry) (r : UpdateRun) (m : Module) : Module :=
  let st := updateStack e
  let u : UpdateJob := { e := e, par := r.record }
  match (probeArrays u (updateReach e 0 [])).go m with
  | (.error s, m') => stopUpdate e r 0 s (afterStop s m m')
  | (.ok pages, m) =>
    let m := setUpdate e { r with pages := pages, translated := true } m
    match r.job.bind (jobAt m st) with
    | some j => assignAll st (setJob st { j with record := r.record, checked := true, total := u.chunks } m)
    | .none => m

/-- The parameter record of an update: like all that lies in its own stack, read directly once it is clean (R350). -/
def updateRecord (e : Entry) : Acc (List Byte) := do
  let r := updateReach e 0 []
  engineClean r .read (field e.bytes 16 8) 128
  engineRead r (field e.bytes 16 8) 128

/-- An admitted update: its record is read once, a frozen one retires, a bad one too, and the others go on to their
translation pass. -/
def prepareUpdate (e : Entry) (r : UpdateRun) (m : Module) : Module :=
  if !r.record.isEmpty then translateUpdate e r m
  else
    match (updateRecord e).go m with
    | (.error s, m') => stopUpdate e r 0 s (afterStop s m m')
    | (.ok rec, m) =>
      let u : UpdateJob := { e := e, par := rec }
      if r.frozen then count .update 0 2 1 (retireUpdate e { status := 1, count2 := u.elems } m)
      else
        match lowest u.failures with
        | some off => retireUpdate e { status := 0x43, count0 := 0x100 + off } (dropUpdateJob e r m)
        | .none => translateUpdate e { r with record := rec } (setUpdate e { r with record := rec } m)

/-- The module job that an admitted update becomes, on engines 0 to ECOUNT (R339). -/
def updateModuleJob (e : Entry) (id : Nat) : Job :=
  { id := id, thread := 0xFFFF, task := e.id, asid := asidOf e, tag := BitVec.ofNat 32 (tagOf e), ring := e.ring, level := 1
    kind := some (.update e.id (UpdateJob.engines { e := e, par := [] })) }

/-- A ready update of a step whose gate is open is admitted; of a refused step it retires (R321, R353). -/
def admitUpdate (e : Entry) (m : Module) : Module :=
  let step := updateStep e
  let b := stepBank m step
  let holds := b.step == step
  if holds && b.state == .refused then count .update 0 4 1 (completeEntry e 0x20 b.report.reason.toNat 0 0 m)
  else if !(holds && b.state == .opened && ready m e) then setEntry { e with stage := .waiting } m
  else
    let m := consumeInputs e m
    if frozenUpdate m e && strictUpdate e then
      let m := admitEntry e (.update { stack := updateStack e }) m
      count .update 0 2 1 (retireUpdate ((entryAt m e.id).getD e) { status := 0x21 } m)
    else if frozenUpdate m e then
      let r : UpdateRun := { stack := updateStack e, frozen := true }
      let m := admitEntry e (.update r) m
      prepareUpdate ((entryAt m e.id).getD e) r m
    else
      let st := updateStack e
      let id := (stackAt m st).nextId
      let r : UpdateRun := { stack := st, job := some id }
      let m := queueModuleJob st (updateModuleJob e id) (admitEntry e (.update r) m)
      prepareUpdate ((entryAt m e.id).getD e) r m

/-! ## The job (R344, R348, R350, R351) -/

/-- An access of a running update has stopped: poisoned data holds `held` elements and ends it. -/
def stopRunning (e : Entry) (r : UpdateRun) (held : Nat) (s : Stop) (m m' : Module) : Module :=
  match s with
  | .poison _ pa =>
    let m := raiseError 3 0x23 (handleStack (updateStack e)) pa 0 m'
    setUpdate e { r with held := r.held + held, ending := some { status := 0x51 } } m
  | _ => (stopEntry e (handleStack (updateStack e)) s (setUpdate e { r with waiting := true }) (afterStop s m m')).2

/-- The statistics of pass 1 as a table. -/
def statTable (x : List Nat × List Nat) : Sparse (BitVec 32 × BitVec 32) :=
  (List.range (Nat.max x.1.length x.2.length)).map fun i =>
    (i, (BitVec.ofNat 32 (x.1.getD i 0), BitVec.ofNat 32 (x.2.getD i 0)))

/-- The lowest engine that holds a chunk of a job, with the chunk. -/
def heldChunk (k : Stack) (j : Nat) : Option (Nat × Nat) :=
  (k.engines.find? fun r => r.2.job == j).map fun r => (r.1, r.2.chunk)

/-- Elements that an error in the gradient scale, or in pass 1, holds (R351). -/
def firstHeld (u : UpdateJob) : Nat := if u.rule = 2 then u.elems else Nat.min 4096 u.elems

/-- One chunk of an update, on the engine that holds it. -/
def runChunk (e : Entry) (r : UpdateRun) (j : Job) (gs : Nat) (m : Module) : Module :=
  let st := updateStack e
  let u : UpdateJob := { e := e, par := r.record }
  match heldChunk (stackAt m st) j.id with
  | .none => m
  | some (eng, c) =>
    match (updateChunk u gs (r.stats.getD []) c (updateReach e j.id r.pages)).go m with
    | (.error s, m') => stopRunning e r (Nat.min 4096 (u.elems - 4096 * c)) s m m'
    | (.ok n, m) =>
      let m := setUpdate e { r with updated := r.updated + n.1, held := r.held + n.2 } m
      let m := match jobAt m st j.id with
        | some j => setJob st { j with complete := c :: j.complete } m
        | .none => m
      assignAll st (dropEngine st eng m)

/-- The next step of a started update: its region clean, the gradient scale, pass 1 of rule 2, or one chunk. -/
def runUpdate (e : Entry) (r : UpdateRun) (j : Job) (m : Module) : Module :=
  let u : UpdateJob := { e := e, par := r.record }
  let reach := updateReach e j.id r.pages
  if !j.cleaned then
    match (cleanArrays u reach).go m with
    | (.error s, m') => stopRunning e r 0 s m m'
    | (.ok _, m) => setJob (updateStack e) { j with cleaned := true } m
  else
    match r.gs with
    | .none =>
      match (gradScale e reach).go m with
      | (.error s, m') => stopRunning e r (firstHeld u) s m m'
      | (.ok gs, m) => setUpdate e { r with gs := some gs } m
    | some gs =>
      if u.rule = 2 ∧ !r.pass1 then
        match (firstPass u gs reach).go m with
        | (.error s, m') => stopRunning e r u.elems s m m'
        | (.ok (some x), m) => setUpdate e { r with pass1 := true, stats := some (statTable x) } m
        | (.ok .none, m) => setUpdate e { r with pass1 := true, held := u.elems } m
      else if u.rule = 2 ∧ r.stats.isNone then m
      else runChunk e r j gs m

/-- LAYER_UPDATE (R339): the descriptor is checked and admitted; each further command is one step of it. -/
def execLayerUpdate (p : Nat) (s : State) : Outcome State Fault Refusal :=
  onModule (fun m =>
    match entryAt m p with
    | .none => m
    | some e =>
      match e.work with
      | .update r =>
        if !working m || r.waiting || r.ending.isSome then m
        else
          if !r.translated then prepareUpdate e r m
          else
            let m := assignAll (updateStack e) m
            match r.job.bind (jobAt m (updateStack e)) with
            | some j => if j.started && stackRuns m (updateStack e) then runUpdate e r j m else m
            | .none => m
      | _ => onDescriptor p (· == 3) admitUpdate m) s

/-! ## The end of an update (R344, R348, R350) -/

/-- Every chunk of an update is done, or none can be. -/
def updateOver (u : UpdateJob) (r : UpdateRun) (j : Job) : Bool :=
  r.ending.isSome || (j.cleaned && r.gs.isSome && (u.rule != 2 || r.pass1)
    && (j.complete.length ≥ u.chunks || (u.rule == 2 && r.stats.isNone)))

/-- Rule 2 writes its statistics after pass 2 whenever pass 1 found them finite. -/
def writeStats (u : UpdateJob) (r : UpdateRun) (reach : Reach) : Acc Unit := do
  match r.stats with
  | .none => pure ()
  | some l =>
    if r.ending.isSome then pure ()
    else
      let stat (i : Nat) : BitVec 32 × BitVec 32 := Sparse.get (0, 0) l i
      engineWrite reach (u.addr 32) (joinElems 4 ((List.range u.rows).map fun i => (stat i).1.toNat))
      engineWrite reach (u.addr 40) (joinElems 4 ((List.range u.cols).map fun i => (stat i).2.toNat))

/-- Local lines of the high-half array. -/
def highLines (u : UpdateJob) (reach : Reach) : Acc (List Nat) := do
  let mut out : List Nat := []
  for q in pieces (u.addr 0) (2 * u.elems) do
    let a ← engineAt reach .read q.1
    out := lineOf a :: out
  pure out

/-- The update's direct lines are back-invalidated; conflicts of high-half lines count in UP_STAT 6 (R350). None while one
must wait. -/
def updateBack (st : Nat) (high : List Nat) (j : Job) (m : Module) : Option (Bool × Module) :=
  j.direct.foldlM (fun x line => (backLine st line x.2).map fun r =>
    let m := if r.1 && high.contains line then count .update 0 6 1 r.2 else r.2
    (x.1 || r.1, m)) (false, m)

/-- The record of an update that has run. -/
def updateClosing (r : UpdateRun) (conflict : Bool) : Closing :=
  match r.ending with
  | some x =>
    if x.status = 0x12 then { status := 0x12, count0 := x.count0, count1 := x.count1, conflict := conflict }
    else { status := x.status.toNat, count0 := r.updated, count1 := r.held, conflict := conflict }
  | .none => { status := 0, count0 := r.updated, count1 := r.held, conflict := conflict }

/-- UP_STAT 0, 1 and 3 of an update that has run. -/
def countUpdate (r : UpdateRun) (m : Module) : Module :=
  let m := if r.ending.isNone then count .update 0 0 1 m else m
  count .update 0 3 r.held (count .update 0 1 r.updated m)

/-- An update that is over writes its statistics, back-invalidates and retires. -/
def completeUpdate (e : Entry) (r : UpdateRun) (j : Job) (m₀ : Module) : Module :=
  let u : UpdateJob := { e := e, par := r.record }
  let st := updateStack e
  let reach := updateReach e j.id r.pages
  let ends : Acc (List Nat) := do
    writeStats u r reach
    highLines u reach
  match ends.go m₀ with
  | (.error s, m') => stopRunning e r 0 s m₀ m'
  | (.ok high, m) =>
    match updateBack st high ((jobAt m st j.id).getD j) m with
    | some x => retireUpdate e (updateClosing r x.1) (countUpdate r (dropJob st j.id x.2))
    | .none => ((jobAt m₀ st j.id).getD j).direct.foldl (fun m line => waitClean line m) m₀

/-- UPDATE_COMPLETE (R344). -/
def execUpdateComplete (p : Nat) (s : State) : Outcome State Fault Refusal :=
  onModule (fun m =>
    match entryAt m p with
    | .none => m
    | some e =>
      match e.work with
      | .update r =>
        if !working m || r.waiting then m
        else
          if !r.translated then
            if r.ending.isSome then retireUpdate e (updateClosing r false) (dropUpdateJob e r m) else m
          else
            match r.job.bind (jobAt m (updateStack e)) with
            | .none => m
            | some j =>
              let u : UpdateJob := { e := e, par := r.record }
              if stackRuns m (updateStack e) && updateOver u r j then completeUpdate e r j m else m
      | _ => m) s

end Sys2Proof.Machine
end

