-- ==== Sys2Proof/Machine/Cycle.lean ====
section
/-! DEFINITION. One Headgate cycle: retirements, abort points, token descriptors, the admission scan over every opcode, and
the descriptors that enter the pool (R83, R86, R89). -/

namespace Sys2Proof.Machine

open Host (Outcome)

/-- The state a command leaves. -/
def after (o : Outcome State Fault Refusal) (s : State) : State :=
  match o with
  | .next t => t
  | .fault _ | .refused _ => s

/-- Phase 1 for one entry: it retires, if it can. -/
def retireOne (s : State) (p : Nat) : State :=
  match entryAt s.m p with
  | .none => s
  | some e =>
    match e.work with
    | .task _ => after (execTaskRetire p s) s
    | .copy _ => after (execCopyComplete p s) s
    | .abort _ => after (execAbortComplete p s) s
    | .update _ => after (execUpdateComplete p s) s
    | .ended _ => { s with m := retireEnded p s.m }
    | .idle | .store _ _ => s

/-- Phase 1: every entry that can retire does, in pool order. DESIGN CHOICE (log 33). -/
def phaseRetire (s : State) : State := (idsWhere s.m fun e => !unadmitted e).foldl retireOne s

/-- The commands that decode a descriptor of an opcode. -/
def decodeEntry (op p : Nat) (s : State) : State :=
  match op with
  | 0x00 => after (execNoop p s) s
  | 0x01 => after (execTaskAdmit p s) s
  | 0x02 => after (execCopy p s) s
  | 0x03 => after (execLayerUpdate p s) s
  | 0x06 => after (execStashAndHazeConfiguration p s) s
  | 0x07 => after (execWeirTableWrite p s) s
  | 0x80 => let s := after (execKeyLoad p s) s; after (execKeyRetire p s) s
  | 0x81 => after (execFirmwareActivation p s) s
  | 0x82 => after (execFabricTopologyAndRouteChange p s) s
  | 0x83 => let s := after (execFreeze p s) s; after (execThaw p s) s
  | 0x84 => after (execClockSourceChange p s) s
  | 0x85 => let s := after (execSquallEnable p s) s; after (execSquallDisable p s) s
  | 0x86 => after (execWarmResetCommand p s) s
  | _ => s

/-- The scan tests one entry of the pool, and admits it when it is a candidate. -/
def scanOne (s : State) (p : Nat) : State :=
  let s := { s with m := checkEntry s.m p }
  match entryAt s.m p with
  | .none => s
  | some e => if e.stage == .waiting && candidate s.m e then decodeEntry (opcodeOf e) p s else s

/-- Phase 4: ready descriptors are admitted one at a time in admission order, unless Squall skips the scan. -/
def phaseScan (s : State) : State :=
  if s.m.squall.skip = 0 then ((admissionOrder s.m).map (·.id)).foldl scanOne s else s

/-- A cycle begins: nothing has acted in it. -/
def beginCycle (m : Module) : Module := squallSkip { m with hg := { m.hg with actedRings := [], tookTask := false } }

/-- The phases of a cycle, in order. DEDUCED (log 66). -/
def headgateCycle (s : State) : State :=
  let s := phaseRetire { s with m := beginCycle s.m }
  let s := phaseScan { s with m := setScan true (phaseTokens (phaseAbort s.m)) }
  { s with m := countCycle (setScan false (phaseEnter s.m)) }

/-- HEADGATE_CYCLE (R83). -/
def execHeadgateCycle (s : State) : Outcome State Fault Refusal :=
  .next (if working s.m then headgateCycle s else s)

end Sys2Proof.Machine
end

