-- ==== Sys2Proof/Machine/FaultRing.lean ====
section
/-! DEFINITION. The registers of the fault ring (R65-R67), translation invalidation (R251) and ATS invalidation (R250). -/

namespace Sys2Proof.Machine

open Host

/-! ## The fault ring (R65-R67) -/

/-- The engines of a stack take up what a settled fault has freed: the chunk is assigned again, or the job has ended
(R286, R290). -/
def reassign (o : FaultOwner) (m : Module) : Module :=
  match o with
  | .chunk s _ _ => assignAll s m
  | _ => m

/-- Settle one fault as killed: COUNT0 is its SEQ once its record is written, else its KIND (R67, R68). -/
def killSuspension (s : Suspension) (m : Module) : Module :=
  reassign s.owner <|
    if s.written then settleKill s.owner s.seq.toNat 1 m
    else settleKill s.owner s.kind.toNat 0 { m with faults := { m.faults with disabledFault := true } }

/-- The ring is disabled: every suspension is settled as killed, and waiting records are discarded. -/
def disableFaultRing (m : Module) : Module :=
  let l := m.faults.suspended
  l.foldl (fun m s => killSuspension s m) { m with faults := { m.faults with enable := false, suspended := [] } }

/-- A write of FR_CTRL. -/
def writeFrCtrl (value : BitVec 32) (m : Module) : Module :=
  let f := m.faults
  let log := bitsOf value 27 24
  let f := { f with vector := BitVec.ofNat 11 value.toNat, log := if f.enable then f.log else BitVec.ofNat 4 log }
  let m' := { m with faults := f }
  if value.getLsbD 31 then
    if f.enable || log < 4 || log > 12 then m'
    else { m with faults := { f with enable := true, head := 0, tail := 0, seq := 0 } }
  else if f.enable then disableFaultRing m'
  else m'

/-- FR_CTRL_ENABLE (R65). -/
def execFrCtrlEnable (value : BitVec 32) (s : State) : Outcome State Fault Refusal :=
  onModule (fun m => if value.getLsbD 31 then writeFrCtrl value m else m) s

/-- FR_CTRL_DISABLE (R67). -/
def execFrCtrlDisable (value : BitVec 32) (s : State) : Outcome State Fault Refusal :=
  onModule (fun m => if value.getLsbD 31 then m else writeFrCtrl value m) s

/-- A write of HEAD of FR_PTR. -/
def writeFrHead (v : Nat) (m : Module) : Module :=
  let f := m.faults
  let v := v % 2 ^ 13
  if headAllowed f.log.toNat f.head.toNat f.tail.toNat v then { m with faults := { f with head := BitVec.ofNat 13 v } }
  else { m with faults := { f with badHead := true } }

/-- FR_PTR_HEAD_WRITE (R65). -/
def execFrPtrHeadWrite (head : BitVec 32) (s : State) : Outcome State Fault Refusal :=
  onModule (writeFrHead head.toNat) s

/-- The suspended fault that a SEQ names. -/
def suspendedAt (m : Module) (seq : BitVec 32) : Option Suspension :=
  m.faults.suspended.find? fun s => s.seq == seq && s.owner != .gone

/-- A settled fault stands behind its record no more; a record not yet written keeps its place. -/
def settled (seq : BitVec 32) (m : Module) : Module :=
  let l := m.faults.suspended.map fun s => if s.seq == seq then { s with owner := .gone } else s
  { m with faults := { m.faults with suspended := l.filter fun s => !(s.owner == .gone && s.written) } }

/-- A write of FR_RESUME; one whose owner's requests cannot be sent yet has done nothing. DEDUCED (log 34). -/
def answerFault (seq : BitVec 32) (kill : Bool) (m : Module) : Module :=
  match suspendedAt m seq with
  | .none => { m with faults := { m.faults with badResume := true } }
  | some s =>
    if kill then reassign s.owner (settleKill s.owner seq.toNat 1 (settled seq m))
    else match resendFailed s.owner (settleResume s.owner seq.toNat (settled seq m)) with
      | some m => reassign s.owner m
      | .none => m

/-- FR_RESUME (R66): KILL = 0. -/
def execFrResume (seq : BitVec 32) (s : State) : Outcome State Fault Refusal := onModule (answerFault seq false) s

/-- FR_KILL (R66): KILL = 1. -/
def execFrKill (seq : BitVec 32) (s : State) : Outcome State Fault Refusal := onModule (answerFault seq true) s

/-- FAULT_RECORD_DRAIN (R67). -/
def execFaultRecordDrain (s : State) : Outcome State Fault Refusal := onModule drainFault s

/-! ## Translation invalidation (R251) -/

/-- Every translation cache loses the entries of a scope. -/
def invalidateTlbs (x : InvScope) (m : Module) : Module :=
  { m with
    cores := m.cores.map fun c => (c.1, { c.2 with tlb := c.2.tlb.filter fun e => !x.names e })
    tlbs := m.tlbs.map fun u => (u.1, u.2.filter fun e => !x.names e)
    walks := m.walks.map fun u => (u.1, u.2.filter fun e => !x.namesWalk e) }

/-- An invalidation begins, unless one is in progress. DEDUCED (log 35). -/
def startInv (x : InvScope) (m : Module) : Module :=
  if m.host.inv.isSome then { m with host := { m.host with invIgn := true } }
  else invalidateTlbs x { m with host := { m.host with inv := some x } }

/-- A write of MMU_INV. -/
def writeMmuInv (value : Word) (m : Module) : Module :=
  let asid := BitVec.ofNat 6 (bitsOf value 25 20)
  match bitsOf value 27 26 with
  | 0 => startInv (.page asid (BitVec.ofNat 36 (bitsOf value 63 28))) m
  | 1 => startInv (.asid asid) m
  | 2 => startInv .all m
  | _ => { m with host := { m.host with invIgn := true } }

/-- MMU_INV_PAGE (R251). -/
def execMmuInvPage (asid : BitVec 6) (vpn : BitVec 36) (s : State) : Outcome State Fault Refusal :=
  onModule (startInv (.page asid vpn)) s

/-- MMU_INV_ASID (R251). -/
def execMmuInvAsid (asid : BitVec 6) (s : State) : Outcome State Fault Refusal := onModule (startInv (.asid asid)) s

/-- MMU_INV_ALL (R251). -/
def execMmuInvAll (s : State) : Outcome State Fault Refusal := onModule (startInv .all) s

/-- MMU_INV_IGNORED (R251): a write that is ignored, for its SCOPE or while BUSY. -/
def execMmuInvIgnored (value : Word) (s : State) : Outcome State Fault Refusal :=
  onModule (fun m => if bitsOf value 27 26 = 3 || m.host.inv.isSome then writeMmuInv value m else m) s

/-- Whether an invalidation's scope takes in an ASID. -/
def InvScope.covers (x : InvScope) (asid : BitVec 6) : Bool :=
  match x with
  | .page a _ | .asid a => a == asid
  | .all => true

/-- The ASID a requester of accesses translates under; none where its fault has been settled. -/
def FaultOwner.asid (m : Module) : FaultOwner → Option (BitVec 6)
  | .thread t | .forwarded t | .wedged t => some (threadAt m t).priv.asid
  | .entry p => (entryAt m p).map asidOf
  | .chunk s j _ => (jobAt m s j).map (·.asid)
  | .batch b => (m.weir.batches.find? fun k => k.id == b).map (·.asid)
  | .scale _ _ => some m.haze.asid
  | .gone => .none

/-- The ASID of the access a request was sent for. -/
def Requestor.asid (m : Module) (w : Requestor) : Option (BitVec 6) :=
  match w with
  | .prefetch t _ => some (threadAt m t).priv.asid
  | w => w.owner.bind (·.asid m)

/-- Whether a thread's accesses inside the module have reached their point of coherence. DEDUCED (log 25). -/
def accessesReached (m : Module) (t : Nat) (th : Thread) : Bool :=
  th.loads.isEmpty && th.vec.pending.isEmpty && th.tile.queue.isEmpty
    && !(m.slices.any fun s => s.2.reds.any (·.of t) || s.2.queue.any (·.of t)
      || s.2.misses.any fun k => k.waiters.any (·.of t))

/-- Whether a layer update goes on with the pages its translation pass found (R342). -/
def Entry.holdsPages (e : Entry) : Bool :=
  match e.work with
  | .update r => r.translated
  | _ => false

/-- Whether every access of a scope has reached its point of coherence: those of threads, requests to other modules, and
what a layer update or a batch still does at the pages it has translated (R251, R342, R388). DEDUCED (log 35). -/
def scopeReached (m : Module) (x : InvScope) : Bool :=
  (m.threads.all fun p => !x.covers p.2.priv.asid || accessesReached m p.1 p.2)
    && (m.fabric.tags.all fun g => g.quarantined || !((g.who.asid m).any x.covers))
    && (m.hg.pool.all fun e => !(e.holdsPages && x.covers (asidOf e)))
    && m.weir.batches.all fun b => b.pages.isEmpty || !x.covers b.asid

/-- The stores of a scope that a core's data L1 holds are written back to their home slices; a line whose module cannot be
reached stays. -/
def cleanScope (x : InvScope) (c : Nat) : Acc Unit := do
  let m ← get
  for l in (coreAt m c).l1d do
    let out := match keyNode l.line with
      | some n => reachable m.fabric (n % 4096)
      | .none => true
    if out && l.mask != 0 && l.asids.any x.covers then
      writeBackLine (2 * c) l
      modify (l1Put c { l with mask := 0, asids := [] })

/-- MMU_INV_COMPLETE (R251): what the L1s hold of the scope has been written back first. DEDUCED (log 35). -/
def execMmuInvComplete (s : State) : Outcome State Fault Refusal :=
  onModule (fun m =>
    match m.host.inv with
    | .none => m
    | some x =>
      match ((m.cores.map (·.1)).forM (cleanScope x)).go m with
      | (.error s, m') => if s.waits then s.asks m else m'
      | (.ok _, m) =>
      if scopeReached m x then
        let m := invalidateTlbs x m
        { m with host := { m.host with inv := .none } }
      else m) s

/-- ATS_INVALIDATION (R250): translations of a range of bus addresses leave the host port's cache. -/
def execAtsInvalidation (pasid : Option (BitVec 20)) (addr : Word) (size : Nat) (s : State) : Outcome State Fault Refusal :=
  onModule (fun m =>
    let hit (e : AtsEntry) : Bool := e.pasid == pasid && meets (4096 * e.page) 4096 addr.toNat size
    { m with host := { m.host with ats := m.host.ats.filter fun e => !hit e } }) s

end Sys2Proof.Machine
end

