-- ==== Sys2Proof/Machine/Gather.lean ====
section
/-! DEFINITION. Gather engines: rows (R293, R294) and the prefetch buffer (R295). -/

namespace Sys2Proof.Machine

open Host

/-- The started gather job that engine `g` runs: jobs of one engine run in start order. -/
def gatherJob (m : Module) (st g : Nat) : Option Job := (gatherJobs (stackAt m st) g).head?

/-- Replace the prefetch buffer of an engine. -/
def setGather (st g : Nat) (l : List GatherLine) (m : Module) : Module :=
  let k := stackAt m st
  setStack st { k with gathers := Sparse.set k.gathers g l } m

def gatherLines (m : Module) (st g : Nat) : List GatherLine := Sparse.get [] (stackAt m st).gathers g

/-- An entry of the buffer has been demanded. -/
def useLine (st g line : Nat) (m : Module) : Module :=
  setGather st g ((gatherLines m st g).map fun e => if e.line == line then { e with used := true } else e) m

/-- A direct read of gather engine `g`, under a request register (R277, R278). -/
def gatherRead (g line : Nat) (m : Module) : Option ((List Byte × BitVec 4) × Module) :=
  if dramReady m line then (useRegister line forEngine m).map (readDramAs (gatherRequester g) line) else .none

/-- Bytes of a direct line for a stream (R295): from the buffer, from DRAM, or through the home slice once a write has
been snooped. DEDUCED (log 26). -/
def streamLine (r : Reach) (g line : Nat) : Acc (List Byte × BitVec 4) := do
  let m ← get
  match (gatherLines m r.st g).find? (fun e => e.line == line) with
  | .none => orStop (.register line) (gatherRead g line)
  | some e =>
    if e.stale then readLine (600 + r.st) line 0
    else if e.open_ then
      let d ← orStop (.register line) (gatherRead g line)
      modify fun m => if e.used then m else count .basin r.st 11 1 (useLine r.st g line m)
      pure d
    else
      modify fun m => if e.used then m else count .basin r.st 10 1 (useLine r.st g line m)
      pure (e.data, 0)

/-- `n` bytes of a source row. -/
def streamRead (r : Reach) (g va n : Nat) : Acc (List Byte) := do
  let mut out : List (List Byte) := []
  for q in pieces va n do
    let a ← engineAt r .read q.1
    let d ← if r.straight a then streamLine r g (lineOf a) else readLine (600 + r.st) (lineOf a) 0
    if touchesPoison d.2 (a % 128) q.2 then stop (.poison q.1 a)
    else out := ((d.1.drop (a % 128)).take q.2) :: out
  pure out.reverse.flatten

/-- One row: read, and written densely or transposed (R294). -/
def gatherRow (j : Job) (row : Nat) (r : Reach) : Acc Unit := do
  let i ← rowIndex j r row
  let bs ← streamRead r j.first (intLow 64 (j.x + rowOffset j i)) (rowBytes j)
  let w := codeBytes j.xf
  for p in chunkPlaces j row do
    engineProbe r .write p.1 p.2
  if natBit j.sub 0 then
    for p in indexed (splitElems w j.alpha bs) do
      engineWrite r (j.z + (p.1 * j.count + row) * w) (bytesOf w p.2)
  else engineWrite r (j.z + row * rowBytes j) bs

/-- A gather job moves its next row. -/
def runGather (st j : Nat) (m : Module) : Module :=
  match jobAt m st j with
  | .none => m
  | some k =>
    if !stackRuns m st || k.op != 9 || (gatherJob m st k.first).map (·.id) != some j || (k.wantsClean && !k.cleaned) then m
    else
      match nextRow k with
      | .none => m
      | some row =>
        match (gatherRow k row (k.reach st)).go m with
        | (.ok _, m) =>
          match jobAt m st j with
          | some k => assignAll st (setJob st { k with complete := row :: k.complete } m)
          | .none => m
        | (.error s, m') => chunkStop st k row row s m m'

/-- GATHER (R294). -/
def execGather (st j : Nat) (s : State) : Outcome State Fault Refusal := onModule (runGather st j) s

/-! ## Prefetch (R295) -/

/-- Lines the engine may read ahead. -/
def gatherDepth (k : Stack) : Nat := 2 ^ Nat.min k.pfDepth.toNat 0xB

/-- Direct lines of the rows ahead, in stream order. -/
def linesAhead (j : Job) (r : Reach) (n : Nat) : Acc (List Nat) := do
  let mut out : List Nat := []
  let rows := ((List.range j.total).filter fun x => !j.complete.contains x && !j.suspended.contains x).take n
  for row in rows do
    if out.length < n then
      let i ← rowIndex j r row
      for q in pieces (intLow 64 (j.x + rowOffset j i)) (rowBytes j) do
        let a ← engineAt r .read q.1
        if r.straight a then out := lineOf a :: out else pure ()
    else pure ()
  pure (out.reverse.take n)

/-- A read ahead is issued, and asks for its request register (R278): the buffer holds 2,048 lines, and an entry replaced
unused counts. -/
def addGather (st g line : Nat) (m : Module) : Module :=
  let l := gatherLines m st g
  let live := l.filter fun e => !e.stale
  let m := match live with
    | o :: _ =>
      if live.length ≥ 2048 then
        count .basin st 12 (if o.used then 0 else 1) (setGather st g (l.filter fun e => e.line != o.line) m)
      else m
    | [] => m
  askRegister st (dramRequest line forGather)
    (count .basin st 9 1 (setGather st g (gatherLines m st g ++ [{ line := line, data := [] }]) m))

/-- The oldest outstanding read returns: its data is installed, unless a snoop came meanwhile. -/
def returnGather (st g : Nat) (e : GatherLine) (m : Module) : Module :=
  if !dramReady m e.line || !holdsRegister m e.line forGather then m
  else
    let d := readDramAs (gatherRequester g) e.line (freeRegister st (dramRequest e.line forGather) m)
    let l := gatherLines d.2 st g
    if e.stale then setGather st g (l.map fun x => if x.line == e.line then { x with open_ := false } else x) d.2
    else if d.1.2 ≠ 0 then setGather st g (l.filter fun x => x.line != e.line) d.2
    else setGather st g (l.map fun x => if x.line == e.line then { x with open_ := false, data := d.1.1 } else x) d.2

/-- One prefetch: the return of the oldest read, or the issue of the next. -/
def prefetchGather (st g : Nat) (m : Module) : Module :=
  match (gatherLines m st g).find? (·.open_) with
  | some e => returnGather st g e m
  | .none =>
    match gatherJob m st g with
    | .none => m
    | some j =>
      if !(stackAt m st).pfEn || (j.wantsClean && !j.cleaned) then m
      else
        match (linesAhead j (j.reach st) (gatherDepth (stackAt m st))).go m with
        | (.error _, _) => m
        | (.ok lines, m) =>
          match lines.find? (fun l => !((gatherLines m st g).any fun e => e.line == l)) with
          | some line => addGather st g line m
          | .none => m

/-- GATHER_PREFETCH (R295). -/
def execGatherPrefetch (st g : Nat) (s : State) : Outcome State Fault Refusal :=
  onModule (fun m => if stackRuns m st && g < 4 then prefetchGather st g m else m) s

end Sys2Proof.Machine
end

