-- ==== Sys2Proof/Machine/Privilege.lean ====
section
/-! DEFINITION. Exception and interrupt entry, WAIT, windows, stops, and the event controllers (07, R64, R211). -/

namespace Sys2Proof.Machine

open Host (Outcome)

/-! ## Entry (R131-R137, R142, R143) -/

/-- Enter with a fault that is raised now. -/
def enterNow (t : Nat) (e : Exc) (m : Module) : Module :=
  enter t e false (setThread t { threadAt m t with exc := some e } m)

/-- The fetch at PC (or of the second word of a tile instruction) fails: a translation fault suspends, anything
else enters a handler. -/
def fetchFault (t : Nat) (second : Bool) (m : Module) : Module :=
  let th := threadAt m t
  let a := if second then th.pc + 4 else th.pc
  let m' := withAccess t (fetchCheck t th.priv.level.toNat a) (fun _ m => m) m
  match (threadAt m' t).exc with
  | some e => enter t e false m'
  | .none => m'

/-- EXCEPTION_ENTRY (R101, R135). -/
def execExceptionEntry (t : Nat) (src : EntrySource) (s : State) : Outcome State Fault Refusal :=
  onModule (fun m =>
    let th := threadAt m t
    match src with
    | .raised =>
      match th.exc with
      | some e => if alive m && th.run == .running && !unitGated m (handleCore (t / 2)) then enter t e false m else m
      | .none => m
    | .words w0 w1 =>
      if issuable m t && (decodeWords t w0 w1).isNone then
        enterNow t { cause := 0x01, fval := w0.setWidth 64, rpc := th.pc, target := th.priv.level } m
      else m
    | .fetch second => if issuable m t then fetchFault t second m else m) s

/-- A core that may take an interrupt or stop for thread `t`. -/
def atIssue (m : Module) (t : Nat) : Bool :=
  alive m && t < 384 && atBoundary m t && !unitGated m (handleCore (t / 2))

/-- A tile memory instruction is left before it has checked all its rows: those checked complete their transfers, and
TSTART holds the next (R200). -/
def TileState.leaveHold (x : TileState) : TileState :=
  match x.hold with
  | .none => x
  | some e =>
    match e.rows.getLast? with
    | .none => { x with hold := .none }
    | some r =>
      { x with hold := .none, start := BitVec.ofNat 5 (r.1 + 1), queue := x.queue ++ [e], nextId := x.nextId + 1 }

/-- An interrupt is taken, in a tile load before its next rows; a waiting aperture write is withdrawn (R200, R280).
DESIGN CHOICE (log 62). -/
def interrupt (t : Nat) (cause : BitVec 8) (fval : Word) (m : Module) : Module :=
  let m := withdrawWrite t m
  let th := threadAt m t
  let th := { th with aperture := .none, tile := th.tile.leaveHold }
  let e : Exc := { cause := cause, fval := fval, rpc := th.pc, target := 1 }
  enter t e true (setThread t th m)

/-- EXTERNAL_EVENT (R133): after a stop request. -/
def execExternalEvent (t : Nat) (s : State) : Outcome State Fault Refusal :=
  onModule (fun m =>
    if atIssue m t && !(threadAt m t).stop && eventAccepted m t then interrupt t 0x40 0 m else m) s

/-- The timer interrupt is accepted (R133). -/
def timerAccepted (m : Module) (t : Nat) : Bool :=
  timerDue m t && (threadAt m t).priv.su.hbase != 0

/-- TIMER (R133): after a stop request and an external event. -/
def execTimer (t : Nat) (s : State) : Outcome State Fault Refusal :=
  onModule (fun m =>
    if atIssue m t && !(threadAt m t).stop && !eventAccepted m t && timerAccepted m t then
      interrupt t 0x41 m.time m
    else m) s

/-- WAIT_WAKE (R145): entry for an interrupt that is accepted, else the thread goes on. -/
def execWaitWake (t : Nat) (s : State) : Outcome State Fault Refusal :=
  onModule (fun m =>
    let th := threadAt m t
    if alive m && th.run == .waiting && wakes m t then
      let m := setThread t { th with run := .running } m
      if atIssue m t && !th.stop then
        if eventAccepted m t then interrupt t 0x40 0 m
        else if timerAccepted m t then interrupt t 0x41 m.time m
        else m
      else m
    else m) s

/-- NI_EXPIRY (R139): the window ends and NIEXP is set. -/
def execNiExpiry (t : Nat) (s : State) : Outcome State Fault Refusal :=
  onModule (fun m =>
    let th := threadAt m t
    if alive m && th.ni && th.priv.level == 1 then
      let su := { th.priv.su with state := putBit (putBit th.priv.su.state 2 false) 3 true }
      perf t 0x18 1 (setThread t { th with priv := { th.priv with su := su, nicount := 0 } } m)
    else m) s

/-! ## Stops (R64, R133, R211) -/

/-- STOP_REQUEST (R64): taken at an interruptible boundary, before anything else. -/
def execStopRequest (t : Nat) (s : State) : Outcome State Fault Refusal :=
  onModule (fun m =>
    if alive m && t < 384 && (threadAt m t).stop && atBoundary m t then beginThreadStop t m else m) s

/-- The task counts a thread as stopped. -/
def countStopped (t : Nat) (m : Module) : Module :=
  match entryAt m (threadAt m t).task with
  | .none => m
  | some e =>
    match e.work with
    | .task r => setEntry { e with work := .task { r with stopped := t :: r.stopped } } m
    | _ => m

/-- THREAD_STOPPED (R64, R211): what the thread had issued is complete, its jobs and batches included (R292, R399); its
stores are written back (R93). -/
def execThreadStopped (t : Nat) (s : State) : Outcome State Fault Refusal :=
  onModule (fun m =>
    if alive m && (threadAt m t).run == .stopping && workDone m t then
      match (endClean t).go m with
      | (.ok _, m) => countStopped t (setThread t { threadAt m t with run := .stopped } m)
      | (.error _, _) => m
    else m) s

/-! ## The event controllers (R147-R152) -/

/-- Whether a source exists on the part: neither Sluiceway nor Weir on FL1-S, no absent stack (R147). -/
def sourceExists (p : Part) (d s : Nat) : Bool :=
  !sourceReserved s && (if 256 ≤ s ∧ s < 320 then weirPresent p
    else if 128 ≤ s ∧ s < 192 then stackPresent p (2 * d + (s - 128) / 32)
    else true)

/-- Module-wide sources reach every controller (R147). -/
def moduleWide (s : Nat) : Bool := 240 ≤ s && s != 325

/-- EVENT_EDGE (R148). -/
def execEventEdge (d : Nat) (s_ : Nat) (s : State) : Outcome State Fault Refusal :=
  onModule (fun m =>
    if d < 4 && sourceExists m.board.part d s_ then (if moduleWide s_ then edgeAll s_ m else edge d s_ m)
    else m) s

/-- Rising edges on the software sources a word names (R148). -/
def softEdges (d : Nat) (v : Word) (m : Module) : Module :=
  (List.range 64).foldl (fun m i => if v.getLsbD i then edge d i m else m) m

/-- EV_SWSET (R148). -/
def execEvSwset (d : Nat) (value : Word) (s : State) : Outcome State Fault Refusal :=
  onModule (fun m => if d < 4 then softEdges d value m else m) s

/-- Discard pending bits of word `w` without claiming. -/
def discardPending (d w : Nat) (v : Word) (m : Module) : Module :=
  let e := eventsOf m d
  setEvents d { e with pend := e.pend &&& ~~~((v.setWidth 512) <<< (64 * w)) } m

/-- EV_PEND_DISCARD (R147). -/
def execEvPendDiscard (d : Nat) (w : Nat) (value : Word) (s : State) : Outcome State Fault Refusal :=
  onModule (fun m => if d < 4 ∧ w < 8 then discardPending d w value m else m) s

/-- What a claim read of source `s` by thread `t` returns, and its effect (R150). -/
def claim (d s t : Nat) (m : Module) : Nat × Module :=
  let e := eventsOf m d
  let mine := t / 96 == d && (Sparse.get 0 e.mask s : BitVec 48).getLsbD (t / 2 % 48)
  if e.pend.getLsbD s && mine then
    let bit := 1#512 <<< s
    let hold := if (Sparse.get 0 e.mod s : BitVec 16) = 0 then e.held else e.held ||| bit
    (s, count .events d 2 1 (setEvents d { e with pend := e.pend &&& ~~~bit, held := hold } m))
  else (0x3FF, count .events d 3 1 m)

/-- EV_CLAIM (R150): a read by a thread into `rd`; a host read changes nothing. -/
def execEvClaim (d : Nat) (s_ : Nat) (reader : Option (Nat × Reg)) (s : State) : Outcome State Fault Refusal :=
  onModule (fun m =>
    match reader with
    | some (t, rd) =>
      if d < 4 && s_ < 512 && alive m && t < 384 then
        let r := claim d s_ t m
        setThread t ((threadAt r.2 t).result rd (BitVec.ofNat 64 r.1)) r.2
      else m
    | .none => m) s

/-- Release the hold of a source. -/
def endHold (d s : Nat) (m : Module) : Module :=
  let e := eventsOf m d
  setEvents d { e with held := e.held &&& ~~~(1#512 <<< s) } m

/-- HOLD_EXPIRY (R152). -/
def execHoldExpiry (d : Nat) (s_ : Nat) (s : State) : Outcome State Fault Refusal :=
  onModule (fun m => if (eventsOf m d).held.getLsbD s_ then endHold d s_ m else m) s

/-- A core is idle when each thread holds no task or is in WAIT (R152). -/
def coreIdle (m : Module) (c : Nat) : Bool :=
  [2 * c, 2 * c + 1].all fun t => (threadAt m t).run == .idle || (threadAt m t).run == .waiting

/-- MODERATION_BYPASS (R152): some target core is idle. -/
def execModerationBypass (d : Nat) (s_ : Nat) (s : State) : Outcome State Fault Refusal :=
  onModule (fun m =>
    let e := eventsOf m d
    let idle := (List.range 48).any fun i =>
      (Sparse.get 0 e.mask s_ : BitVec 48).getLsbD i && coreIdle m (48 * d + i)
    if e.held.getLsbD s_ && idle then count .events d 4 1 (endHold d s_ m) else m) s

end Sys2Proof.Machine
end

