-- ==== Sys2Proof/Machine/Ras.lean ====
section
/-! DEFINITION. Errors found by checks (R424-R427), the error log's head (R429), counter clears (R433), the 24 V input,
regulators and temperatures (R441-R451), and the management bus (R452, R453). -/

namespace Sys2Proof.Machine

open Host

/-! ## Errors (R424-R427) -/

/-- A way is retired: the slice runs the power-down sequence on it, and with every way retired the error is FATAL
(R427). -/
def retireWay (sl w : Nat) (m : Module) : Module :=
  let s := sliceAt m sl
  if s.retired.getLsbD w || w ≥ 16 then m
  else
    let s := { s with retired := s.retired ||| (1#16 <<< w) }
    let m := raiseError 5 0x41 (handleSlice sl) 0 w m
    if s.retired = BitVec.allOnes 16 then raiseFatal 0xF3 (handleSlice sl) 0 0 (setSlice sl s m)
    else
      let off : BitVec 16 := (1#16 <<< w) &&& s.wayOn
      setSlice sl (if s.busyWays then { s with nextEn := some (s.nextEn.getD s.wayEn &&& ~~~off) }
                   else { s with goingOff := off }) m

/-- The way that holds an address in its home slice. -/
def heldWay (m : Module) (a : Nat) : Option Nat := ((sliceAt m (homeSlice a)).find (lineOf a)).map (·.way)

/-- A data error in a way: its 64th corrected one retires it (R427). -/
def countCorrected (sl w : Nat) (m : Module) : Module :=
  let s := sliceAt m sl
  let n := Sparse.get 0 s.corrected w + 1
  let m := setSlice sl { s with corrected := Sparse.set s.corrected w n } m
  if n = 64 then retireWay sl w m else m

/-- A corrected error in LLC data. The record does not tell a corrected bit from a line that, clean, could be refilled:
that line is dropped, and its way retired (R424, R427). DESIGN CHOICE (log 69). -/
def noteCorrected (a : Nat) (m : Module) : Module :=
  let sl := homeSlice a
  match (sliceAt m sl).find (lineOf a) with
  | .none => m
  | some l =>
    let refill := takeFree 1 m
    if !l.dirty && !(sliceAt m sl).busy l.line && refill.1 == 1 then
      retireWay sl l.way (setSlice sl ((sliceAt refill.2 sl).drop l.line) refill.2)
    else countCorrected sl l.way refill.2

/-- A corrected error in an L1 or a translation cache: a bit corrected in place, or one of the copies of the address
that the unit refetches, its clean data line, its instruction line, or a translation to it or through it (R424). The
record does not tell which. DESIGN CHOICE (log 69). -/
def refetch (unit a : Nat) (m : Module) : Module :=
  let which := takeFree 3 m
  let m := which.2
  match which.1.toNat, unitOf unit with
  | 1, some (.core c) =>
    let k := coreAt m c
    setCore c { k with l1d := k.l1d.filter fun l => !(l.line == lineOf a && l.mask == 0) } m
  | 2, some (.core c) =>
    let k := coreAt m c
    setCore c { k with l1i := k.l1i.filter fun x => x != lineOf a } m
  | 3, _ => setTlb unit ((tlbOf m unit).filter fun e => !(e.pa ≤ a && a < e.pa + 2 ^ e.log)) m
  | 4, _ =>
    let kept := (Sparse.get [] m.walks unit).filter fun w => !(w.table ≤ a && a < w.table + 4096)
    { m with walks := Sparse.set m.walks unit kept }
  | _, _ => m

/-- An uncorrectable error in a line of a data L1 that holds its only copy: the unit is poisoned there, and at its home
once it is written back, as it may have been by now (R424). -/
def poisonL1 (unit a : Nat) (m : Module) : Module :=
  let dirty : Option (Nat × L1Line) := match unitOf unit with
    | some (.core c) => ((l1Find (coreAt m c) (lineOf a)).filter fun l => l.mask != 0).map fun l => (c, l)
    | _ => .none
  match dirty with
  | some (c, l) =>
    let k := coreAt m c
    let l := { l with poison := l.poison ||| (1#4 <<< (a % 128 / 32)) }
    setCore c { k with l1d := k.l1d.map fun x => if x.line == l.line then l else x } m
  | .none => markPoison a m

/-- What the module does about an error besides logging it (R424-R427). -/
def errorAction (cls dcode unit a info : Nat) (m : Module) : Module :=
  match cls, dcode with
  | 0x1, 0x03 => if a < extEnd then noteCorrected a m else m
  | 0x1, 0x04 => refetch unit a m
  | 0x2, 0x13 =>
    if a ≥ extEnd then m
    else
      let m := markPoison a m
      match heldWay m a with
      | some w => retireWay (homeSlice a) w m
      | .none => m
  | 0x2, 0x14 => if a < extEnd then poisonL1 unit a m else m
  | 0x2, _ => if a < extEnd then markPoison a m else m
  | 0x3, 0x25 =>
    let t := natBits info 24 16
    if t < 384 ∧ (threadAt m t).run ≠ .idle then endTask (threadAt m t).task { status := 0x51 } m else m
  | _, _ => m

/-- ERROR_DETECTED (R426): a way retirement and a FATAL error log themselves. -/
def detectError (cls : BitVec 4) (dcode : BitVec 8) (unit a info : Nat) (m : Module) : Module :=
  if cls = 5 then
    (if handleSlice 0 ≤ unit then
      match unitOf unit with
      | some (.slice sl) => retireWay sl (info % 16) m
      | _ => m
    else m)
  else if cls = 0xF then raiseFatal dcode unit a info m
  else errorAction cls.toNat dcode.toNat unit a info (raiseError cls dcode unit a info m)

/-- ERROR_DETECTED (R426). -/
def execErrorDetected (cls : BitVec 4) (dcode : BitVec 8) (unit : BitVec 15) (addr : Word) (info : BitVec 48) (s : State) :
    Outcome State Fault Refusal :=
  onModule (fun m =>
    if (1 ≤ cls.toNat && cls.toNat ≤ 8) || cls == 0xF then detectError cls dcode unit.toNat addr.toNat info.toNat m
    else m) s

/-- A write of HEAD of ER_PTR (R429). -/
def writeErHead (v : Nat) (m : Module) : Module :=
  let e := m.errors
  let v := v % 128
  if headAllowed 6 e.head.toNat e.tail.toNat v then { m with errors := { e with head := BitVec.ofNat 7 v } }
  else { m with errors := { e with badHead := true } }

/-- ER_PTR_HEAD_WRITE (R429). -/
def execErPtrHeadWrite (head : BitVec 32) (s : State) : Outcome State Fault Refusal := onModule (writeErHead head.toNat) s

/-! ## Counter clears (R433) -/

/-- The unit whose windows hold a counter; none for AUTH_FAIL, which is never cleared. -/
def counterUnit (key : Nat) : Option Nat :=
  let n := key % 65536 / 16
  match key / 65536 with
  | 0 | 5 | 6 | 14 => some 0
  | 1 => some (handleEvents n)
  | 2 => some (handleSlice n)
  | 3 => some (handleStack n)
  | 4 => some (if n < 256 then handleStack (n / 32) else if n < 320 then handleController ((n - 256) / 4)
               else handleWay (n - 320))
  | 7 => some (handlePort (n / 4) (n % 4))
  | 8 => some (handleWay n)
  | 9 => some handleIodW
  | 10 | 11 | 12 | 13 => some handleWeir
  | 15 => some handleSquall
  | 16 => some (handleCore n)
  | _ => .none

/-- A write of ER_CNTCLR. DEDUCED (log 57). -/
def writeCntClr (h : Nat) (m : Module) : Module :=
  if m.errors.clearing.isSome then m
  else
    let kept := m.stats.filter fun c => match counterUnit c.1 with
      | some u => !below h u
      | .none => true
    { m with stats := kept, errors := { m.errors with clearing := some (BitVec.ofNat 15 h) } }

/-- ER_CNTCLR (R433). -/
def execErCntclr (value : BitVec 32) (s : State) : Outcome State Fault Refusal :=
  onModule (writeCntClr (value.toNat % 2 ^ 15)) s

/-- CLEAR_COMPLETE (R433). -/
def execClearComplete (s : State) : Outcome State Fault Refusal :=
  onModule (fun m => { m with errors := { m.errors with clearing := .none } }) s

/-! ## The 24 V input and the regulators (R441-R444) -/

/-- INPUT_EXCURSION (R441): one record per excursion. -/
def execInputExcursion (s : State) : Outcome State Fault Refusal :=
  onModule (fun m =>
    if m.board.input && !m.board.excursion then
      raiseError 8 0x72 handleClocks 0 0 { m with board := { m.board with excursion := true } }
    else m) s

/-- INPUT_EXCURSION_END (R441). -/
def execInputExcursionEnd (s : State) : Outcome State Fault Refusal :=
  onModule (fun m => { m with board := { m.board with excursion := false } }) s

/-- INPUT_LOSS (R441, R444): the module is off until the input rises. -/
def execInputLoss (s : State) : Outcome State Fault Refusal :=
  onModule (fun m =>
    let m := powerOn m
    { m with board := { m.board with input := false } }) s

/-- Rails 5 to 3 shut down, and BAR0 goes on answering from rails 2 and 1 (R444). -/
def dropRails (m : Module) : Module := { m with board := { m.board with rails := 3 } }

/-- REGULATOR_FAULT (R442). -/
def execRegulatorFault (s : State) : Outcome State Fault Refusal :=
  onModule (fun m => if m.board.input then dropRails (raiseFatal 0xF2 handleClocks 0 0 m) else m) s

/-! ## Temperatures (R451) -/

/-- Dies that report: compute dies 0-3, I/O dies 4 and 5, Basin stacks 6-13. -/
def dieUnit (die : Nat) : Nat :=
  if die < 4 then handleDie die else if die = 4 then handleIodW else if die = 5 then handleIodE else handleStack (die - 6)

/-- Whether a die is present, and its rails up. -/
def diePowered (m : Module) (die : Nat) : Bool :=
  if die < 4 then m.board.rails.getLsbD 4
  else if die < 6 then m.board.rails.getLsbD 1
  else m.board.rails.getLsbD 3 && stackPresent m.board.part (die - 6)

/-- A reading in 1/256 °C. DESIGN CHOICE (log 9). -/
def takeReading (die : Nat) (r : BitVec 16) (m : Module) : Module :=
  let b := m.board
  let hot := r.toInt > 95 * 256
  let m := { m with board := { b with temp := Sparse.set b.temp die r, hot := Sparse.set b.hot die hot } }
  let m := if hot && !Sparse.get false b.hot die then raiseError 8 0x71 (dieUnit die) 0 0 m else m
  if r.toInt > 110 * 256 then
    let m := raiseFatal 0xF1 (dieUnit die) 0 0 m
    dropRails { m with board := { m.board with thermTrip := true } }
  else m

/-- A reading of a present die whose rails a regulator fault has just shut down: a trip may meet it (R451). -/
def meetsFault (m : Module) (die : Nat) : Bool :=
  m.board.input && m.errors.stopped && (m.errors.fatal.map (·.dcode)) == some 0xF2
    && (die < 6 || stackPresent m.board.part (die - 6))

/-- THERMAL_READING (R451). -/
def execThermalReading (die : Nat) (reading : BitVec 16) (s : State) : Outcome State Fault Refusal :=
  onModule (fun m => if die < 14 && (diePowered m die || meetsFault m die) then takeReading die reading m else m) s

/-! ## The management bus (R452, R453) -/

/-- The steward core answers from the end of boot step 2 until input loss. -/
def busAnswers (m : Module) : Bool := m.board.input && m.clocks.step ≥ 2

/-- The transaction names the module's address on the bus. -/
def busAddressed (m : Module) : Bool := m.board.busAddr == 0x58 + m.board.smbAddr.setWidth 7

/-- One bit of the packet error code of SMBus, a CRC-8 of polynomial 0x07, highest bit first. PRESUMED (log 58). -/
def pecBits : Nat → Nat → Nat
  | 0, c => c
  | n + 1, c => pecBits n (if c ≥ 128 then (2 * c % 256) ^^^ 7 else 2 * c)

def packetError (bs : List Byte) : Nat := bs.foldl (fun c b => pecBits 8 (c ^^^ b.toNat)) 0

/-- The bytes of a Block Read: how many, the bytes, and with PEC the code over the whole transaction. PRESUMED (log 58). -/
def blockRead (addr : BitVec 7) (code : Nat) (pec : Bool) (data : List Byte) : List Byte :=
  let bs := bytesOf 1 data.length ++ data
  let all := bytesOf 1 (2 * addr.toNat) ++ bytesOf 1 code ++ bytesOf 1 (2 * addr.toNat + 1) ++ bs
  if pec then bs ++ bytesOf 1 (packetError all) else bs

/-- A block read of a listed code, or a NACK. PRESUMED (log 58). -/
def busRead (code : Nat) (bytes : Module → List Byte) (s : State) : Outcome State Fault Refusal :=
  onModule (fun m =>
    let answer := if busAnswers m && busAddressed m then some (blockRead m.board.busAddr code m.board.busPec (bytes m))
      else .none
    { m with board := { m.board with smbus := answer } }) s

/-- The temperature a die reports: 0x8000 with its rails off. -/
def dieTemp (m : Module) (die : Nat) : BitVec 16 := if diePowered m die then Sparse.get 0 m.board.temp die else 0x8000

/-- The hottest of some dies. -/
def hottest (m : Module) (dies : List Nat) : List Byte :=
  bytesOf 2 (dies.foldl (fun (a : BitVec 16) d => if a.toInt < (dieTemp m d).toInt then dieTemp m d else a) 0x8000).toNat

/-- The part number, ASCII, padded with spaces. -/
def partName : Part → List Byte
  | .a => [0x46, 0x4C, 0x31, 0x2D, 0x41, 0x20, 0x20, 0x20]
  | .b => [0x46, 0x4C, 0x31, 0x2D, 0x42, 0x20, 0x20, 0x20]
  | .s => [0x46, 0x4C, 0x31, 0x2D, 0x53, 0x20, 0x20, 0x20]

/-- PART_NUMBER (R453). -/
def execPartNumber (s : State) : Outcome State Fault Refusal := busRead 0x01 (fun m => partName m.board.part) s

/-- SERIAL_NUMBER (R453): 16 bytes. -/
def execSerialNumber (s : State) : Outcome State Fault Refusal :=
  busRead 0x02 (fun m => (List.range 16).map fun i => m.board.serial.getD i 0) s

/-- SMBUS_AUTH_UID (R453). -/
def execSmbusAuthUid (s : State) : Outcome State Fault Refusal := busRead 0x03 (fun m => bytesOf 8 m.board.uid.toNat) s

/-- FIRMWARE_VERSION (R453). -/
def execFirmwareVersion (s : State) : Outcome State Fault Refusal := busRead 0x04 (fun m => bytesOf 4 m.board.running.toNat) s

/-- MODULE_TEMPERATURE (R453). -/
def execModuleTemperature (s : State) : Outcome State Fault Refusal := busRead 0x10 (fun m => hottest m (List.range 14)) s

/-- COMPUTE_DIE_TEMPERATURE (R453): codes 0x11 to 0x14. -/
def execComputeDieTemperature (d : Nat) (s : State) : Outcome State Fault Refusal :=
  busRead (0x11 + d % 4) (fun m => bytesOf 2 (dieTemp m (d % 4)).toNat) s

/-- IO_DIE_TEMPERATURE (R453): codes 0x15 and 0x16. -/
def execIoDieTemperature (d : Nat) (s : State) : Outcome State Fault Refusal :=
  busRead (0x15 + d % 2) (fun m => bytesOf 2 (dieTemp m (4 + d % 2)).toNat) s

/-- BASIN_STACK_TEMPERATURE (R453): the hottest present stack. -/
def execBasinStackTemperature (s : State) : Outcome State Fault Refusal :=
  busRead 0x17 (fun m => hottest m ((List.range 8).map (6 + ·))) s

/-- SMBUS_NACK (R452): a write, of whatever code, or a command code not listed. -/
def execSmbusNack (_command : BitVec 8) (s : State) : Outcome State Fault Refusal :=
  onModule (fun m => { m with board := { m.board with smbus := .none } }) s

end Sys2Proof.Machine
end

