-- ==== Sys2Proof/Machine/RegMap.lean ====
section
/-! DEFINITION. The registers of BAR0 and where each stands (R11, R37, R456, and the register tables of every chapter). -/

namespace Sys2Proof.Machine

/-- A register of BAR0, by its name in the manual. -/
inductive BarReg where
  | header (h i : Nat)
  | rootIfrev | bootStatus
  | sqBase (r : Nat) | sqCtrl (r : Nat) | sqHead (r : Nat) | sqTail (r : Nat) | sqStatus (r : Nat)
  | cqBase (r : Nat) | cqCtrl (r : Nat) | cqMod (r : Nat) | cqPtr (r : Nat)
  | hqErrvec | msix (v i : Nat) | msixPending (j : Nat)
  | hgCtrl | hgStatus | hgReserve | hgToken (w : Nat) | hgStat (k : Nat)
  | mmuAsid (a : Nat) | mmuHost (a : Nat) | mmuInv | mmuInvstat
  | gvTree | gvCtrl | gvStepcnt | gvStatus | gvBank (b : Nat) | gvRep (b i : Nat) | gvStat (k : Nat)
  | upFreeze (w : Nat) | upFreezegen | upStat (k : Nat)
  | authUid | authSlot (n : Nat) | authLast (n : Nat) | authCeil (n : Nat) | authFail (k : Nat)
  | ckSrc | ckStatus | ckMon | ckLoop (n : Nat) | ckEn (w : Nat) | ckGtouch (w : Nat)
  | pwCtrl | pwStatus | rsSeed
  | portStatus (w i : Nat) | portCtrl (w i : Nat) | portStat (w i k : Nat)
  | wayStatus (w : Nat) | wayStat (w k : Nat)
  | swNode | swCtrl | swGchild (c : Nat) | swTable (j : Nat) | swStat (k : Nat)
  | arbShadow (a q : Nat) | arbActive (a q : Nat) | arbCommit (a : Nat) | arbStatus (a : Nat)
  | arbRstat (a q : Nat) | arbStat (a k : Nat)
  | wrCtrl | wrStatus | wrStat (k : Nat) | wrEtab (e n : Nat) | wrEdrop (e : Nat) | wrEspill (e : Nat)
  | wrErefuse (e : Nat) | wrEstate (e : Nat)
  | sqlStatus | sqlCfg (j : Nat) | sqlStat (k : Nat)
  | frBase | frCtrl | frPtr | frResume | frStatus
  | erCtrl | erStatus | erPtr | erCntclr | erStat (k : Nat) | erLog (e i : Nat) | erFatal (i : Nat)
  | pcSel (c n : Nat) | pcCnt (c n : Nat)
  | llcCtrl (sl : Nat) | llcStatus (sl : Nat) | llcWayen (sl : Nat) | llcWaystat (sl : Nat) | llcStat (sl k : Nat)
  | evPend (d w : Nat) | evSwset (d : Nat) | evLine (d : Nat) | evTarget (d s : Nat) | evCtrl (d s : Nat)
  | evClaim (d s : Nat) | evStat (d k : Nat)
  | scAmax (b t : Nat) | scPend (b t : Nat)
  | gpFold (d : Nat) | gpBank (b : Nat) | gpStepcnt | hzOffer
  | wpPost (d : Nat) | wpReturn
  | bsCtrl (st : Nat) | bsJobpost (st : Nat) | bsStatus (st : Nat) | bsErr (st : Nat) | bsStat (st k : Nat)
  deriving Repr

/-- What stands at an offset: the register, the offset within it, and whether it has 64 bits. -/
abbrev Slot := BarReg × Nat × Bool

/-- `n` registers of 32 or 64 bits, `stride` bytes apart from `base`. -/
def row (wide : Bool) (base stride n : Nat) (mk : Nat → BarReg) (o : Nat) : Option Slot :=
  if base ≤ o && (o - base) / stride < n && (o - base) % stride < (if wide then 8 else 4) then
    some (mk ((o - base) / stride), (o - base) % stride, wide)
  else .none

/-- One 32-bit register; one 64-bit register. -/
def one32 (base : Nat) (r : BarReg) : Nat → Option Slot := row false base 4 1 fun _ => r
def one64 (base : Nat) (r : BarReg) : Nat → Option Slot := row true base 8 1 fun _ => r

/-- The first row that has a register at `o`. -/
def pick (l : List (Nat → Option Slot)) (o : Nat) : Option Slot := l.findSome? fun f => f o

/-- The root block (R22, R32). -/
def rootRegs : Nat → Option Slot :=
  pick [fun o => if o < 0xFF000 then row true 0 8 (4 * 32640) (fun k => .header (k / 4) (k % 4)) o else .none,
    one32 0xFF000 .rootIfrev, one32 0xFF010 .bootStatus]

/-- The host queue control block, from its base (03, 05, 11, 14, 15). -/
def queueRegs : Nat → Option Slot :=
  pick [row true 0x00 0x40 1024 .sqBase, row false 0x08 0x40 1024 .sqCtrl, row false 0x0C 0x40 1024 .sqHead,
    row false 0x10 0x40 1024 .sqTail, row false 0x14 0x40 1024 .sqStatus, row true 0x18 0x40 1024 .cqBase,
    row false 0x20 0x40 1024 .cqCtrl, row false 0x24 0x40 1024 .cqMod, row true 0x28 0x40 1024 .cqPtr,
    one32 0x10000 .hqErrvec, row false 0x20000 4 8192 (fun k => .msix (k / 4) (k % 4)),
    row true 0x30000 8 32 .msixPending,
    one32 0x40000 .hgCtrl, one32 0x40008 .hgStatus, one64 0x40010 .hgReserve,
    row true 0x41000 8 64 .hgToken, row true 0x42000 8 6 .hgStat,
    row true 0x50000 16 64 .mmuAsid, row true 0x50008 16 64 .mmuHost, one64 0x51000 .mmuInv, one32 0x51008 .mmuInvstat,
    one64 0x60000 .gvTree, one32 0x60008 .gvCtrl, one64 0x60010 .gvStepcnt, one32 0x60018 .gvStatus,
    row true 0x60020 8 2 .gvBank, row true 0x60040 8 6 (fun k => .gvRep (k / 3) (k % 3)), row true 0x60100 8 8 .gvStat,
    row true 0x70000 8 64 .upFreeze, one32 0x70200 .upFreezegen, row true 0x71000 8 7 .upStat]

/-- The command authenticator (04). -/
def authRegs : Nat → Option Slot :=
  pick [one64 0 .authUid, row false 0x100 0x20 4 .authSlot, row true 0x108 0x20 4 .authLast,
    row true 0x110 0x20 4 .authCeil, row true 0x200 8 4 .authFail]

/-- Clocks and power (18). -/
def clockRegs : Nat → Option Slot :=
  pick [one32 0 .ckSrc, one32 8 .ckStatus, one32 0x10 .ckMon, row true 0x100 16 10 .ckLoop, one32 0x200 .pwCtrl,
    one32 0x208 .pwStatus, one64 0x300 .rsSeed, row true 0x1000 8 6 .ckEn, row true 0x1100 8 6 .ckGtouch]

/-- The registers of an arbiter instance (13); those of requesters its site does not list are absent (R298). -/
def arbRegs (a : Nat) : Nat → Option Slot :=
  let n := (arbRequesters a).length
  pick [row false 0 4 n (.arbShadow a), row false 0x20 4 n (.arbActive a), one32 0x40 (.arbCommit a),
    one32 0x44 (.arbStatus a), row true 0x60 8 n (.arbRstat a), row true 0xA0 8 6 (.arbStat a)]

/-- A way's window (16). -/
def wayRegs (w : Nat) (o : Nat) : Option Slot :=
  if o < 0x400 then
    pick [one32 0x40 (.portStatus w (o / 0x100)), one32 0x44 (.portCtrl w (o / 0x100)),
      row true 0x80 8 6 (.portStat w (o / 0x100))] (o % 0x100)
  else if 0x1000 ≤ o && o < 0x1100 then arbRegs (320 + w) (o - 0x1000)
  else pick [one32 0x800 (.wayStatus w), row true 0x900 8 9 (.wayStat w)] o

/-- The Sluiceway block (16). -/
def sluiceRegs (o : Nat) : Option Slot :=
  if o < 0x40000 then wayRegs (o / 0x10000) (o % 0x10000)
  else
    pick [one32 0 .swNode, one32 8 .swCtrl, row false 0x10 4 8 .swGchild, row true 0x800 8 256 .swTable,
      row true 0x1000 8 7 .swStat] (o - 0x40000)

/-- The Weir (17). -/
def weirRegs : Nat → Option Slot :=
  pick [one32 0 .wrCtrl, one32 8 .wrStatus, row true 0x100 8 13 .wrStat,
    fun o => if 0x10000 ≤ o && o < 0x50000 && o % 0x40 < 0x30 then
        row true 0x10000 8 0x8000 (fun k => .wrEtab (k / 8) (k % 8)) o
      else .none,
    row true 0x50000 8 4096 .wrEdrop, row true 0x58000 8 4096 .wrEspill, row true 0x60000 8 4096 .wrErefuse,
    row true 0x68000 8 4096 .wrEstate]

/-- Squall (19). -/
def squallRegs : Nat → Option Slot :=
  pick [one32 0 .sqlStatus, row true 0x100 8 3 .sqlCfg, row true 0x200 8 5 .sqlStat]

/-- The fault ring and error reporting (03, 19). -/
def faultRegs : Nat → Option Slot :=
  pick [one64 0 .frBase, one32 8 .frCtrl, one64 0x10 .frPtr, one64 0x18 .frResume, one32 0x20 .frStatus,
    one32 0x800 .erCtrl, one32 0x808 .erStatus, one64 0x810 .erPtr, one32 0x818 .erCntclr, row true 0x900 8 11 .erStat,
    row true 0x1000 8 256 (fun k => .erLog (k / 4) (k % 4)), row true 0x1800 8 4 .erFatal]

/-- An LPDDR5X controller's window: the arbiters of its channels (13). -/
def controllerRegs (p : Nat) (o : Nat) : Option Slot :=
  if 0x1000 ≤ o && o < 0x1400 then arbRegs (256 + 4 * p + (o - 0x1000) / 0x100) (o % 0x100) else .none

/-- A core's window (19). -/
def coreRegs (c : Nat) : Nat → Option Slot := pick [row false 0x100 8 8 (.pcSel c), row true 0x200 8 8 (.pcCnt c)]

/-- A slice's window (11). -/
def sliceRegs (sl : Nat) : Nat → Option Slot :=
  pick [one32 0 (.llcCtrl sl), one32 4 (.llcStatus sl), one32 8 (.llcWayen sl), one32 0xC (.llcWaystat sl),
    row true 0x100 8 16 (.llcStat sl)]

/-- An event controller's window (07). -/
def eventRegs (d : Nat) : Nat → Option Slot :=
  pick [row true 0 8 8 (.evPend d), one64 0x40 (.evSwset d), one64 0x48 (.evLine d), row true 0x1000 16 512 (.evTarget d),
    row false 0x1008 16 512 (.evCtrl d), row false 0x4000 4 512 (.evClaim d), row true 0x5000 8 5 (.evStat d)]

/-- A stack's window (12, 13). -/
def stackRegs (st : Nat) (o : Nat) : Option Slot :=
  if 0x1000 ≤ o && o < 0x3000 then arbRegs (32 * st + (o - 0x1000) / 0x100) (o % 0x100)
  else
    pick [one32 0 (.bsCtrl st), one64 8 (.bsJobpost st), one32 0x10 (.bsStatus st), one32 0x18 (.bsErr st),
      row true 0x100 8 15 (.bsStat st)] o

/-- The block of compute die `d` (R456). -/
def dieRegs (d o : Nat) : Option Slot :=
  if o < 0x300000 then coreRegs (48 * d + o / 0x10000) (o % 0x10000)
  else if 0x400000 ≤ o && o < 0x500000 then sliceRegs (16 * d + (o - 0x400000) / 0x10000) (o % 0x10000)
  else if 0x800000 ≤ o && o < 0x810000 then eventRegs d (o - 0x800000)
  else if 0xC00000 ≤ o && o < 0xC02000 then
    row false 0 4 2048 (fun k => .scAmax (k / 1024) (1024 * d + k % 1024)) (o - 0xC00000)
  else if 0xC10000 ≤ o && o < 0xC14000 then
    row true 0 8 2048 (fun k => .scPend (k / 1024) (1024 * d + k % 1024)) (o - 0xC10000)
  else if 0xD00000 ≤ o && o < 0xD10000 then
    pick [one32 0 (.gpFold d), row true 0x10 8 2 .gpBank, one64 0x20 .gpStepcnt, one64 0x100 .hzOffer] (o - 0xD00000)
  else if 0xD10000 ≤ o && o < 0xD20000 then pick [one64 0 (.wpPost d), one64 8 .wpReturn] (o - 0xD10000)
  else if 0xE00000 ≤ o then stackRegs (2 * d + (o - 0xE00000) / 0x100000) (o % 0x100000)
  else .none

/-- The register at a BAR0 offset (R456). DEDUCED (log 59). -/
def regAt (o : Nat) : Option Slot :=
  match o / 0x100000 with
  | 0 => rootRegs o
  | 1 => queueRegs (o - 0x100000)
  | 2 => authRegs (o - 0x200000)
  | 3 => clockRegs (o - 0x300000)
  | 4 => sluiceRegs (o - 0x400000)
  | 5 => weirRegs (o - 0x500000)
  | 6 => squallRegs (o - 0x600000)
  | 7 => faultRegs (o - 0x700000)
  | 8 => controllerRegs ((o - 0x800000) / 0x10000) (o % 0x10000)
  | b => if 16 ≤ b && b < 80 then dieRegs (b / 16 - 1) (o % 0x1000000) else .none

/-! ## Units of the windows (R458) -/

/-- The innermost unit whose window holds an offset. -/
def windowUnit (o : Nat) : Nat :=
  let b := o / 0x100000
  if b = 1 then handleHostPort
  else if b = 2 then (if o % 0x100000 < 0x1000 then handleAuth else 0)
  else if b = 3 then (if o % 0x100000 < 0x2000 then handleClocks else 0)
  else if b = 4 then (if o % 0x100000 < 0x40000 then handleWay (o % 0x100000 / 0x10000) else 0)
  else if b = 5 then handleWeir
  else if b = 6 then (if o % 0x100000 < 0x1000 then handleSquall else 0)
  else if b = 8 then handleController (o % 0x100000 / 0x10000)
  else if b = 9 then (if o % 0x100000 < 0x20000 then handleDma (o % 0x100000 ≥ 0x10000) else 0)
  else if 16 ≤ b && b < 80 then
    let d := b / 16 - 1
    let p := o % 0x1000000
    if p < 0x300000 then handleCore (48 * d + p / 0x10000)
    else if 0x400000 ≤ p && p < 0x500000 then handleSlice (16 * d + (p - 0x400000) / 0x10000)
    else if 0x800000 ≤ p && p < 0x810000 then handleEvents d
    else if 0xE00000 ≤ p then handleStack (2 * d + (p - 0xE00000) / 0x100000)
    else handleDie d
  else 0

/-- The unit whose absence hides an offset (R3): the port of a way's port registers, the stack of a scale fold, and a
way for the module-wide Sluiceway registers. -/
def ownerUnit (o : Nat) : Nat :=
  match regAt o with
  | some (.scAmax _ t, _, _) | some (.scPend _ t, _, _) => handleStack (t / 512)
  | _ =>
    if 0x400000 ≤ o && o < 0x500000 then
      let p := o - 0x400000
      if p ≥ 0x40000 then handleWay 0
      else if p % 0x10000 < 0x400 then handlePort (p / 0x10000) (p % 0x10000 / 0x100)
      else handleWay (p / 0x10000)
    else windowUnit o

/-- The unit whose gating shuts an offset (R412); the module-wide Sluiceway registers stand in no way's window. -/
def gatingUnit (o : Nat) : Nat :=
  match regAt o with
  | some (.scAmax _ t, _, _) | some (.scPend _ t, _, _) => handleStack (t / 512)
  | _ => windowUnit o

end Sys2Proof.Machine
end

