-- ==== Sys2Proof/Machine/Reg.lean ====
section
/-! DEFINITION. What every register reads as and what a write of it does (R8-R13, R23, R456), and accesses of a bad
width (R11). -/

namespace Sys2Proof.Machine

open Host

/-! ## Packing fields -/

def bit1 (b : Bool) (i : Nat) : Nat := if b then 2 ^ i else 0
def at_ (v i : Nat) : Nat := v * 2 ^ i

/-! ## Counters (R432) -/

/-- The counter a register shows. -/
def counterOfReg : BarReg → Option (Stat × Nat × Nat)
  | .hgStat k => some (.hg, 0, k)
  | .gvStat k => some (.gate, 0, k)
  | .upStat k => some (.update, 0, k)
  | .authFail k => some (.auth, 0, k)
  | .portStat w i k => some (.port, 4 * w + i, k)
  | .wayStat w k => some (.way, w, k)
  | .swStat k => some (.fabric, 0, k)
  | .arbStat a k => some (.arb, a, k)
  | .wrStat k => some (.weir, 0, k)
  | .wrEdrop e => some (.edrop, e, 0)
  | .wrEspill e => some (.espill, e, 0)
  | .wrErefuse e => some (.erefuse, e, 0)
  | .sqlStat k => some (.squall, 0, k)
  | .erStat k => some (.errors, 0, k)
  | .pcCnt c n => some (.core, c, n)
  | .llcStat sl k => some (.llc, sl, k)
  | .evStat d k => some (.events, d, k)
  | .bsStat st k => some (.basin, st, k)
  | _ => .none

def Counter.word (c : Counter) : Nat := bit1 c.ovf 63 + c.count.toNat

/-- A write of a counter register: 1 clears OVF (R432). -/
def clearOvf (g : Stat) (n k : Nat) (m : Module) : Module :=
  { m with stats := Sparse.set m.stats (statKey g n k) { statOf m g n k with ovf := false } }

/-! ## Reads -/

/-- The headers read as zero until boot has built the tree (R24, R423). -/
def treeBuilt (m : Module) : Bool := m.clocks.step == 10

def readRing (x : Ring) : BarReg → Nat
  | .sqBase _ => x.sqBase.toNat
  | .sqCtrl _ => bit1 x.enable 31 + at_ x.prio.toNat 29 + at_ x.sqLog.toNat 24
  | .sqHead _ => x.sqHead.toNat
  | .sqTail _ => x.sqTail.toNat
  | .sqStatus _ =>
    bit1 x.quiesced 6 + bit1 x.halted 5 + bit1 x.fetchErr 4 + bit1 x.cqDbErr 3 + bit1 x.dbErr 2 + bit1 x.enReject 1
  | .cqBase _ => x.cqBase.toNat
  | .cqCtrl _ => at_ x.cqLog.toNat 24 + at_ x.modCount.toNat 16 + x.vector.toNat
  | .cqMod _ => x.modTimer.toNat
  | _ => at_ x.cqHead.toNat 32 + x.cqTail.toNat

def readMsix (e : Msix) : Nat → Nat
  | 0 => e.addr.toNat % 2 ^ 32
  | 1 => e.addr.toNat / 2 ^ 32
  | 2 => e.data.toNat
  | _ => e.control.toNat

def BankState.code : BankState → Nat
  | .idle => 0
  | .collecting => 1
  | .sent => 2
  | .opened => 3
  | .refused => 4

def Bank.word (b : Bank) : Nat :=
  at_ b.state.code 61 + bit1 b.opened 60 + bit1 b.cast.isSome 59 + bit1 b.nonfin 58 + at_ b.kids.length 54 + b.step.toNat

/-- GV_REPA, GV_REPB and GV_REPC. -/
def Report.word (r : Report) : Nat → Nat
  | 0 => at_ r.reason.toNat 48 + r.min.toNat
  | 1 => r.max.toNat
  | _ => bit1 r.finite 35 + at_ r.members.toNat 24 + at_ r.node.toNat 12 + r.layer.toNat

def PortState.code : PortState → Nat
  | .disabled => 0
  | .loopback => 1
  | .wait => 2
  | .train => 3
  | .align => 4
  | .handshake => 5
  | .active => 6
  | .failed => 7

/-- STATE of AUTH_SLOT (R77). -/
def KeySlot.code (k : KeySlot) : Nat := if k.key.isNone then 0 else if k.active then 1 else 2

def readWay (m : Module) (w : Nat) : Nat :=
  let y := wayAt m w
  bit1 y.up 31 + bit1 y.hold 30 + bit1 y.misWire 29
    + at_ ((List.range 4).foldl (fun n i => n + bit1 (portAt m w i).matched i) 0) 24 + at_ (if y.up then y.neigh.toNat else 0) 12

/-- A requester's ARB_RSTAT: it holds the resource as the owner of the coming data phase (R300), and is pending while an
access of its waits. -/
def readRstat (m : Module) (a q : Nat) : Nat :=
  let x := arbAt m a
  let r := x.req a q
  let pend := r.pending || transfersWaiting m a q > 0
  at_ r.age 48 + at_ r.backoff 32 + at_ r.used 16 + at_ (match r.transfer with
    | some t => t.2 % 16
    | .none => 0) 4
    + bit1 (x.owner == some q && r.transfer.isSome) 3 + bit1 pend 2 + r.tier

/-- STATE of WR_ESTATE: its reset value until the expert's table entry is written, then whether this module hosts it
and in what state. DESIGN CHOICE (log 52). -/
def expertStateCode (m : Module) (k : Expert) : Nat :=
  if k.body.isEmpty then 0
  else if !hosted m k then 3
  else match k.state with
    | .opened => 0
    | .closed => 1
    | .returning => 2

def readExpert (m : Module) (e : Nat) : Nat :=
  let k := expertAt m e
  let st := expertStateCode m k
  at_ st 48 + at_ k.round.toNat 32 + at_ k.ends 16 + Nat.min k.slots.length 65535

def readLoop (l : Loop) : Nat :=
  bit1 l.lock 63 + bit1 l.coast 62 + bit1 l.coasted 61 + bit1 (l.phase != .none) 60 + at_ l.src.toNat 58
    + at_ l.mult.toNat 8 + l.div

/-- Bits `64 w` to `64 w + 63` of a table of units. -/
def unitBits (w : Nat) (f : Nat → Bool) : Nat := (List.range 64).foldl (fun n i => n + bit1 (f (64 * w + i)) i) 0

def ErrorRecord.word (r : ErrorRecord) : Nat → Nat
  | 0 => at_ r.cls.toNat 60 + at_ r.dcode.toNat 48 + at_ r.unit.toNat 32 + r.seq.toNat
  | 1 => r.addr.toNat
  | 2 => at_ r.rep.toNat 48 + r.info.toNat
  | _ => r.time.toNat

/-- The registers of the host port and the Headgate blocks. -/
def readQueue (m : Module) (r : BarReg) : Nat :=
  match r with
  | .sqBase x | .sqCtrl x | .sqHead x | .sqTail x | .sqStatus x | .cqBase x | .cqCtrl x | .cqMod x | .cqPtr x =>
    readRing (ringAt m x) r
  | .hqErrvec => bit1 m.host.errEn 31 + m.host.errVector.toNat
  | .msix v i => readMsix (Sparse.get {} m.host.msix v) i
  | .msixPending j => (List.range 64).foldl (fun n i => n + bit1 (Sparse.get false m.host.msixPend (64 * j + i)) i) 0
  | .hgCtrl => at_ m.hg.stall.toNat 16 + m.hg.reserve.toNat
  | .hgStatus => bit1 m.hg.stallSeen 17 + bit1 m.hg.rsv.isSome 16 + m.hg.pool.length
  | .hgReserve =>
    match m.hg.rsv with
    | some x => at_ x.ring 32 + at_ x.index.toNat 16 + x.handle
    | .none => 0
  | .hgToken w => bitsOf m.hg.tokens (64 * w + 63) (64 * w)
  | .mmuAsid a => (Sparse.get 0 m.host.mmuAsid a : Word).toNat
  | .mmuHost a => (Sparse.get 0 m.host.mmuHost a : Word).toNat
  | .mmuInvstat => bit1 m.host.invIgn 1 + bit1 m.host.inv.isSome 0
  | .gvTree =>
    let g := m.gate
    at_ g.parent.toNat 32 + bit1 g.root 31 + at_ g.children.length 24 + g.members.toNat
  | .gvCtrl => at_ m.gate.timeout.toNat 16 + bit1 m.gate.force 0
  | .gvStepcnt | .gpStepcnt => m.gate.stepCount.toNat
  | .gvStatus =>
    let g := m.gate
    bit1 g.timedOut 4 + bit1 g.dupCast 3 + bit1 g.late 2 + bit1 g.noRole 1 + bit1 g.loadRej 0
  | .gvBank b | .gpBank b => (bankAt m.gate b).word
  | .gvRep b i => (bankAt m.gate b).report.word i
  | .upFreeze w => bitsOf m.freezeTab (64 * w + 63) (64 * w)
  | .upFreezegen => m.freezeGen.toNat
  | _ => 0

/-- The registers of the authenticator, clocks, fabric, Weir, Squall and errors. -/
def readIo (au : Auth) (m : Module) (r : BarReg) : Nat :=
  match r with
  | .authUid => m.board.uid.toNat
  | .authSlot n => at_ (slotAt au n).perms.toNat 8 + (slotAt au n).code
  | .authLast n => (slotAt au n).last.toNat
  | .authCeil n => (slotAt au n).ceil.toNat
  | .ckSrc => at_ m.clocks.srcFail.toNat 4 + m.clocks.srcGood.toNat
  | .ckStatus => bit1 m.clocks.gtouchAny 1 + bit1 m.clocks.gateRej 0
  | .ckMon => at_ m.clocks.monDiv.toNat 16 + bit1 (monOver m) 15 + m.clocks.monSel.toNat
  | .ckLoop n => readLoop (loopAt m n)
  | .ckEn w => unitBits w fun h => handlePresent m.board.part h && !m.clocks.gated.getLsbD h
  | .ckGtouch w => unitBits w m.clocks.touched.getLsbD
  | .pwCtrl => bit1 m.clocks.standbyReq 0
  | .pwStatus => bit1 m.clocks.rej 2 + bit1 m.clocks.moving 1 + bit1 m.clocks.standby 0
  | .rsSeed => m.clocks.seed.toNat
  | .portStatus w i =>
    let p := portAt m w i
    at_ p.lock.toNat 16 + at_ p.reason.toNat 8 + p.state.code
  | .portCtrl w i => bit1 (portAt m w i).enable 31 + (portAt m w i).errMax.toNat
  | .wayStatus w => readWay m w
  | .swNode =>
    let f := m.fabric
    bit1 f.valid 31 + bit1 f.order 30 + at_ f.ny.toNat 24 + at_ f.nx.toNat 18 + f.node.toNat
  | .swCtrl => at_ m.fabric.rto.toNat 16 + bit1 m.fabric.combine 0
  | .swGchild c => if c < m.gate.children.length then 2 ^ 31 + (m.gate.children.getD c 0).toNat else 0
  | .swTable j => bitsOf m.fabric.table (64 * j + 63) (64 * j)
  | .arbShadow a q => at_ ((arbAt m a).req a q).shadowPrio.toNat 16 + ((arbAt m a).req a q).shadowQuota.toNat
  | .arbActive a q => at_ ((arbAt m a).req a q).prio.toNat 16 + ((arbAt m a).req a q).quota.toNat
  | .arbStatus a => bit1 (arbAt m a).commit.isSome 16 + (arbAt m a).window
  | .arbRstat a q => readRstat m a q
  | .wrCtrl => at_ m.weir.tto.toNat 24 + at_ m.weir.cto.toNat 16 + at_ m.weir.retry.toNat 8
  | .wrStatus =>
    let x := m.weir
    bit1 x.badReturn 31 + bit1 x.badMsg 30 + bit1 x.hostPost 29 + at_ x.batches.length 18 + x.entries.length
  | .wrEtab e n => field (expertAt m e).body (8 * n) 8
  | .wrEstate e => readExpert m e
  | .sqlStatus => bit1 m.squall.active 31 + m.squall.knobs.toNat
  | .sqlCfg j => field m.squall.cfg (8 * j) 8
  | .frBase => m.faults.base.toNat
  | .frCtrl => bit1 m.faults.enable 31 + at_ m.faults.log.toNat 24 + m.faults.vector.toNat
  | .frPtr => at_ m.faults.head.toNat 32 + m.faults.tail.toNat
  | .frStatus =>
    let f := m.faults
    bit1 f.disabledFault 3 + bit1 f.waitFull 2 + bit1 f.badResume 1 + bit1 f.badHead 0
  | .erCtrl => bit1 m.errors.en 31 + bit1 m.errors.logCe 30 + at_ m.errors.irqMask.toNat 12 + m.errors.vector.toNat
  | .erStatus =>
    let e := m.errors
    bit1 e.clearing.isSome 3 + bit1 e.fatal.isSome 2 + bit1 e.badHead 1 + bit1 e.lost 0
  | .erPtr => at_ m.errors.head.toNat 32 + m.errors.tail.toNat
  | .erLog e i => (Sparse.get {} m.errors.log e : ErrorRecord).word i
  | .erFatal i => (m.errors.fatal.getD {}).word i
  | _ => 0

/-- The registers of the compute dies. -/
def readDie (m : Module) (r : BarReg) : Nat :=
  match r with
  | .pcSel c n => (Sparse.get 0x1F000000 (coreAt m c).pcSel n : BitVec 32).toNat
  | .llcCtrl sl =>
    let s := sliceAt m sl
    at_ s.bankCap.toNat 16 + bit1 s.dfEv 8 + bit1 s.pfEn 3 + s.pfDepth.toNat
  | .llcStatus sl => at_ (sliceAt m sl).evicted.length 9 + (sliceAt m sl).misses.length
  | .llcWayen sl => (sliceAt m sl).wayEn.toNat
  | .llcWaystat sl => bit1 (sliceAt m sl).busyWays 16 + (sliceAt m sl).wayOn.toNat
  | .evPend d w => bitsOf (eventsOf m d).pend (64 * w + 63) (64 * w)
  | .evSwset d => bitsOf (eventsOf m d).pend 63 0
  | .evLine d => (List.range 48).foldl (fun n i => n + bit1 (eventLine m (48 * d + i)) i) 0
  | .evTarget d s => (Sparse.get 0 (eventsOf m d).mask s : BitVec 48).toNat
  | .evCtrl d s =>
    let e := eventsOf m d
    bit1 (e.en.getLsbD s) 31 + bit1 (e.held.getLsbD s) 30 + (Sparse.get 0 e.mod s : BitVec 16).toNat
  | .evClaim _ _ => 0x3FF
  | .scPend b t =>
    let p : Pend := Sparse.get {} (stackAt m (tensorStack t)).pend (pendKey b t)
    bit1 p.nonfin 33 + bit1 p.v 32 + p.p.toNat
  | .bsCtrl st =>
    let k := stackAt m st
    at_ k.bankCap.toNat 16 + bit1 k.pfEn 8 + k.pfDepth.toNat
  | .bsStatus st =>
    let k := stackAt m st
    at_ k.held.length 16 + at_ (busyEngines k) 9 + queuedJobs k
  | .bsErr st =>
    let k := stackAt m st
    at_ k.lastStatus.toNat 16 + bit1 k.conflict 2 + bit1 k.badRec 1 + bit1 k.hostPost 0
  | _ => 0

/-- The value a register holds for a reader; write-only registers read as zero (R8). -/
def regValue (au : Auth) (m : Module) (r : BarReg) : Nat :=
  match counterOfReg r with
  | some c => (statOf m c.1 c.2.1 c.2.2).word
  | .none =>
    match r with
    | .header h i => if treeBuilt m then (headerWord m.board.part h i).toNat else 0
    | .rootIfrev => at_ supported.toNat 16 + bit1 m.host.reject 9 + bit1 (m.host.select != 0) 8 + m.host.select.toNat
    | .bootStatus =>
      let c := m.clocks
      at_ c.cause.toNat 28 + at_ c.step 24 + bit1 c.bootFail 23 + bit1 c.fallback 22 + bit1 c.bank 21 + at_ c.code.toNat 8
        + c.whereAt.toNat
    | .pcSel _ _ | .llcCtrl _ | .llcStatus _ | .llcWayen _ | .llcWaystat _ | .evPend _ _ | .evSwset _ | .evLine _
    | .evTarget _ _ | .evCtrl _ _ | .evClaim _ _ | .scPend _ _ | .bsCtrl _ | .bsStatus _ | .bsErr _ => readDie m r
    | .sqBase _ | .sqCtrl _ | .sqHead _ | .sqTail _ | .sqStatus _ | .cqBase _ | .cqCtrl _ | .cqMod _ | .cqPtr _
    | .hqErrvec | .msix _ _ | .msixPending _ | .hgCtrl | .hgStatus | .hgReserve | .hgToken _ | .mmuAsid _ | .mmuHost _
    | .mmuInvstat | .gvTree | .gvCtrl | .gvStepcnt | .gpStepcnt | .gvStatus | .gvBank _ | .gpBank _ | .gvRep _ _
    | .upFreeze _ | .upFreezegen => readQueue m r
    | _ => readIo au m r

/-! ## Writes -/

/-- A sticky bit under a write that clears it with 1 (R8). -/
def w1c (b : Bool) (v i : Nat) : Bool := b && !natBit v i

/-- A write of an MSI-X table word: unmasking an entry with a pending bit sends its message, as PCI Express defines.
PRESUMED (log 7). -/
def writeMsix (v i : Nat) (x : Nat) (m : Module) : Module :=
  let e : Msix := Sparse.get {} m.host.msix v
  let e := match i with
    | 0 => { e with addr := BitVec.ofNat 64 (e.addr.toNat / 2 ^ 32 * 2 ^ 32 + x / 4 * 4) }
    | 1 => { e with addr := BitVec.ofNat 64 (x * 2 ^ 32 + e.addr.toNat % 2 ^ 32) }
    | 2 => { e with data := BitVec.ofNat 32 x }
    | _ => { e with control := BitVec.ofNat 32 (x % 2) }
  let m := { m with host := { m.host with msix := Sparse.set m.host.msix v e } }
  if !e.control.getLsbD 0 && Sparse.get false m.host.msixPend v then
    signal (BitVec.ofNat 11 v) { m with host := { m.host with msixPend := Sparse.del m.host.msixPend v } }
  else m

def writeRingReg (x : Ring) (v : Nat) : BarReg → Ring
  | .sqBase _ => if x.enable then x else { x with sqBase := BitVec.ofNat 64 (v / 4096 * 4096) }
  | .sqStatus _ =>
    { x with fetchErr := w1c x.fetchErr v 4, cqDbErr := w1c x.cqDbErr v 3, dbErr := w1c x.dbErr v 2,
             enReject := w1c x.enReject v 1 }
  | .cqBase _ => if x.enable then x else { x with cqBase := BitVec.ofNat 64 (v / 4096 * 4096) }
  | .cqCtrl _ =>
    { x with
      cqLog := if x.enable then x.cqLog else BitVec.ofNat 5 (natBits v 28 24)
      modCount := BitVec.ofNat 8 (natBits v 23 16), vector := BitVec.ofNat 11 v }
  | .cqMod _ => { x with modTimer := BitVec.ofNat 10 v }
  | _ => x

/-- Writes of the host port and Headgate blocks; `low` tells whether bits 31:0 are written. A high half of MMU_INV that comes
alone does nothing: DESIGN CHOICE (log 59). Any agent that reaches GV_STEPCNT loads it: DESIGN CHOICE (log 22). -/
def writeQueue (low : Bool) (r : BarReg) (v : Nat) (m : Module) : Module :=
  match r with
  | .sqCtrl x => if natBit v 31 then enableRing x (BitVec.ofNat 32 v) m else disableRing x (BitVec.ofNat 32 v) m
  | .sqBase x | .sqStatus x | .cqBase x | .cqCtrl x | .cqMod x => setRing x (writeRingReg (ringAt m x) v r) m
  | .hqErrvec => { m with host := { m.host with errEn := natBit v 31, errVector := BitVec.ofNat 11 v } }
  | .msix e i => writeMsix e i v m
  | .hgCtrl =>
    { m with hg := { m.hg with stall := BitVec.ofNat 16 (natBits v 31 16), reserve := BitVec.ofNat 12 v } }
  | .hgStatus => { m with hg := { m.hg with stallSeen := w1c m.hg.stallSeen v 17 } }
  | .mmuAsid a =>
    let x := BitVec.ofNat 64 (natBits v 51 12 * 4096 + v % 2)
    { m with host := { m.host with mmuAsid := Sparse.set m.host.mmuAsid a x } }
  | .mmuHost a =>
    let x := BitVec.ofNat 64 (at_ (natBits v 63 36) 36 + at_ (natBits v 31 30) 30 + v % 2 ^ 20)
    { m with host := { m.host with mmuHost := Sparse.set m.host.mmuHost a x } }
  | .mmuInv => if low then writeMmuInv (BitVec.ofNat 64 v) m else m
  | .mmuInvstat => { m with host := { m.host with invIgn := w1c m.host.invIgn v 1 } }
  | .gvCtrl => { m with gate := { m.gate with timeout := BitVec.ofNat 16 (natBits v 31 16), force := natBit v 0 } }
  | .gvStepcnt => loadStepCount (BitVec.ofNat 64 v) m
  | .gvStatus =>
    let g := m.gate
    { m with gate := { g with
      timedOut := w1c g.timedOut v 4, dupCast := w1c g.dupCast v 3, late := w1c g.late v 2, noRole := w1c g.noRole v 1
      loadRej := w1c g.loadRej v 0 } }
  | _ => m

/-- Writes of clocks, fabric, Weir and error registers; `low` tells whether bits 31:0 are written. A high half of FR_RESUME
that comes alone names no SEQ, and sets BADRESUME: DESIGN CHOICE (log 59). -/
def writeIo (low : Bool) (r : BarReg) (v : Nat) (m : Module) : Module :=
  match r with
  | .ckSrc => { m with clocks := { m.clocks with srcFail := m.clocks.srcFail &&& ~~~(BitVec.ofNat 4 (natBits v 7 4)) } }
  | .ckStatus =>
    { m with clocks := { m.clocks with gtouchAny := w1c m.clocks.gtouchAny v 1, gateRej := w1c m.clocks.gateRej v 0 } }
  | .ckMon => writeMon (BitVec.ofNat 32 v) m
  | .ckLoop n => setLoop n { loopAt m n with coasted := w1c (loopAt m n).coasted v 61 } m
  | .ckEn w =>
    writeCkEn w (BitVec.ofNat 64 v) (if low then BitVec.allOnes 64 else BitVec.allOnes 64 <<< 32) m
  | .ckGtouch w =>
    let clear : BitVec 384 := BitVec.ofNat 384 (v * 2 ^ (64 * w))
    { m with clocks := { m.clocks with touched := m.clocks.touched &&& ~~~clear } }
  | .pwCtrl => if alive m then writeStandby (natBit v 0) m else m
  | .pwStatus => { m with clocks := { m.clocks with rej := w1c m.clocks.rej v 2 } }
  | .portCtrl w i => setPort w i { portAt m w i with errMax := BitVec.ofNat 16 v } m
  | .wayStatus w => setWay w { wayAt m w with misWire := w1c (wayAt m w).misWire v 29 } m
  | .swCtrl => { m with fabric := { m.fabric with rto := BitVec.ofNat 8 (natBits v 23 16), combine := natBit v 0 } }
  | .arbShadow a q =>
    let x := arbAt m a
    let quota := Nat.min (natBits v 10 0) 1024
    setArb a (x.setReq q { x.req a q with
      shadowPrio := BitVec.ofNat 2 (natBits v 17 16), shadowQuota := BitVec.ofNat 11 quota }) m
  | .arbCommit a => writeArbCommit a v m
  | .wrCtrl =>
    { m with weir := { m.weir with
      tto := BitVec.ofNat 8 (natBits v 31 24), cto := BitVec.ofNat 8 (natBits v 23 16)
      retry := BitVec.ofNat 8 (natBits v 15 8) } }
  | .wrStatus =>
    { m with weir := { m.weir with
      badReturn := w1c m.weir.badReturn v 31, badMsg := w1c m.weir.badMsg v 30, hostPost := w1c m.weir.hostPost v 29 } }
  | .frBase =>
    if m.faults.enable then m else { m with faults := { m.faults with base := BitVec.ofNat 64 (v / 4096 * 4096) } }
  | .frCtrl => writeFrCtrl (BitVec.ofNat 32 v) m
  | .frPtr => writeFrHead (natBits v 44 32) m
  | .frResume =>
    if low then answerFault (BitVec.ofNat 32 v) (natBit v 32) m
    else { m with faults := { m.faults with badResume := true } }
  | .frStatus =>
    let f := m.faults
    { m with faults := { f with
      disabledFault := w1c f.disabledFault v 3, waitFull := w1c f.waitFull v 2, badResume := w1c f.badResume v 1
      badHead := w1c f.badHead v 0 } }
  | .erCtrl =>
    { m with errors := { m.errors with
      en := natBit v 31, logCe := natBit v 30, irqMask := BitVec.ofNat 16 (natBits v 27 12), vector := BitVec.ofNat 11 v } }
  | .erStatus => { m with errors := { m.errors with badHead := w1c m.errors.badHead v 1, lost := w1c m.errors.lost v 0 } }
  | .erPtr => writeErHead (natBits v 38 32) m
  | .erCntclr => writeCntClr (v % 2 ^ 15) m
  | _ => m

/-- Writes of the compute-die blocks; false where the write waits (R280, R311, R387). -/
def writeDie (who : Option Nat) (low : Bool) (r : BarReg) (v : Nat) (m : Module) : Bool × Module :=
  match r with
  | .pcSel c n =>
    let k := coreAt m c
    let x := BitVec.ofNat 32 v &&& 0x9F0000FF
    (true, setCore c { k with pcSel := Sparse.set k.pcSel n x } m)
  | .llcCtrl sl =>
    (true, setSlice sl { sliceAt m sl with
      bankCap := BitVec.ofNat 8 (natBits v 23 16), dfEv := natBit v 8, pfEn := natBit v 3, pfDepth := BitVec.ofNat 3 v } m)
  | .llcWayen sl => (true, writeWayEn sl (BitVec.ofNat 32 v) m)
  | .evPend d w => (true, discardPending d w (BitVec.ofNat 64 v) m)
  | .evSwset d => (true, softEdges d (BitVec.ofNat 64 v) m)
  | .evTarget d s =>
    let e := eventsOf m d
    (true, setEvents d { e with mask := Sparse.set e.mask s (BitVec.ofNat 48 v) } m)
  | .evCtrl d s =>
    let e := eventsOf m d
    (true, setEvents d { e with en := putBit e.en s (natBit v 31), mod := Sparse.set e.mod s (BitVec.ofNat 16 v) } m)
  | .scAmax b t => (true, foldPend b t v m)
  | .gpFold _ => if alive m then gpFold who (BitVec.ofNat 32 v) m else (true, m)
  | .hzOffer => if alive m then hazeOffer who (BitVec.ofNat 64 v) m else (true, m)
  | .wpPost _ => if alive m then wpPost who (BitVec.ofNat 64 v) m else (true, m)
  | .wpReturn => (true, if alive m && low then wpReturn who (BitVec.ofNat 64 v) m else m)
  | .bsCtrl st =>
    (true, setStack st { stackAt m st with
      bankCap := BitVec.ofNat 10 (natBits v 25 16), pfEn := natBit v 8, pfDepth := BitVec.ofNat 4 v } m)
  | .bsJobpost st => if alive m then postJob who st (BitVec.ofNat 64 v) m else (true, m)
  | .bsErr st =>
    let k := stackAt m st
    (true, setStack st { k with
      conflict := w1c k.conflict v 2, badRec := w1c k.badRec v 1, hostPost := w1c k.hostPost v 0 } m)
  | _ => (true, m)

/-- A write of a register; false where the store must wait. -/
def writeReg (who : Option Nat) (low : Bool) (r : BarReg) (v : Nat) (m : Module) : Bool × Module :=
  match counterOfReg r with
  | some c => (true, if natBit v 63 then clearOvf c.1 c.2.1 c.2.2 m else m)
  | .none =>
    match r with
    | .rootIfrev => (true, writeIfrev (BitVec.ofNat 32 v) m)
    | .sqBase _ | .sqCtrl _ | .sqStatus _ | .cqBase _ | .cqCtrl _ | .cqMod _ | .hqErrvec | .msix _ _ | .hgCtrl | .hgStatus
    | .mmuAsid _ | .mmuHost _ | .mmuInv | .mmuInvstat | .gvCtrl | .gvStepcnt | .gvStatus => (true, writeQueue low r v m)
    | .pcSel _ _ | .llcCtrl _ | .llcWayen _ | .evPend _ _ | .evSwset _ | .evTarget _ _ | .evCtrl _ _ | .scAmax _ _
    | .gpFold _ | .hzOffer | .wpPost _ | .wpReturn | .bsCtrl _ | .bsJobpost _ | .bsErr _ => writeDie who low r v m
    | _ => (true, writeIo low r v m)

/-! ## Accesses by offset (R11) -/

/-- What an access meets. -/
inductive Meets where
  | bad
  | nothing
  | reg (r : BarReg) (d : Nat) (wide : Bool)
  deriving Repr

/-- The access of `width` bytes at an offset. -/
def meetsAt (o width : Nat) : Meets :=
  if (width ≠ 4 ∧ width ≠ 8) ∨ o % width ≠ 0 then .bad
  else
    match regAt o with
    | some (r, d, wide) => if width = 8 ∧ !(wide && d == 0) then .bad else .reg r d wide
    | .none =>
      match (if width = 8 then regAt (o + 4) else .none) with
      | some (_, _, false) => .bad
      | _ => .nothing

/-- An access that an absent or a gated unit's window swallows: the module after it (R3, R13, R412). -/
def shut (o : Nat) (m : Module) : Option Module :=
  if !handlePresent m.board.part (ownerUnit o) then some m
  else if unitGated m (gatingUnit o) then some (touchGated (gatingUnit o) m)
  else .none

/-- The number of an accessing thread in INFO; 0x1FF for the host (R428). -/
def accessor (who : Option Nat) : Nat := who.getD 0x1FF

/-- An access of a bad width or alignment is logged (R11, R426). -/
def logAccess (who : Option Nat) (o width : Nat) (m : Module) : Module :=
  raiseError 6 0x51 (windowUnit o) o (at_ (accessor who) 16 + width % 16) m

/-- BAR0 has 128 MiB (R37). -/
def bar0Size : Nat := 0x8000000

/-- A read: the value, and the module after it. A claim by a thread acts (R150). DEDUCED (log 59). -/
def readBar (au : Auth) (who : Option Nat) (o width : Nat) (m : Module) : Nat × Module :=
  match shut o m with
  | some m => (0, m)
  | .none =>
    match meetsAt o width with
    | .bad => (0, logAccess who o width m)
    | .nothing => (0, m)
    | .reg (.evClaim d s) _ _ =>
      match who with
      | some t => claim d s t m
      | .none => (0x3FF, m)
    | .reg r d _ => (if width = 8 then regValue au m r else regValue au m r / 2 ^ (8 * d) % 2 ^ 32, m)

/-- Registers whose bits are cleared or set one by one: bits not written count as zero (R8, R11). -/
def bitwise : BarReg → Bool
  | .evPend _ _ | .evSwset _ | .ckGtouch _ => true
  | _ => false

/-- A write, which may have to wait: a low half is kept, and a high half acts on the whole register; with no low half
kept it writes no field of bits 31:0 (R11). DEDUCED (log 59). -/
def writeBar (au : Auth) (who : Option Nat) (o width : Nat) (v : Nat) (m : Module) : Bool × Module :=
  if o < 0xFF000 then (true, m)
  else
    match shut o m with
    | some m => (true, m)
    | .none =>
      match meetsAt o width with
      | .bad => (true, logAccess who o width m)
      | .nothing => (true, m)
      | .reg r d wide =>
        if !wide then writeReg who true r (v % 2 ^ 32) m
        else if width = 8 then
          writeReg who true r (v % 2 ^ 64) { m with host := { m.host with lowHalf := Sparse.del m.host.lowHalf o } }
        else if d = 0 then
          (true, { m with host := { m.host with lowHalf := Sparse.set m.host.lowHalf o (BitVec.ofNat 32 v) } })
        else
          match Sparse.find m.host.lowHalf (o - 4) with
          | some l =>
            writeReg who true r (v % 2 ^ 32 * 2 ^ 32 + l.toNat)
              { m with host := { m.host with lowHalf := Sparse.del m.host.lowHalf (o - 4) } }
          | .none =>
            let old := if bitwise r then 0 else regValue au m r % 2 ^ 32
            writeReg who false r (v % 2 ^ 32 * 2 ^ 32 + old) m

/-! ## Commands -/

/-- Whether an agent's register access arrives: the host needs the link, a thread a running module, and below machine level
an offset its aperture reaches (R243, R457). DESIGN CHOICE (log 22). -/
def accessArrives (who : Option Nat) (off : Nat) (m : Module) : Bool :=
  match who with
  | .none => m.host.linkUp
  | some t => t < 384 && alive m && ((threadAt m t).priv.level == 2 || apertureOpen off)

/-- REGISTER_WRITE (R8, R11). -/
def execRegisterWrite (who : Option Nat) (off width : Nat) (value : Word) (s : State) : Outcome State Fault Refusal :=
  onModule (fun m =>
    if accessArrives who off m && off < bar0Size then (writeBar s.auth who off width value.toNat m).2 else m) s

/-- A doorbell of BAR2, at its offset above BAR0 (R41). -/
def doorbellAt (o : Nat) : Bool := o % 0x1000 < 4 || (0x40 ≤ o % 0x1000 && o % 0x1000 < 0x44)

/-- BAD_WIDTH_ACCESS (R11, R41): offsets from `bar0Size` on name BAR2, whose accesses have no BAR0 offset to log. -/
def execBadWidthAccess (who : Option Nat) (off width : Nat) (s : State) : Outcome State Fault Refusal :=
  onModule (fun m =>
    if !accessArrives who off m then m
    else if off < bar0Size then
      match shut off m, meetsAt off width with
      | some m, _ => m
      | .none, .bad => logAccess who off width m
      | _, _ => m
    else if who.isNone && off < bar0Size + 0x400000 && doorbellAt off && (width != 4 || off % 4 != 0) then
      raiseError 6 0x51 handleHostPort 0 (at_ 0x1FF 16 + width % 16) m
    else m) s

end Sys2Proof.Machine
end

