-- ==== Sys2Proof/Machine/ScalarMem.lean ====
section
/-! DEFINITION. Scalar loads and stores, to memory, the host window and the register aperture (R106-R115, R243). -/

namespace Sys2Proof.Machine

open Host (Outcome)

/-- A form M access whose address is ready: `k` continues with the address and the updated base. -/
def formM (t : Nat) (i : Instr) (o : MemOp) (need : Need) (legal : Bool) (k : Thread → Word → Option Word → Module → Module)
    (s : State) : Outcome State Fault Refusal :=
  issue t (fun th m =>
    if !legal || !o.wellFormed then illegal t i m
    else
      match memAddress o th with
      | .none => m
      | some (a, up) =>
        if o.updates && !th.writable o.rb then m
        else
          match addressFault m th need (o.rb == 31) a o.bytes with
          | some c => raiseExc t c a.toNat m
          | .none => k th a up m) s

/-- The base register after an access that did not fault (R106). -/
def Thread.base (th : Thread) (o : MemOp) (up : Option Word) : Thread :=
  match up with
  | some b => th.result o.rb b
  | .none => th

/-! ## Loads (R107, R111, R256) -/

/-- The base register a load is about to update, its value, and whether it awaits an earlier load's data (R106). -/
def Thread.baseBefore (th : Thread) (o : MemOp) : Option (Reg × Word × Bool) :=
  if o.updates then some (o.rb, th.reg o.rb, th.outstanding o.rb) else .none

/-- A load is in flight; its data may have come already. -/
def noteLoad (t : Nat) (o : MemOp) (pc : BitVec 48) (a : Nat) (data : Option Word) (line : Option Nat := .none) :
    Acc Unit :=
  modify fun m =>
    let th := threadAt m t
    setThread t (th.await
      { rd := o.rd, line := line, data := data, pc := pc, addr := a, undo := th.baseBefore o, latch := th.latch
        loops := th.loops }) m

/-- A load from memory: a hit in the data L1 has its data at once, a miss asks the home slice (R244, R266). -/
def loadLine (t : Nat) (o : MemOp) (signed : Bool) (pc : BitVec 48) (a : Nat) (p : Place) (off : Nat) : Acc Unit := do
  let m ← get
  if (l1Find (coreAt m (t / 2)) (placeKey p)).isSome then
    let l ← l1Line t a p o.hint true
    if touchesPoison l.poison (off % 128) o.bytes then stop (.poison a off)
    else noteLoad t o pc a (some (extendLoad (lineValue l.data (off % 128) o.bytes) o.bytes signed))
  else
    match p with
    | .remote n x =>
      let r := sendLineRead (.load t o.rd o.bytes signed o.hint) a n (lineOf x) (noteData t a m)
      match r.1 with
      | .sent => set r.2
      | .wait => stop .wait
      | .unreachable => set r.2; stop (.fault 0x08 0 a)
      noteLoad t o pc a .none (some (placeKey p))
      modify (perf t 0x06 1)
    | _ =>
      noteLoad t o pc a .none (some (placeKey p))
      modify (noteData t a)
      modify fun m =>
        (arrive (homeSlice off) { ask := .load t o.rd o.bytes signed, addr := off, hint := o.hint } (perf t 0x06 1 m)).2

/-- Poisoned data of the host is told by its local address (R250). -/
def Stop.atLocal (s : Stop) : Stop :=
  match s with
  | .poison _ a => .poison a a
  | s => s

/-- The access of a load. A register read acts once, as the load issues (R243). DEDUCED (log 20). -/
def loadAccess (au : Auth) (t : Nat) (o : MemOp) (signed : Bool) (pc : BitVec 48) (a : Nat) : Acc Unit := do
  let m ← get
  let p ← resolve (threadAgent m t) .read a
  if tileOwns (threadAt m t) p o.bytes then stop .wait
  else
    match p with
    | .aperture x => do
      let m ← get
      let r := readBar au (some t) x o.bytes m
      set r.2
      noteLoad t o pc a (some (extendLoad r.1 o.bytes signed))
    | .host x => do
      let m ← get
      let bs ← ExceptT.adapt Stop.atLocal (readHost (.line (.thread t)) (threadAt m t).priv.asid a x o.bytes)
      noteLoad t o pc a (some (extendLoad (ofBytes bs) o.bytes signed))
    | .mem x | .remote _ x => loadLine t o signed pc a p x

/-- A load retires and opens its shadow: the next instruction reads the old value (R111). -/
def retireLoad (t : Nat) (o : MemOp) (old : Word) (up : Option Word) (m : Module) : Module :=
  let m := retire t 1 (setThread t ((threadAt m t).base o up) m)
  setThread t { threadAt m t with latch := some (o.rd, old) } m

/-- LD and LDS; a load to a register with a load in flight waits for that one, and one that met a data error at once has
faulted and does not retire. -/
def load (t : Nat) (i : Instr) (o : MemOp) (signed legal : Bool) (s : State) : Outcome State Fault Refusal :=
  formM t i o .read legal (fun th a up m =>
    if !th.unnamed o.rd then m
    else
      withAccess t (loadAccess s.auth t o signed th.pc a.toNat) (fun _ m => if (threadAt m t).exc.isSome then m else retireLoad t o (th.reg o.rd) up m) m) s

/-- A load may not update its own destination (R107). -/
def loadForm (o : MemOp) : Bool := !(o.updates && o.rd == o.rb)

/-- LD (R106, R107). -/
def execLoad (t : Nat) (op : MemOp) (s : State) : Outcome State Fault Refusal :=
  load t (.load t op) op false (loadForm op) s

/-- LDS (R107). -/
def execLoadS (t : Nat) (op : MemOp) (s : State) : Outcome State Fault Refusal :=
  load t (.loadS t op) op true (loadForm op && op.size != 3) s

/-! ## Stores -/

/-- Whether a register address is the offer port HZ_OFFER (R329). -/
def isOffer (x : Nat) : Bool :=
  match regAt x with
  | some (.hzOffer, _, _) => true
  | _ => false

/-- The access of a store of `v`; false where a register write must wait (R280, R311, R387). -/
def storeAccess (au : Auth) (t : Nat) (o : MemOp) (a : Nat) (v : Nat) : Acc Bool := do
  let m ← get
  let p ← resolve (threadAgent m t) .write a
  if tileOwns (threadAt m t) p o.bytes then stop .wait
  else
    match p with
    | .aperture x => do
      let m ← get
      let r := writeBar au (some t) x o.bytes v m
      -- an offer that must wait is made again with the store
      if !r.1 && isOffer x then stop .wait
      else
        set r.2
        pure r.1
    | _ => do
      threadWrite t p a o.bytes v o.hint
      pure true

/-- The whole value a waiting register write posts: a high half carries the low half kept before it (R11).
DEDUCED (log 60). -/
def postedValue (m : Module) (x width v : Nat) : Word :=
  if width = 8 then BitVec.ofNat 64 v
  else if x % 8 = 4 then BitVec.ofNat 64 (v * 2 ^ 32 + (Sparse.get 0 m.host.lowHalf (x - 4) : BitVec 32).toNat)
  else BitVec.ofNat 64 v

/-- The BAR0 offset an address names in the aperture. -/
def apertureOffset (t a : Nat) : Acc Nat := do
  let m ← get
  let p ← resolve (threadAgent m t) .write a
  match p with
  | .aperture x => pure x
  | _ => pure 0

/-- A store that waits holds its thread until its register takes it. -/
def holdStore (t : Nat) (o : MemOp) (a v : Nat) (before m : Module) : Module :=
  match ((apertureOffset t a).go m).1 with
  | .ok x =>
    let base := if x % 8 = 4 then x - 4 else x
    setThread t { threadAt m t with
      aperture := some { op := o, off := base, width := o.bytes, value := postedValue before x o.bytes v
                         low := if x % 8 = 4 then Sparse.find before.host.lowHalf base else .none } } m
  | .error _ => m

/-- ST (R106, R107). -/
def execStore (t : Nat) (op : MemOp) (s : State) : Outcome State Fault Refusal :=
  formM t (.store t op) op .write true (fun th a up m =>
    match th.src op.rd with
    | .none => m
    | some v =>
      withAccess t (storeAccess s.auth t op a.toNat (v.toNat % 2 ^ (8 * op.bytes)))
        (fun done m' =>
          if done then retire t 1 (setThread t ((threadAt m' t).base op up) m')
          else holdStore t op a.toNat (v.toNat % 2 ^ (8 * op.bytes)) m m') m) s

end Sys2Proof.Machine
end

