-- ==== Sys2Proof/Machine/Tiles.lean ====
section
/-! DEFINITION. Tile instructions: dispatch and row checks (R194-R202), issue (R195), the dot products of the arrays (R192,
R229, R230), loads and stores of rows (R198, R203), accumulator moves (R204-R206) and array flags (R210). -/

namespace Sys2Proof.Machine

open Host

/-! ## Storage (R186, R187, R208) -/

/-- Offset of half Ht in columns and weight rows. -/
def halfBase (t : Nat) (half : Bool) : Nat := if half then 16 * (t % 2) else 0

/-- Key of weight row `n` of tile `i`. -/
def weightKey (t : Nat) (half : Bool) (i n : Nat) : Nat := 32 * i + halfBase t half + n

/-- Key of activation row `m` of tile `k` of array `a`. -/
def actKey (t : Nat) (half : Bool) (a k m : Nat) : Nat := 256 * a + 32 * (if half then 4 * (t % 2) + k else k) + m

/-- Key of accumulator row `m`. -/
def accKey (a j m : Nat) : Nat := 128 * a + 32 * j + m

/-- A tile as TILE and ARR of R197 name it: weight tiles 0-7, activation tiles 8-15. -/
def tileKey (t : Nat) (half : Bool) (tile arr row : Nat) : Nat :=
  if tile < 8 then weightKey t half tile row else actKey t half arr (tile - 8) row

/-- Whether a row of a tile has storage: a half lease names 16 rows of a weight tile (R208). -/
def rowNamed (half : Bool) (tile row : Nat) : Bool := !half || tile ≥ 8 || row < 16

def tileRowAt (k : Core) (t : Nat) (half : Bool) (tile arr row : Nat) : TileRow :=
  Sparse.get {} (if tile < 8 then k.wt else k.act) (tileKey t half tile arr row)

/-- A row written; one without storage is written nowhere. DEDUCED (log 46). -/
def putTileRow (t : Nat) (half : Bool) (tile arr row : Nat) (x : TileRow) (k : Core) : Core :=
  let key := tileKey t half tile arr row
  if !rowNamed half tile row then k
  else if tile < 8 then { k with wt := Sparse.set k.wt key x } else { k with act := Sparse.set k.act key x }

/-- Column `n` of an accumulator row as the thread sees it. -/
def accElem (k : Core) (t : Nat) (half : Bool) (a j m n : Nat) : Nat :=
  let row : BitVec 1024 := Sparse.get 0 k.accum (accKey a j m)
  let c := halfBase t half + n
  bitsOf row (32 * c + 31) (32 * c)

def putAcc (t : Nat) (half : Bool) (a j m n v : Nat) (k : Core) : Core :=
  let row : BitVec 1024 := Sparse.get 0 k.accum (accKey a j m)
  let c := halfBase t half + n
  { k with accum := Sparse.set k.accum (accKey a j m) (putBits row (32 * c + 31) (32 * c) v) }

/-! ## Array flags (R210) -/

/-- Flags set at the half of array `a` that holds physical column `c`. -/
def setArrFlags (a c : Nat) (f : ArrFlags) (k : Core) : Core :=
  { k with tflags := k.tflags ||| (f.setWidth 32 <<< (8 * a + (if c ≥ 16 then 4 else 0))) }

/-- Array flags of a rounding: an invalid operation, and an overflow. -/
def roundFlags (f : Fp.Flags) : ArrFlags :=
  (if f &&& Fp.fNV ≠ 0 then aNV else 0) ||| (if f &&& Fp.fOF ≠ 0 then aOF else 0)

/-- NF of a value written in FP32. -/
def nonFiniteFlag (v : Nat) : ArrFlags := if Fp.finite32 v then 0 else aNF

/-! ## Dot products (R192, R229, R230) -/

/-- Whether an operand enters as a NaN: its own, or its block's scale. -/
def dotOperand (code : Nat) (row : TileRow) (k : Nat) : Fp.Val :=
  let w := codeWidth code
  let s := if Fp.isMx code then bitsOf row.scale (8 * (k / 32) + 7) (8 * (k / 32)) else 127
  if s = 0xFF then .nan false
  else (Fp.decodeCode (if Fp.isMx code then mxElement code else code) (bitsOf row.data (w * k + w - 1) (w * k))).scale
    ((s : Int) - 127)
where
  /-- Code with the element layout of a Microscaling code. -/
  mxElement (code : Nat) : Nat := if code = 7 then 3 else if code = 8 then 4 else code

/-- The exact products of a row pair. -/
def dotProducts (fa fw kk : Nat) (x w : TileRow) : List Fp.Val :=
  (List.range kk).map fun k => (Fp.mulVal (dotOperand fa x k) (dotOperand fw w k)).1

def isPosInf : Fp.Val → Bool
  | .inf s => !s
  | _ => false

def isNegInf : Fp.Val → Bool
  | .inf s => s
  | _ => false

/-- The term of R229: sign times floor(|p| * 2^(47 - e)). -/
def windowTerm (e : Int) : Fp.Val → Int
  | .num s m g =>
    let sh := g + 47 - e
    let n := if sh ≥ 0 then m * 2 ^ sh.toNat else m / 2 ^ (-sh).toNat
    if s then -(n : Int) else n
  | _ => 0

/-- The sum of R229 in normal mode. -/
def dotNormal (ps : List Fp.Val) : Nat × ArrFlags :=
  if ps.any (·.isNan) || (ps.any isPosInf && ps.any isNegInf) then (Fp.canonicalNan Fp.fp32, aNV)
  else if ps.any isPosInf then (0x7F800000, 0)
  else if ps.any isNegInf then (0xFF800000, 0)
  else
    let live := ps.filter fun p => !p.isZero
    match live.map Fp.log2Val with
    | [] => (if ps.all (·.isNeg) then 0x80000000 else 0, 0)
    | e :: es =>
      let e := es.foldl max e
      let t := (live.map (windowTerm e)).foldl (· + ·) 0
      if t = 0 then (0, 0)
      else
        let r := Fp.encodeVal Fp.fp32 Fp.nearest (.num (decide (t < 0)) t.natAbs (e - 47))
        (r.1, roundFlags r.2)

/-- The sum of R230 in reference mode. -/
def dotReference (ps : List Fp.Val) : Nat × ArrFlags :=
  let parts := ps.map fun p => Fp.encodeVal Fp.fp32 Fp.nearest p
  let nan : ArrFlags := if ps.any (·.isNan) then aNV else 0
  let r := treeFold (fun a b => Fp.add Fp.fp32 Fp.nearest a b) 8 (parts.map fun p => some p.1)
  (r.1.getD 0, nan ||| roundFlags r.2 ||| parts.foldl (fun f p => f ||| roundFlags p.2) 0)

/-- An accumulator element after a floating-point TMMA. -/
def accFloat (ref acc : Bool) (old : Nat) (ps : List Fp.Val) : Nat × ArrFlags :=
  let s := if ref then dotReference ps else dotNormal ps
  let r := if acc then (let x := Fp.add Fp.fp32 Fp.nearest old s.1; (x.1, s.2 ||| roundFlags x.2)) else s
  (r.1, r.2 ||| nonFiniteFlag r.1)

/-- The exact INT8 sum. -/
def dotInt (kk : Nat) (x w : TileRow) : Int :=
  (List.range kk).foldl (fun a k =>
    a + natSigned 8 (bitsOf x.data (8 * k + 7) (8 * k)) * natSigned 8 (bitsOf w.data (8 * k + 7) (8 * k))) 0

/-- An accumulator element after an INT8 TMMA. -/
def accInt (acc : Bool) (old : Nat) (s : Int) : Nat × ArrFlags :=
  let v := if acc then natSigned 32 old + s else s
  (intLow 32 v, if v < -2 ^ 31 ∨ v ≥ 2 ^ 31 then aIW else 0)

/-- T field of array `a` of a TMMA. -/
def tField (o : TmmaOp) (a : Nat) : Nat :=
  (match a with
    | 0 => o.t0
    | 1 => o.t1
    | 2 => o.t2
    | _ => o.t3).toNat

/-- One accumulator element of a TMMA. -/
def mmaElem (t : Nat) (e : TileEntry) (o : TmmaOp) (a m n : Nat) (k : Core) : Core :=
  let x := tileRowAt k t e.half (8 + tField o a) a m
  let w := tileRowAt k t e.half o.wt.toNat 0 n
  let kk := o.k.toNat + 1
  let old := accElem k t e.half a o.acct.toNat m n
  let r := if o.fa = 5 then accInt (o.acc == 1) old (dotInt kk x w)
    else accFloat e.ref (o.acc == 1) old (dotProducts o.fa.toNat o.fw.toNat kk x w)
  setArrFlags a (halfBase t e.half + n) r.2 (putAcc t e.half a o.acct.toNat m n r.1 k)

/-- The effect of a TMMA (R192). -/
def mmaCore (t : Nat) (e : TileEntry) (o : TmmaOp) (k : Core) : Core :=
  ((List.range 4).filter o.amask.getLsbD).foldl (fun k a =>
    (List.range (o.m.toNat + 1)).foldl (fun k m =>
      (List.range (o.n.toNat + 1)).foldl (fun k n => mmaElem t e o a m n k) k) k) k

/-- Rate class of a format code (R191). -/
def rateClass (c : Nat) : Nat := if c ≤ 2 then 32 else if c = 11 then 128 else 64

/-- Beats of a TMMA (R193). -/
def mmaBeats (o : TmmaOp) : Nat :=
  let kr := 32 * ceilDiv (o.k.toNat + 1) 32
  let q := Nat.max 1 (Nat.min (rateClass o.fa.toNat) (rateClass o.fw.toNat) / kr)
  ceilDiv (o.m.toNat + 1) q

/-! ## Legal encodings (R190, R191, R197, R204, R208) -/

def arrayInput (c : Nat) : Bool := 1 ≤ c && c ≤ 11 && c != 6

/-- A TMMA under a lease. DEDUCED (log 46). -/
def mmaLegal (lease : Nat) (o : TmmaOp) : Bool :=
  let fa := o.fa.toNat
  let fw := o.fw.toNat
  let k := o.k.toNat + 1
  let used (a : Nat) : Bool := o.amask.getLsbD a
  lease != 0 && arrayInput fa && arrayInput fw && ((fa == 5) == (fw == 5)) && (k ≤ 32 || (fa == 11 && fw == 11))
    && !((Fp.isMx fa || Fp.isMx fw) && k % 32 != 0) && o.amask != 0
    && (List.range 4).all (fun a => used a || tField o a == 0)
    && (lease != 2 || (o.n.toNat < 16 && (List.range 4).all fun a => !used a || tField o a ≤ 3))

/-- A TLD, TST or TLDS under a lease. -/
def tileMemLegal (lease : Nat) (scales : Bool) (o : TileMemOp) : Bool :=
  let fmt := o.fmt.toNat
  let w := codeWidth fmt
  let cols := o.cols.toNat + 1
  let weight := o.tile.toNat < 8
  lease != 0 && fmt < 12 && (!weight || o.arr == 0)
    && (if scales then o.tr == 0 && fmt == 0 && cols ≤ 4 else cols * w ≤ 512)
    && (o.tr == 0 || ((w == 8 || w == 16 || w == 32) && cols ≤ 32))
    && (lease != 2 || (if weight then (if o.tr = 1 then cols ≤ 16 || o.rows.toNat < 16 else o.rows.toNat < 16)
                       else o.tile.toNat ≤ 11))
    && !(lease == 2 && weight && o.tr == 1 && cols > 16)

/-- TACCV, TACCT and TACCS. -/
def taccvLegal (lease : Nat) (o : TileMoveOp) : Bool :=
  lease != 0 && (o.fmt == 0 || o.fmt == 6) && o.gs == 0 && o.rs == 0 && o.dtile == 0 && o.darr == 0 && o.hint == 0
    && o.red == 0

def tacctLegal (lease : Nat) (o : TileMoveOp) : Bool :=
  let f := o.fmt.toNat
  lease != 0 && 1 ≤ f && f ≤ 5 && o.rb == 0 && o.rs == 0 && o.hint == 0 && o.red == 0
    && (if o.dtile.toNat < 8 then o.darr == 0 else lease != 2 || o.dtile.toNat ≤ 11)

def taccsLegal (lease : Nat) (o : TileMoveOp) : Bool :=
  let f := o.fmt.toNat
  lease != 0 && o.dtile == 0 && o.darr == 0
    && (if o.red = 1 then (f ≤ 1 || (f == 6 && o.gs == 0)) && o.hint == 0 else f ≤ 5 || (f == 6 && o.gs == 0))

/-! ## Dispatch (R194, R198-R201) -/

/-- A queue entry as a thread dispatches it. -/
def newTileEntry (th : Thread) (op : TileOp) : TileEntry :=
  { id := th.tile.nextId, op := op, half := th.tile.lease == 2, ref := th.vec.ref, rm := th.vec.rm, ovs := th.vec.ovs
    pc := th.pc }

def pushTile (e : TileEntry) (th : Thread) : Thread :=
  { th with tile := { th.tile with queue := th.tile.queue ++ [e], nextId := th.tile.nextId + 1 } }

/-- The number a piece of a row is kept under: another module's memory lies above 2^40 (see `tileOwns`). -/
def placeNumber : Place → Nat
  | .mem a | .host a | .aperture a => a
  | .remote n a => (n + 1) * 2 ^ 40 + a

def placeOfNumber (x : Nat) : Place :=
  if x ≥ 2 ^ 40 then .remote (x / 2 ^ 40 - 1) (x % 2 ^ 40)
  else if hostBase ≤ x && x < hostEnd then .host x
  else .mem x

/-- The host's translation of a place, when it lies in the host window (R250). -/
def checkHost (t : Nat) (need : Need) (va : Nat) (p : Place) : Acc Unit := do
  match p with
  | .host a =>
    let m ← get
    let asid := (threadAt m t).priv.asid
    if hostAnswer asid a (need == .write) m = 1 then stop (.fault 0x07 need.code va)
    else modify (useAts asid a)
  | _ => pure ()

/-- An access whose exceptions carry the address `va`. -/
def faultsAt {α : Type} (va : Nat) (x : Acc α) : Acc α :=
  ExceptT.adapt (fun s => match s with
    | .exc c _ => .exc c va
    | s => s) x

/-- The checks of one row of `n` bytes at an address: alignment, range and translation (R199). Its exceptions carry the
row's address (R200). -/
def checkRow (t : Nat) (need : Need) (align n : Nat) (va : Word) : Acc (List (Nat × Nat)) := do
  if va.toNat % align ≠ 0 then stop (.exc 0x03 va.toNat)
  else if bitsOf va 63 48 ≠ 0 then stop (.exc 0x05 va.toNat)
  else
    let mut out : List (Nat × Nat) := []
    for q in pieces va.toNat n do
      if q.1 ≥ 2 ^ 48 then stop (.exc 0x05 va.toNat)
      else
        let m ← get
        let p ← faultsAt va.toNat (resolveMem (threadAgent m t) need q.1)
        checkHost t need q.1 p
        out := (placeNumber p, q.2) :: out
    pure out.reverse

/-- Rows checked in order: those that passed, and the first that stopped. -/
def checkRows (f : Nat → Acc (List (Nat × Nat))) :
    List Nat → Module → List (Nat × List (Nat × Nat)) × Option (Nat × Stop) × Module
  | [], m => ([], .none, m)
  | r :: rs, m =>
    match (f r).go m with
    | (.ok ps, m) =>
      let x := checkRows f rs m
      ((r, ps) :: x.1, x.2)
    | (.error s, m') => ([], some (r, s), m')

/-- The dispatch hold of a thread ends, with TSTART as it leaves it. -/
def Thread.endHold (th : Thread) (start : BitVec 5) : Thread :=
  { th with tile := { th.tile with hold := .none, start := start } }

/-- A tile memory instruction checks the next of its rows: `n` at a time, or all of them. The last of them retires it,
and one that fails leaves it at that row, the rows below it to be transferred; the rows of a transposing instruction go
together (R200, R201). DEDUCED (log 47). -/
def dispatchRows (t : Nat) (e : TileEntry) (transposed : Bool) (rows : List Nat)
    (f : Nat → Acc (List (Nat × Nat))) (m : Module) : Module :=
  let rest := rows.drop e.rows.length
  let x := checkRows f (if transposed then rest else rest.take 8) m
  let th := threadAt x.2.2 t
  let e := { e with rows := e.rows ++ x.1 }
  match x.2.1 with
  | .none =>
    if transposed || rest.length ≤ 8 then retire t 2 (setThread t ((pushTile e th).endHold 0) x.2.2)
    else setThread t { th with tile := { th.tile with hold := some e } } x.2.2
  | some (r, s) =>
    if s.waits then blockedRun t s m
    else
      let th := if transposed then th.endHold 0
        else (if e.rows.isEmpty then th else pushTile e th).endHold (BitVec.ofNat 5 r)
      settleStop t r s m (setThread t th x.2.2)

/-- A tile instruction waits while the queue is full or data it must follow is outstanding (R170, R194). An issued load holds
its place in the queue until its rows have come: DESIGN CHOICE (log 47). -/
def tileDispatch (t : Nat) (i : Instr) (legal : Thread → Bool) (memory : Bool) (k : Thread → Module → Module) (s : State) :
    Outcome State Fault Refusal :=
  issue t (fun th m =>
    if !legal th then illegal t i m
    else if th.tile.queue.length ≥ 16 then m
    else if memory && (th.loads.any (·.data.isNone) || !th.vec.pending.isEmpty) then m
    else k th m) s

/-- A tile memory instruction of operation `op`: dispatched, or checking its next rows while it holds dispatch (R194,
R200). `start` gives its entry, and `k` checks the next rows of an entry. -/
def rowDispatch (t : Nat) (i : Instr) (op : TileOp) (legal : Thread → Bool) (start : Thread → Option TileEntry)
    (k : TileEntry → Module → Module) (s : State) : Outcome State Fault Refusal :=
  match (threadAt s.m t).tile.hold with
  | .none =>
    tileDispatch t i legal true (fun th m =>
      match start th with
      | some e => k e m
      | .none => m) s
  | some e => onModule (fun m => if runsNext m t && e.op == op then k e m else m) s

/-- Bytes of one row of a tile memory instruction, and the alignment of its address. -/
def rowSpan (scales : Bool) (o : TileMemOp) : Nat × Nat :=
  let w := codeWidth o.fmt.toNat
  if scales then (o.cols.toNat + 1, 1)
  else if o.tr = 1 then ((o.rows.toNat + 1) * w / 8, w / 8)
  else (ceilDiv ((o.cols.toNat + 1) * w) 8, Nat.max 1 (w / 8))

/-- TLD, TST and TLDS dispatch (R198, R200, R201). -/
def tileMemory (t : Nat) (i : Instr) (op : TileOp) (o : TileMemOp) (need : Need) (scales : Bool) (s : State) :
    Outcome State Fault Refusal :=
  rowDispatch t i op (fun th => tileMemLegal th.tile.lease.toNat scales o)
    (fun th =>
      match th.src o.rb, th.src o.rs with
      | some b, some d => some { newTileEntry th op with base := b, stride := d }
      | _, _ => .none)
    (fun e m =>
      let n := rowSpan scales o
      let rows := if o.tr = 1 then List.range (o.cols.toNat + 1)
        else (List.range (o.rows.toNat + 1)).drop (threadAt m t).tile.start.toNat
      dispatchRows t e (o.tr == 1) rows (fun r => checkRow t need n.2 n.1 (e.base + BitVec.ofNat 64 r * e.stride)) m) s

/-- TLD (R198). -/
def execTld (t : Nat) (o : TileMemOp) (s : State) : Outcome State Fault Refusal :=
  tileMemory t (.tld t o) (.load o) o .read false s

/-- TST (R198). -/
def execTst (t : Nat) (o : TileMemOp) (s : State) : Outcome State Fault Refusal :=
  tileMemory t (.tst t o) (.store o) o .write false s

/-- TLDS (R198). -/
def execTlds (t : Nat) (o : TileMemOp) (s : State) : Outcome State Fault Refusal :=
  tileMemory t (.tlds t o) (.scales o) o .read true s

/-- TMMA dispatch (R192). -/
def execTmma (t : Nat) (o : TmmaOp) (s : State) : Outcome State Fault Refusal :=
  tileDispatch t (.tmma t o) (fun th => mmaLegal th.tile.lease.toNat o) false
    (fun th m => retire t 2 (setThread t (pushTile (newTileEntry th (.mma o)) th) m)) s

/-- The scale register of a move: bits 31:0 of gs. -/
def moveScale (o : TileMoveOp) (th : Thread) : Option (BitVec 32) :=
  if o.gs = 0 then some 0 else (th.src o.gs).map fun g => g.setWidth 32

/-- TACCV dispatch (R205). -/
def execTaccv (t : Nat) (o : TileMoveOp) (s : State) : Outcome State Fault Refusal :=
  tileDispatch t (.taccv t o) (fun th => taccvLegal th.tile.lease.toNat o) false
    (fun th m =>
      if !(coreAt m (t / 2)).vecUp then wakeVector t m
      else if th.vecAwaits [o.rb] then m
      else retire t 2 (setThread t (pushTile (newTileEntry th (.toVec o)) th) m)) s

/-- TACCT dispatch (R205). -/
def execTacct (t : Nat) (o : TileMoveOp) (s : State) : Outcome State Fault Refusal :=
  tileDispatch t (.tacct t o) (fun th => tacctLegal th.tile.lease.toNat o) false
    (fun th m =>
      match moveScale o th with
      | some g => retire t 2 (setThread t (pushTile { newTileEntry th (.toTile o) with scale := g } th) m)
      | .none => m) s

/-- Columns of a move (R205). -/
def moveCols (half : Bool) : Nat := if half then 16 else 32

/-- TACCS dispatch (R205, R206). -/
def execTaccs (t : Nat) (o : TileMoveOp) (s : State) : Outcome State Fault Refusal :=
  rowDispatch t (.taccs t o) (.toMem o) (fun th => taccsLegal th.tile.lease.toNat o)
    (fun th =>
      match th.src o.rb, th.src o.rs, moveScale o th with
      | some b, some d, some g => some { newTileEntry th (.toMem o) with base := b, stride := d, scale := g }
      | _, _, _ => .none)
    (fun e m =>
      let w := codeBytes' o.fmt.toNat
      dispatchRows t e false ((List.range (o.rows.toNat + 1)).drop (threadAt m t).tile.start.toNat)
        (fun r => checkRow t (if o.red = 1 then .update else .write) w (w * moveCols e.half)
          (e.base + BitVec.ofNat 64 r * e.stride)) m) s
where
  /-- Bytes of an element of a move's destination. -/
  codeBytes' (c : Nat) : Nat := codeWidth c / 8

/-! ## Order of issue (R195) -/

/-- What a tile instruction uses: tiles as (kind, array, number), and one of three resources. -/
def TileOp.reads : TileOp → List (Nat × Nat × Nat)
  | .mma o => (0, 0, o.wt.toNat) :: (((List.range 4).filter o.amask.getLsbD).flatMap fun a =>
      [(1, a, tField o a)] ++ (if o.acc = 1 then [(2, a, o.acct.toNat)] else []))
  | .store o => [tileName o.tile.toNat o.arr.toNat]
  | .toVec o | .toTile o | .toMem o => [(2, o.arr.toNat, o.acct.toNat)]
  | _ => []
where
  /-- A weight or activation tile. -/
  tileName (tile arr : Nat) : Nat × Nat × Nat := if tile < 8 then (0, 0, tile) else (1, arr, tile - 8)

def TileOp.writes : TileOp → List (Nat × Nat × Nat)
  | .mma o => ((List.range 4).filter o.amask.getLsbD).map fun a => (2, a, o.acct.toNat)
  | .load o | .scales o => [TileOp.reads.tileName o.tile.toNat o.arr.toNat]
  | .toTile o => [TileOp.reads.tileName o.dtile.toNat o.darr.toNat]
  | .toVec o => [(3, 0, o.rb.toNat)]
  | _ => []

/-- 0 the arrays, 1 the tile port, 2 the move path. -/
def TileOp.resource : TileOp → Nat
  | .mma _ => 0
  | .load _ | .store _ | .scales _ | .toMem _ => 1
  | .toVec _ | .toTile _ => 2

/-- Whether a later instruction must wait for an earlier one that is not complete. -/
def mustFollow (early late : TileEntry) : Bool :=
  let w := early.op.writes
  (late.op.reads ++ late.op.writes).any w.contains || early.op.reads.any late.op.writes.contains
    || (!early.issued && early.op.resource == late.op.resource)
    || (early.rows.any fun r => r.2.any fun p => late.rows.any fun q => q.2.any fun x => meets p.1 p.2 x.1 x.2)

/-- A queued instruction may issue. -/
def mayIssue (th : Thread) (e : TileEntry) : Bool :=
  !e.issued && !((th.tile.queue.takeWhile fun x => x.id != e.id).any fun x => mustFollow x e)

def dropTile (t id : Nat) (m : Module) : Module :=
  let th := threadAt m t
  setThread t { th with tile := { th.tile with queue := th.tile.queue.filter fun e => e.id != id } } m

/-! ## Accumulator moves (R205) -/

/-- A value read from an accumulator in the form its destination converts from. -/
def moveValue (fmt v : Nat) : Fp.Val := if fmt = 5 ∨ fmt = 6 then Fp.ofInt 32 v else Fp.decode Fp.fp32 v

/-- One converted element, with the flags of its source half. -/
def moveElem (e : TileEntry) (fmt gs v : Nat) : Nat × ArrFlags :=
  if gs = 0 ∧ fmt = 6 then (v, 0)
  else if gs = 0 ∧ fmt = 0 then (v, nonFiniteFlag v)
  else
    let md : Fp.Mode := { rm := if e.rm = 2 then 0 else e.rm.toNat, ovs := e.ovs, draw := 0 }
    let x := if gs = 0 then (moveValue fmt v, (0 : Fp.Flags))
      else Fp.mulVal (moveValue fmt v) (Fp.decode Fp.fp32 e.scale.toNat)
    let r := Fp.encodeCode fmt md x.1
    if fmt = 5 then
      (r.1, (if x.2 &&& Fp.fNV ≠ 0 || x.1.isNan then aNV else 0) ||| (if r.2 &&& Fp.fNV ≠ 0 && !x.1.isNan then aIW else 0))
    else
      (r.1, roundFlags (x.2 ||| r.2) ||| (if gs ≠ 0 ∧ x.1.isNan then aNV else 0)
        ||| (if (Fp.decodeCode fmt r.1).nonFinite then aNF else 0))

/-- The converted row `m` of a move, and the core with its flags. -/
def moveRow (t : Nat) (e : TileEntry) (o : TileMoveOp) (m : Nat) (k : Core) : List Nat × Core :=
  let n := moveCols e.half
  let rs := (List.range n).map fun c =>
    moveElem e o.fmt.toNat o.gs.toNat (accElem k t e.half o.arr.toNat o.acct.toNat m c)
  (rs.map (·.1), (rs.zipIdx).foldl (fun k p => setArrFlags o.arr.toNat (halfBase t e.half + p.2) p.1.2 k) k)

/-- A row of packed elements, its rest zero. -/
def packRow (w : Nat) (xs : List Nat) : BitVec 512 :=
  (xs.zipIdx).foldl (fun r p => r ||| (BitVec.ofNat 512 p.1 <<< (w * p.2))) 0

/-- TACCT: rows 0 to ROWS - 1 of the destination tile. -/
def moveToTile (t : Nat) (e : TileEntry) (o : TileMoveOp) (k : Core) : Core :=
  (List.range (o.rows.toNat + 1)).foldl (fun k m =>
    let r := moveRow t e o m k
    putTileRow t e.half o.dtile.toNat o.darr.toNat m { data := packRow (codeWidth o.fmt.toNat) r.1, scale := 0 } r.2) k

/-- TACCV: row m into elements 0 to C - 1 of vd. -/
def moveToVec (t : Nat) (e : TileEntry) (o : TileMoveOp) (m : Module) : Module :=
  let r := moveRow t e o o.rows.toNat (coreAt m (t / 2))
  let m := setCore (t / 2) r.2 m
  let th := threadAt m t
  setThread t (th.putVreg o.rb ((r.1.zipIdx).foldl (fun v p => putElem v 32 p.2 p.1) (th.vreg o.rb))) m

/-- Bytes written over the physical pieces of a row. -/
def writePieces (t va : Nat) (hint : BitVec 2) : List (Nat × Nat) → List Byte → Acc Unit
  | [], _ => pure ()
  | p :: ps, bs => do
    threadWrite t (placeOfNumber p.1) va p.2 (ofBytes (bs.take p.2)) hint
    writePieces t va hint ps (bs.drop p.2)

def readPieces (t va : Nat) (hint : BitVec 2) : List (Nat × Nat) → Acc (List Byte)
  | [] => pure []
  | p :: ps => do
    let v ← threadRead t (placeOfNumber p.1) va p.2 hint
    let bs ← readPieces t va hint ps
    pure (bytesOf p.2 v ++ bs)

/-- The elements of one row with the places they go to, in ascending order. -/
def rowElements (w : Nat) : List (Nat × Nat) → List Nat → List (Nat × Nat)
  | [], _ => []
  | p :: ps, xs =>
    ((xs.take (p.2 / w)).zipIdx.map fun q => (p.1 + w * q.2, q.1)) ++ rowElements w ps (xs.drop (p.2 / w))

/-- One more element of a reducing move has been sent. -/
def noteSent (t id : Nat) (m : Module) : Module :=
  let th := threadAt m t
  setThread t { th with tile := { th.tile with queue := th.tile.queue.map fun x =>
    if x.id == id then { x with sent := x.sent + 1 } else x } } m

/-- The reductions of one row, in ascending element order (R206). -/
def reduceElements (t id va op : Nat) : List (Nat × Nat) → Acc Unit
  | [] => pure ()
  | q :: qs => do
    sendReduction t (BitVec.ofNat 3 op) (placeOfNumber q.1) va q.2
    modify (noteSent t id)
    reduceElements t id va op qs

/-- TACCS: each checked row is converted and stored, or reduced into memory from the first element not yet sent on. -/
def moveToMem (t : Nat) (e : TileEntry) (o : TileMoveOp) : Acc Unit := do
  let w := codeWidth o.fmt.toNat / 8
  for r in e.rows.zipIdx do
    let m ← get
    let x := moveRow t e o r.1.1 (coreAt m (t / 2))
    set (setCore (t / 2) x.2 m)
    let va := (e.base + BitVec.ofNat 64 r.1.1 * e.stride).toNat
    if o.red = 1 then
      reduceElements t e.id va (if o.fmt = 6 then 0 else if o.fmt = 0 then 1 else 2)
        ((rowElements w r.1.2 x.1).drop (e.sent - r.2 * moveCols e.half))
    else writePieces t va o.hint r.1.2 ((x.1.map (bytesOf w)).flatten)

/-! ## Tile stores and loads (R198, R203) -/

/-- Bytes of memory row `r` that a TST stores: `old` gives the bits it does not, and `open_` those of rows without
storage, for which the spec states no value. DESIGN CHOICE (log 46). -/
def storeRow (k : Core) (t : Nat) (e : TileEntry) (o : TileMemOp) (r : Nat) (old : List Byte) (open_ : BitVec 512) :
    List Byte :=
  let w := codeWidth o.fmt.toNat
  let row (i : Nat) : TileRow := tileRowAt k t e.half o.tile.toNat o.arr.toNat i
  if o.tr = 1 then
    (List.range (o.rows.toNat + 1)).flatMap fun i => bytesOf (w / 8)
      (if rowNamed e.half o.tile.toNat i then bitsOf (row i).data (w * r + w - 1) (w * r)
       else bitsOf open_ (w * (i - 16) + w - 1) (w * (i - 16)))
  else
    let n := (o.cols.toNat + 1) * w
    let keep := ofBytes old
    bytesOf (ceilDiv n 8) (bitsOf (row r).data (n - 1) 0 + (keep >>> n) <<< n)

/-- TST: every checked row is stored. -/
def storeTile (t : Nat) (e : TileEntry) (o : TileMemOp) : Acc Unit := do
  let n := (o.cols.toNat + 1) * codeWidth o.fmt.toNat
  for r in e.rows do
    let va := (e.base + BitVec.ofNat 64 r.1 * e.stride).toNat
    let old ← if o.tr = 0 ∧ n % 8 ≠ 0 then readPieces t va o.hint r.2 else pure []
    let m ← get
    let open_ := if rowNamed e.half o.tile.toNat o.rows.toNat then (0, m) else takeFree 512 m
    set open_.2
    writePieces t va o.hint r.2 (storeRow (coreAt m (t / 2)) t e o r.1 old open_.1)

/-- Loaded bytes of row `r` placed into the tile. -/
def placeRow (t : Nat) (e : TileEntry) (o : TileMemOp) (scales : Bool) (r : Nat) (bs : List Byte) (k : Core) : Core :=
  let w := codeWidth o.fmt.toNat
  let row (i : Nat) : TileRow := tileRowAt k t e.half o.tile.toNat o.arr.toNat i
  let put (i : Nat) (x : TileRow) (k : Core) : Core := putTileRow t e.half o.tile.toNat o.arr.toNat i x k
  if scales then put r { row r with scale := BitVec.ofNat 32 (ofBytes bs) } k
  else if o.tr = 1 then
    (List.range (o.rows.toNat + 1)).foldl (fun k i =>
      let old := tileRowAt k t e.half o.tile.toNat o.arr.toNat i
      let base : BitVec 512 := if r = 0 then 0 else old.data
      put i { old with data := putBits base (w * r + w - 1) (w * r) (field bs (w / 8 * i) (w / 8)) } k) k
  else put r { row r with data := BitVec.ofNat 512 (ofBytes bs % 2 ^ ((o.cols.toNat + 1) * w)) } k

/-- Load the rows of an entry until one stops: its row, and how. -/
def loadRows (t : Nat) (e : TileEntry) (o : TileMemOp) (scales : Bool) :
    List (Nat × List (Nat × Nat)) → Module → Option (Nat × Stop) × Module
  | [], m => (.none, m)
  | r :: rs, m =>
    let va := (e.base + BitVec.ofNat 64 r.1 * e.stride).toNat
    match (readPieces t va o.hint r.2).go m with
    | (.ok bs, m) =>
      loadRows t e o scales rs (setCore (t / 2) (placeRow t e o scales r.1 bs (coreAt m (t / 2))) m)
    | (.error s, m') => (some (r.1, s), m')

/-- Rows of a tile from `row` on hold free values (R203, log 4). -/
def loseRows (t : Nat) (e : TileEntry) (o : TileMemOp) (scales : Bool) (row : Nat) (m : Module) : Module :=
  let rows := (List.range (o.rows.toNat + 1)).filter fun i => o.tr == 1 || i ≥ row
  rows.foldl (fun m i =>
    let d := takeFree 512 m
    let s := takeFree 32 d.2
    let k := coreAt s.2 (t / 2)
    let old := tileRowAt k t e.half o.tile.toNat o.arr.toNat i
    let x : TileRow := if scales then { old with scale := s.1 } else { old with data := d.1 }
    setCore (t / 2) (putTileRow t e.half o.tile.toNat o.arr.toNat i x k) s.2) m

/-- Data of a tile load with an uncorrectable error ends the task (R203, R425). COUNT0 of its record is 0: the spec states
no completed bytes for a task. DESIGN CHOICE (log 67). -/
def loadError (t : Nat) (e : TileEntry) (o : TileMemOp) (scales : Bool) (row addr : Nat) (m : Module) : Module :=
  let m := loseRows t e o scales row (dropTile t e.id m)
  endTask (threadAt m t).task { status := 0x51 } (raiseError 3 0x22 (handleCore (t / 2)) addr 0 m)

/-- The load an entry is, with whether it loads scales. -/
def TileEntry.loads (e : TileEntry) : Option (TileMemOp × Bool) :=
  match e.op with
  | .load o => some (o, false)
  | .scales o => some (o, true)
  | _ => .none

/-- The entry `k` of a thread's tile queue. -/
def tileAt (m : Module) (t k : Nat) : Option TileEntry := (threadAt m t).tile.queue.find? fun e => e.id == k

/-! ## Issue and completion -/

/-- An entry is to issue again. -/
def unissue (t id : Nat) (m : Module) : Module :=
  let th := threadAt m t
  setThread t { th with tile := { th.tile with queue := th.tile.queue.map fun x =>
    if x.id == id then { x with issued := false } else x } } m

/-- A transfer of checked rows meets a fault of the host or of a way: the thread suspends and the transfer is queued to be
made again once it runs (R250, R252, R374), so that it keeps the other thread from nothing (R209); of a stopping thread it
is given up. DEDUCED (log 47). -/
def faultTile (t : Nat) (e : TileEntry) (row kind access va : Nat) (m : Module) : Module :=
  let m := unissue t e.id m
  if (threadAt m t).run == .stopping then dropTile t e.id m
  else if (threadAt m t).run == .suspended then m
  else faultThread t kind access row va e.pc m

/-- A tile memory access at issue has stopped: it waits, it suspends its thread, or its data error ends the task. -/
def stopTile (t : Nat) (e : TileEntry) (s : Stop) (m m' : Module) : Module :=
  match s with
  | .wait | .fetch _ _ _ _ | .miss _ _ _ | .register _ | .clean _ => s.asks m
  | .fault kind access va | .faultUnder _ kind access va => faultTile t e 0 kind access va m'
  | .poison _ pa =>
    endTask (threadAt m' t).task { status := 0x51 } (raiseError 3 0x22 (handleCore (t / 2)) pa 0 m')
  | _ => m'

/-- A queued tile instruction issues: all but loads are complete with it, their effects being those of program order.
DEDUCED (log 47). -/
def issueTile (t : Nat) (e : TileEntry) (m : Module) : Module :=
  let th := threadAt m t
  match e.op with
  | .mma o =>
    let m := perf t 0x12 (mmaBeats o) (setCore (t / 2) (mmaCore t e o (coreAt m (t / 2))) m)
    dropTile t e.id (if e.ref then perf t 0x13 (mmaBeats o) m else m)
  | .load _ | .scales _ =>
    setThread t { th with tile := { th.tile with queue := th.tile.queue.map fun x =>
      if x.id == e.id then { x with issued := true } else x } } m
  | .store o =>
    match (storeTile t e o).go m with
    | (.ok _, m) => dropTile t e.id m
    | (.error s, m') => stopTile t e s m m'
  | .toVec o => dropTile t e.id (moveToVec t e o m)
  | .toTile o => dropTile t e.id (setCore (t / 2) (moveToTile t e o (coreAt m (t / 2))) m)
  | .toMem o =>
    match (moveToMem t e o).go m with
    | (.ok _, m) => dropTile t e.id m
    | (.error s, m') => stopTile t e s m m'

/-- Queued instructions issue only while the thread runs (R209). -/
def tileRuns (m : Module) (t : Nat) : Bool :=
  alive m && t < 384 && !unitGated m (handleCore (t / 2)) && (match (threadAt m t).run with
    | .running | .waiting | .filling => true
    | _ => false)

/-- The tile port, which serves the two threads of a core in the order they issue: a store waits until the other thread's
issued loads have their rows (R195, R196). -/
def portFree (m : Module) (t : Nat) (e : TileEntry) : Bool :=
  e.op.resource != 1 || e.loads.isSome
    || !((threadAt m (if t % 2 = 0 then t + 1 else t - 1)).tile.queue.any fun x => x.issued)

/-- TILE_ISSUE (R195). -/
def execTileIssue (t k : Nat) (s : State) : Outcome State Fault Refusal :=
  onModule (fun m =>
    match tileAt m t k with
    | some e => if tileRuns m t && mayIssue (threadAt m t) e && portFree m t e then issueTile t e m else m
    | .none => m) s

/-- The rows of an issued load arrive. -/
def returnTile (t : Nat) (e : TileEntry) (o : TileMemOp) (scales : Bool) (m : Module) : Module :=
  match loadRows t e o scales e.rows m with
  | (.none, m) => dropTile t e.id m
  | (some (row, .poison _ pa), m) => loadError t e o scales row pa m
  | (some (row, .fault kind access va), m) => faultTile t e row kind access va m
  | (some (_, s), _) => s.asks m

/-- TILE_LOAD_DATA_RETURN (R196). -/
def execTileLoadDataReturn (t k : Nat) (s : State) : Outcome State Fault Refusal :=
  onModule (fun m =>
    match tileAt m t k with
    | some e =>
      match e.loads with
      | some (o, scales) => if alive m && e.issued then returnTile t e o scales m else m
      | .none => m
    | .none => m) s

/-- TILE_LOAD_DATA_ERROR (R203). -/
def execTileLoadDataError (t k row : Nat) (s : State) : Outcome State Fault Refusal :=
  onModule (fun m =>
    match tileAt m t k with
    | some e =>
      match e.loads with
      | some (o, scales) =>
        if alive m && e.issued then
          let x := loadRows t e o scales (e.rows.takeWhile fun r => r.1 < row) m
          let pa := ((e.rows.find? fun r => r.1 == row).bind fun r => r.2.head?).map (·.1)
          loadError t e o scales row (pa.getD 0) x.2
        else m
      | .none => m
    | .none => m) s

end Sys2Proof.Machine
end

