-- ==== Sys2Proof/Machine/Dispatch.lean ====
section
/-! DEFINITION. One arm per command: the meaning it calls. -/

namespace Sys2Proof.Machine

def exec (i : Instr) (s : State) : Host.Outcome State Fault Refusal :=
  match i with
  | .sqDb r value => Sys2Proof.Machine.execSqDb r value s
  | .cqDb r value => Sys2Proof.Machine.execCqDb r value s
  | .ringEnable r ctrl => Sys2Proof.Machine.execRingEnable r ctrl s
  | .ringDisable r ctrl => Sys2Proof.Machine.execRingDisable r ctrl s
  | .quiesced r => Sys2Proof.Machine.execQuiesced r s
  | .rootIfrevWrite value => Sys2Proof.Machine.execRootIfrevWrite value s
  | .descriptorFetch slots => Sys2Proof.Machine.execDescriptorFetch slots s
  | .descriptorReadFailure => Sys2Proof.Machine.execDescriptorReadFailure s
  | .modtimerExpiry r => Sys2Proof.Machine.execModtimerExpiry r s
  | .noop p => Sys2Proof.Machine.execNoop p s
  | .copy p => Sys2Proof.Machine.execCopy p s
  | .copyComplete p => Sys2Proof.Machine.execCopyComplete p s
  | .tokenSet p => Sys2Proof.Machine.execTokenSet p s
  | .tokenClear p => Sys2Proof.Machine.execTokenClear p s
  | .abort p => Sys2Proof.Machine.execAbort p s
  | .abortComplete p => Sys2Proof.Machine.execAbortComplete p s
  | .stopRequest t => Sys2Proof.Machine.execStopRequest t s
  | .threadStopped t => Sys2Proof.Machine.execThreadStopped t s
  | .stashAndHazeConfiguration p => Sys2Proof.Machine.execStashAndHazeConfiguration p s
  | .weirTableWrite p => Sys2Proof.Machine.execWeirTableWrite p s
  | .keyLoad p => Sys2Proof.Machine.execKeyLoad p s
  | .keyRetire p => Sys2Proof.Machine.execKeyRetire p s
  | .firmwareActivation p => Sys2Proof.Machine.execFirmwareActivation p s
  | .firmwareStoreComplete ok => Sys2Proof.Machine.execFirmwareStoreComplete ok s
  | .fabricTopologyAndRouteChange p => Sys2Proof.Machine.execFabricTopologyAndRouteChange p s
  | .freeze p => Sys2Proof.Machine.execFreeze p s
  | .thaw p => Sys2Proof.Machine.execThaw p s
  | .clockSourceChange p => Sys2Proof.Machine.execClockSourceChange p s
  | .dividerStep n => Sys2Proof.Machine.execDividerStep n s
  | .loopRelock n => Sys2Proof.Machine.execLoopRelock n s
  | .squallEnable p => Sys2Proof.Machine.execSquallEnable p s
  | .squallDisable p => Sys2Proof.Machine.execSquallDisable p s
  | .squallActiveEnd => Sys2Proof.Machine.execSquallActiveEnd s
  | .warmResetCommand p => Sys2Proof.Machine.execWarmResetCommand p s
  | .headgateCycle => Sys2Proof.Machine.execHeadgateCycle s
  | .taskAdmit p => Sys2Proof.Machine.execTaskAdmit p s
  | .taskRetire p => Sys2Proof.Machine.execTaskRetire p s
  | .headgateStall => Sys2Proof.Machine.execHeadgateStall s
  | .reservation => Sys2Proof.Machine.execReservation s
  | .frCtrlEnable value => Sys2Proof.Machine.execFrCtrlEnable value s
  | .frCtrlDisable value => Sys2Proof.Machine.execFrCtrlDisable value s
  | .frPtrHeadWrite head => Sys2Proof.Machine.execFrPtrHeadWrite head s
  | .frResume seq => Sys2Proof.Machine.execFrResume seq s
  | .frKill seq => Sys2Proof.Machine.execFrKill seq s
  | .faultRecordDrain => Sys2Proof.Machine.execFaultRecordDrain s
  | .mmuInvPage asid vpn => Sys2Proof.Machine.execMmuInvPage asid vpn s
  | .mmuInvAsid asid => Sys2Proof.Machine.execMmuInvAsid asid s
  | .mmuInvAll => Sys2Proof.Machine.execMmuInvAll s
  | .mmuInvIgnored value => Sys2Proof.Machine.execMmuInvIgnored value s
  | .mmuInvComplete => Sys2Proof.Machine.execMmuInvComplete s
  | .atsInvalidation pasid addr size => Sys2Proof.Machine.execAtsInvalidation pasid addr size s
  | .add t rd rs1 rs2 => Sys2Proof.Machine.execAdd t rd rs1 rs2 s
  | .sub t rd rs1 rs2 => Sys2Proof.Machine.execSub t rd rs1 rs2 s
  | .andR t rd rs1 rs2 => Sys2Proof.Machine.execAndR t rd rs1 rs2 s
  | .orR t rd rs1 rs2 => Sys2Proof.Machine.execOrR t rd rs1 rs2 s
  | .xorR t rd rs1 rs2 => Sys2Proof.Machine.execXorR t rd rs1 rs2 s
  | .sll t rd rs1 rs2 => Sys2Proof.Machine.execSll t rd rs1 rs2 s
  | .srl t rd rs1 rs2 => Sys2Proof.Machine.execSrl t rd rs1 rs2 s
  | .sra t rd rs1 rs2 => Sys2Proof.Machine.execSra t rd rs1 rs2 s
  | .minS t rd rs1 rs2 => Sys2Proof.Machine.execMinS t rd rs1 rs2 s
  | .maxS t rd rs1 rs2 => Sys2Proof.Machine.execMaxS t rd rs1 rs2 s
  | .minu t rd rs1 rs2 => Sys2Proof.Machine.execMinu t rd rs1 rs2 s
  | .maxu t rd rs1 rs2 => Sys2Proof.Machine.execMaxu t rd rs1 rs2 s
  | .clz t rd rs1 => Sys2Proof.Machine.execClz t rd rs1 s
  | .ctz t rd rs1 => Sys2Proof.Machine.execCtz t rd rs1 s
  | .popc t rd rs1 => Sys2Proof.Machine.execPopc t rd rs1 s
  | .addw t rd rs1 rs2 => Sys2Proof.Machine.execAddw t rd rs1 rs2 s
  | .subw t rd rs1 rs2 => Sys2Proof.Machine.execSubw t rd rs1 rs2 s
  | .mul t rd rs1 rs2 => Sys2Proof.Machine.execMul t rd rs1 rs2 s
  | .mulh t rd rs1 rs2 => Sys2Proof.Machine.execMulh t rd rs1 rs2 s
  | .mulhu t rd rs1 rs2 => Sys2Proof.Machine.execMulhu t rd rs1 rs2 s
  | .divS t rd rs1 rs2 => Sys2Proof.Machine.execDivS t rd rs1 rs2 s
  | .divu t rd rs1 rs2 => Sys2Proof.Machine.execDivu t rd rs1 rs2 s
  | .rem t rd rs1 rs2 => Sys2Proof.Machine.execRem t rd rs1 rs2 s
  | .remu t rd rs1 rs2 => Sys2Proof.Machine.execRemu t rd rs1 rs2 s
  | .seq t rd rs1 rs2 => Sys2Proof.Machine.execSeq t rd rs1 rs2 s
  | .sne t rd rs1 rs2 => Sys2Proof.Machine.execSne t rd rs1 rs2 s
  | .slt t rd rs1 rs2 => Sys2Proof.Machine.execSlt t rd rs1 rs2 s
  | .sge t rd rs1 rs2 => Sys2Proof.Machine.execSge t rd rs1 rs2 s
  | .sltu t rd rs1 rs2 => Sys2Proof.Machine.execSltu t rd rs1 rs2 s
  | .sgeu t rd rs1 rs2 => Sys2Proof.Machine.execSgeu t rd rs1 rs2 s
  | .addi t rd rs1 imm => Sys2Proof.Machine.execAddi t rd rs1 imm s
  | .andi t rd rs1 imm => Sys2Proof.Machine.execAndi t rd rs1 imm s
  | .ori t rd rs1 imm => Sys2Proof.Machine.execOri t rd rs1 imm s
  | .xori t rd rs1 imm => Sys2Proof.Machine.execXori t rd rs1 imm s
  | .slli t rd rs1 sh => Sys2Proof.Machine.execSlli t rd rs1 sh s
  | .srli t rd rs1 sh => Sys2Proof.Machine.execSrli t rd rs1 sh s
  | .srai t rd rs1 sh => Sys2Proof.Machine.execSrai t rd rs1 sh s
  | .slti t rd rs1 imm => Sys2Proof.Machine.execSlti t rd rs1 imm s
  | .sltiu t rd rs1 imm => Sys2Proof.Machine.execSltiu t rd rs1 imm s
  | .cati t rd rs1 imm => Sys2Proof.Machine.execCati t rd rs1 imm s
  | .rcati t rd rs1 imm => Sys2Proof.Machine.execRcati t rd rs1 imm s
  | .load t op => Sys2Proof.Machine.execLoad t op s
  | .loadS t op => Sys2Proof.Machine.execLoadS t op s
  | .store t op => Sys2Proof.Machine.execStore t op s
  | .loadDataReturn t rd => Sys2Proof.Machine.execLoadDataReturn t rd s
  | .branch t rs1 rs2 cond off => Sys2Proof.Machine.execBranch t rs1 rs2 cond off s
  | .branchI t rs1 imm cond off => Sys2Proof.Machine.execBranchI t rs1 imm cond off s
  | .jump t off => Sys2Proof.Machine.execJump t off s
  | .call t off => Sys2Proof.Machine.execCall t off s
  | .jr t rs1 => Sys2Proof.Machine.execJr t rs1 s
  | .callr t rs1 => Sys2Proof.Machine.execCallr t rs1 s
  | .ret t => Sys2Proof.Machine.execRet t s
  | .returnStackFill t => Sys2Proof.Machine.execReturnStackFill t s
  | .loopR t n rs len => Sys2Proof.Machine.execLoopR t n rs len s
  | .loopi t n count len => Sys2Proof.Machine.execLoopi t n count len s
  | .lclr t n => Sys2Proof.Machine.execLclr t n s
  | .trap t num => Sys2Proof.Machine.execTrap t num s
  | .endTask t => Sys2Proof.Machine.execEndTask t s
  | .rfx t => Sys2Proof.Machine.execRfx t s
  | .wait t => Sys2Proof.Machine.execWait t s
  | .waitWake t => Sys2Proof.Machine.execWaitWake t s
  | .mfsr t g sr => Sys2Proof.Machine.execMfsr t g sr s
  | .mtsr t g sr => Sys2Proof.Machine.execMtsr t g sr s
  | .sync t => Sys2Proof.Machine.execSync t s
  | .leaseWrite t g => Sys2Proof.Machine.execLeaseWrite t g s
  | .vfstatClr t g => Sys2Proof.Machine.execVfstatClr t g s
  | .exceptionEntry t src => Sys2Proof.Machine.execExceptionEntry t src s
  | .externalEvent t => Sys2Proof.Machine.execExternalEvent t s
  | .timer t => Sys2Proof.Machine.execTimer t s
  | .niExpiry t => Sys2Proof.Machine.execNiExpiry t s
  | .eventEdge d src => Sys2Proof.Machine.execEventEdge d src s
  | .evSwset d value => Sys2Proof.Machine.execEvSwset d value s
  | .evPendDiscard d w value => Sys2Proof.Machine.execEvPendDiscard d w value s
  | .evClaim d src reader => Sys2Proof.Machine.execEvClaim d src reader s
  | .holdExpiry d src => Sys2Proof.Machine.execHoldExpiry d src s
  | .moderationBypass d src => Sys2Proof.Machine.execModerationBypass d src s
  | .vld t op => Sys2Proof.Machine.execVld t op s
  | .vst t op => Sys2Proof.Machine.execVst t op s
  | .vectorElementAnswer t => Sys2Proof.Machine.execVectorElementAnswer t s
  | .vadd t op => Sys2Proof.Machine.execVadd t op s
  | .vsub t op => Sys2Proof.Machine.execVsub t op s
  | .vmul t op => Sys2Proof.Machine.execVmul t op s
  | .vmulh t op => Sys2Proof.Machine.execVmulh t op s
  | .vmulhu t op => Sys2Proof.Machine.execVmulhu t op s
  | .vmin t op => Sys2Proof.Machine.execVmin t op s
  | .vmax t op => Sys2Proof.Machine.execVmax t op s
  | .vminu t op => Sys2Proof.Machine.execVminu t op s
  | .vmaxu t op => Sys2Proof.Machine.execVmaxu t op s
  | .vand t op => Sys2Proof.Machine.execVand t op s
  | .vor t op => Sys2Proof.Machine.execVor t op s
  | .vxor t op => Sys2Proof.Machine.execVxor t op s
  | .vsll t op => Sys2Proof.Machine.execVsll t op s
  | .vsrl t op => Sys2Proof.Machine.execVsrl t op s
  | .vsra t op => Sys2Proof.Machine.execVsra t op s
  | .vsadd t op => Sys2Proof.Machine.execVsadd t op s
  | .vsaddu t op => Sys2Proof.Machine.execVsaddu t op s
  | .vssub t op => Sys2Proof.Machine.execVssub t op s
  | .vssubu t op => Sys2Proof.Machine.execVssubu t op s
  | .vsmulr t op => Sys2Proof.Machine.execVsmulr t op s
  | .vrsra t op => Sys2Proof.Machine.execVrsra t op s
  | .vrsrl t op => Sys2Proof.Machine.execVrsrl t op s
  | .vnars t op => Sys2Proof.Machine.execVnars t op s
  | .vnaru t op => Sys2Proof.Machine.execVnaru t op s
  | .vfadd t op => Sys2Proof.Machine.execVfadd t op s
  | .vfsub t op => Sys2Proof.Machine.execVfsub t op s
  | .vfmul t op => Sys2Proof.Machine.execVfmul t op s
  | .vfma t op => Sys2Proof.Machine.execVfma t op s
  | .vfnms t op => Sys2Proof.Machine.execVfnms t op s
  | .vfmin t op => Sys2Proof.Machine.execVfmin t op s
  | .vfmax t op => Sys2Proof.Machine.execVfmax t op s
  | .vfdiv t op => Sys2Proof.Machine.execVfdiv t op s
  | .vfsqrt t op => Sys2Proof.Machine.execVfsqrt t op s
  | .vceq t op => Sys2Proof.Machine.execVceq t op s
  | .vcne t op => Sys2Proof.Machine.execVcne t op s
  | .vclt t op => Sys2Proof.Machine.execVclt t op s
  | .vcltu t op => Sys2Proof.Machine.execVcltu t op s
  | .vcle t op => Sys2Proof.Machine.execVcle t op s
  | .vcleu t op => Sys2Proof.Machine.execVcleu t op s
  | .vcfeq t op => Sys2Proof.Machine.execVcfeq t op s
  | .vcflt t op => Sys2Proof.Machine.execVcflt t op s
  | .vcfle t op => Sys2Proof.Machine.execVcfle t op s
  | .vcfun t op => Sys2Proof.Machine.execVcfun t op s
  | .vcvt t op => Sys2Proof.Machine.execVcvt t op s
  | .vrsum t op => Sys2Proof.Machine.execVrsum t op s
  | .vrmax t op => Sys2Proof.Machine.execVrmax t op s
  | .vrmin t op => Sys2Proof.Machine.execVrmin t op s
  | .vrmaxu t op => Sys2Proof.Machine.execVrmaxu t op s
  | .vrminu t op => Sys2Proof.Machine.execVrminu t op s
  | .vrfsum t op => Sys2Proof.Machine.execVrfsum t op s
  | .vrfmax t op => Sys2Proof.Machine.execVrfmax t op s
  | .vrfmin t op => Sys2Proof.Machine.execVrfmin t op s
  | .vmv t op => Sys2Proof.Machine.execVmv t op s
  | .vbcast t op => Sys2Proof.Machine.execVbcast t op s
  | .vext t op => Sys2Proof.Machine.execVext t op s
  | .vins t op => Sys2Proof.Machine.execVins t op s
  | .vindex t op => Sys2Proof.Machine.execVindex t op s
  | .vshdn t op => Sys2Proof.Machine.execVshdn t op s
  | .vshup t op => Sys2Proof.Machine.execVshup t op s
  | .vrng t op => Sys2Proof.Machine.execVrng t op s
  | .vmand t op => Sys2Proof.Machine.execVmand t op s
  | .vmor t op => Sys2Proof.Machine.execVmor t op s
  | .vmxor t op => Sys2Proof.Machine.execVmxor t op s
  | .vmandn t op => Sys2Proof.Machine.execVmandn t op s
  | .vmcount t op => Sys2Proof.Machine.execVmcount t op s
  | .vmlow t op => Sys2Proof.Machine.execVmlow t op s
  | .setvc t rd rs1 size => Sys2Proof.Machine.execSetvc t rd rs1 size s
  | .vectorPowerDown c => Sys2Proof.Machine.execVectorPowerDown c s
  | .vectorWake c => Sys2Proof.Machine.execVectorWake c s
  | .tmma t op => Sys2Proof.Machine.execTmma t op s
  | .tld t op => Sys2Proof.Machine.execTld t op s
  | .tst t op => Sys2Proof.Machine.execTst t op s
  | .tlds t op => Sys2Proof.Machine.execTlds t op s
  | .taccv t op => Sys2Proof.Machine.execTaccv t op s
  | .tacct t op => Sys2Proof.Machine.execTacct t op s
  | .taccs t op => Sys2Proof.Machine.execTaccs t op s
  | .tileIssue t k => Sys2Proof.Machine.execTileIssue t k s
  | .tileLoadDataError t k row => Sys2Proof.Machine.execTileLoadDataError t k row s
  | .fence t => Sys2Proof.Machine.execFence t s
  | .fenceWb t rs1 rs2 => Sys2Proof.Machine.execFenceWb t rs1 rs2 s
  | .fenceInv t rs1 rs2 => Sys2Proof.Machine.execFenceInv t rs1 rs2 s
  | .fenceI t => Sys2Proof.Machine.execFenceI t s
  | .aswap t rd rs1 rs2 dbl => Sys2Proof.Machine.execAswap t rd rs1 rs2 dbl s
  | .aadd t rd rs1 rs2 dbl => Sys2Proof.Machine.execAadd t rd rs1 rs2 dbl s
  | .aand t rd rs1 rs2 dbl => Sys2Proof.Machine.execAand t rd rs1 rs2 dbl s
  | .aor t rd rs1 rs2 dbl => Sys2Proof.Machine.execAor t rd rs1 rs2 dbl s
  | .axor t rd rs1 rs2 dbl => Sys2Proof.Machine.execAxor t rd rs1 rs2 dbl s
  | .amin t rd rs1 rs2 dbl => Sys2Proof.Machine.execAmin t rd rs1 rs2 dbl s
  | .amax t rd rs1 rs2 dbl => Sys2Proof.Machine.execAmax t rd rs1 rs2 dbl s
  | .aminu t rd rs1 rs2 dbl => Sys2Proof.Machine.execAminu t rd rs1 rs2 dbl s
  | .amaxu t rd rs1 rs2 dbl => Sys2Proof.Machine.execAmaxu t rd rs1 rs2 dbl s
  | .acas t rd rs1 rs2 dbl => Sys2Proof.Machine.execAcas t rd rs1 rs2 dbl s
  | .atomicResult t rd => Sys2Proof.Machine.execAtomicResult t rd s
  | .redInt32Add t rs1 rs2 => Sys2Proof.Machine.execRedInt32Add t rs1 rs2 s
  | .redFp32Add t rs1 rs2 => Sys2Proof.Machine.execRedFp32Add t rs1 rs2 s
  | .redBf16Add t rs1 rs2 => Sys2Proof.Machine.execRedBf16Add t rs1 rs2 s
  | .redInt32Max t rs1 rs2 => Sys2Proof.Machine.execRedInt32Max t rs1 rs2 s
  | .redFp32Max t rs1 rs2 => Sys2Proof.Machine.execRedFp32Max t rs1 rs2 s
  | .redBf16Max t rs1 rs2 => Sys2Proof.Machine.execRedBf16Max t rs1 rs2 s
  | .vredInt32Add t op => Sys2Proof.Machine.execVredInt32Add t op s
  | .vredFp32Add t op => Sys2Proof.Machine.execVredFp32Add t op s
  | .vredBf16Add t op => Sys2Proof.Machine.execVredBf16Add t op s
  | .vredInt32Max t op => Sys2Proof.Machine.execVredInt32Max t op s
  | .vredFp32Max t op => Sys2Proof.Machine.execVredFp32Max t op s
  | .vredBf16Max t op => Sys2Proof.Machine.execVredBf16Max t op s
  | .reductionApply sl => Sys2Proof.Machine.execReductionApply sl s
  | .llcFill sl line => Sys2Proof.Machine.execLlcFill sl line s
  | .missRegisterGrant sl => Sys2Proof.Machine.execMissRegisterGrant sl s
  | .evictionWriteBack sl line => Sys2Proof.Machine.execEvictionWriteBack sl line s
  | .writeBackAcknowledge sl line => Sys2Proof.Machine.execWriteBackAcknowledge sl line s
  | .llcPrefetch sl line => Sys2Proof.Machine.execLlcPrefetch sl line s
  | .l1Prefetch t line => Sys2Proof.Machine.execL1Prefetch t line s
  | .wayPowerDown sl value => Sys2Proof.Machine.execWayPowerDown sl value s
  | .wayPowerUp sl value => Sys2Proof.Machine.execWayPowerUp sl value s
  | .waySequenceComplete sl => Sys2Proof.Machine.execWaySequenceComplete sl s
  | .patrolScrub line => Sys2Proof.Machine.execPatrolScrub line s
  | .refresh ch bank => Sys2Proof.Machine.execRefresh ch bank s
  | .wckDriftCheck ch drifted => Sys2Proof.Machine.execWckDriftCheck ch drifted s
  | .retrainComplete ch ok => Sys2Proof.Machine.execRetrainComplete ch ok s
  | .selfRefreshEntry ch => Sys2Proof.Machine.execSelfRefreshEntry ch s
  | .jobPost who st value => Sys2Proof.Machine.execJobPost who st value s
  | .jobStart st => Sys2Proof.Machine.execJobStart st s
  | .chunkComplete st e => Sys2Proof.Machine.execChunkComplete st e s
  | .jobComplete st j => Sys2Proof.Machine.execJobComplete st j s
  | .convert st e => Sys2Proof.Machine.execConvert st e s
  | .axpby st e => Sys2Proof.Machine.execAxpby st e s
  | .jobMul st e => Sys2Proof.Machine.execJobMul st e s
  | .reduce st e => Sys2Proof.Machine.execReduce st e s
  | .fill st e => Sys2Proof.Machine.execFill st e s
  | .finite st e => Sys2Proof.Machine.execFinite st e s
  | .stash st e => Sys2Proof.Machine.execStash st e s
  | .unstash st e => Sys2Proof.Machine.execUnstash st e s
  | .gather st j => Sys2Proof.Machine.execGather st j s
  | .clean st j => Sys2Proof.Machine.execClean st j s
  | .regionClean st j => Sys2Proof.Machine.execRegionClean st j s
  | .backInvalidate st j => Sys2Proof.Machine.execBackInvalidate st j s
  | .gatherPrefetch st g => Sys2Proof.Machine.execGatherPrefetch st g s
  | .requestRegisterGrant st => Sys2Proof.Machine.execRequestRegisterGrant st s
  | .arbiterCycle a lengths => Sys2Proof.Machine.execArbiterCycle a lengths s
  | .aging a => Sys2Proof.Machine.execAging a s
  | .quotaWindowWrap a => Sys2Proof.Machine.execQuotaWindowWrap a s
  | .arbCommit a value => Sys2Proof.Machine.execArbCommit a value s
  | .commitApply a => Sys2Proof.Machine.execCommitApply a s
  | .gpFold who value => Sys2Proof.Machine.execGpFold who value s
  | .cast p => Sys2Proof.Machine.execCast p s
  | .gateEventWaitEnd k => Sys2Proof.Machine.execGateEventWaitEnd k s
  | .vote src payload => Sys2Proof.Machine.execVote src payload s
  | .result payload => Sys2Proof.Machine.execResult payload s
  | .gateTimeout b => Sys2Proof.Machine.execGateTimeout b s
  | .gateCommit b => Sys2Proof.Machine.execGateCommit b s
  | .gvStepcntLoad value => Sys2Proof.Machine.execGvStepcntLoad value s
  | .scAmax b tensor value => Sys2Proof.Machine.execScAmax b tensor value s
  | .hzOffer who value => Sys2Proof.Machine.execHzOffer who value s
  | .hazeSampleComplete st j => Sys2Proof.Machine.execHazeSampleComplete st j s
  | .layerUpdate p => Sys2Proof.Machine.execLayerUpdate p s
  | .updateComplete p => Sys2Proof.Machine.execUpdateComplete p s
  | .portTrainingEntry w ix => Sys2Proof.Machine.execPortTrainingEntry w ix s
  | .loopbackComplete w ix ok => Sys2Proof.Machine.execLoopbackComplete w ix ok s
  | .signalDetected w ix => Sys2Proof.Machine.execSignalDetected w ix s
  | .trainingComplete w ix => Sys2Proof.Machine.execTrainingComplete w ix s
  | .alignComplete w ix => Sys2Proof.Machine.execAlignComplete w ix s
  | .trainingStateTimeout w ix => Sys2Proof.Machine.execTrainingStateTimeout w ix s
  | .lockLoss w ix => Sys2Proof.Machine.execLockLoss w ix s
  | .errmaxExceeded w ix codewords => Sys2Proof.Machine.execErrmaxExceeded w ix codewords s
  | .receiveIdleTimeout w ix => Sys2Proof.Machine.execReceiveIdleTimeout w ix s
  | .failedTimeout w ix => Sys2Proof.Machine.execFailedTimeout w ix s
  | .linkMessage w ix node valid way port nx ny => Sys2Proof.Machine.execLinkMessage w ix node valid way port nx ny s
  | .ringHoldTimeout dim => Sys2Proof.Machine.execRingHoldTimeout dim s
  | .ringHoldRetry dim => Sys2Proof.Machine.execRingHoldRetry dim s
  | .flit w ix flit => Sys2Proof.Machine.execFlit w ix flit s
  | .nak w ix flit => Sys2Proof.Machine.execNak w ix flit s
  | .resendTimeout w => Sys2Proof.Machine.execResendTimeout w s
  | .fabricRead msg => Sys2Proof.Machine.execFabricRead msg s
  | .fabricWrite msg => Sys2Proof.Machine.execFabricWrite msg s
  | .fabricAtom msg => Sys2Proof.Machine.execFabricAtom msg s
  | .fabricRed msg => Sys2Proof.Machine.execFabricRed msg s
  | .readData msg => Sys2Proof.Machine.execReadData msg s
  | .fabricAck msg => Sys2Proof.Machine.execFabricAck msg s
  | .atomReturn msg => Sys2Proof.Machine.execAtomReturn msg s
  | .fabricErr msg => Sys2Proof.Machine.execFabricErr msg s
  | .ctlAck msg => Sys2Proof.Machine.execCtlAck msg s
  | .gateMessageResend k => Sys2Proof.Machine.execGateMessageResend k s
  | .requestTimeout tid => Sys2Proof.Machine.execRequestTimeout tid s
  | .tagQuarantineEnd tid => Sys2Proof.Machine.execTagQuarantineEnd tid s
  | .wpPost who value => Sys2Proof.Machine.execWpPost who value s
  | .batchStart => Sys2Proof.Machine.execBatchStart s
  | .dispatch msg => Sys2Proof.Machine.execDispatch msg s
  | .grant msg => Sys2Proof.Machine.execGrant msg s
  | .notYetRetry e => Sys2Proof.Machine.execNotYetRetry e s
  | .dispatchTimeout e => Sys2Proof.Machine.execDispatchTimeout e s
  | .tdata msg => Sys2Proof.Machine.execTdata msg s
  | .endMessage msg => Sys2Proof.Machine.execEndMessage msg s
  | .expertClose x => Sys2Proof.Machine.execExpertClose x s
  | .closeTimeout x => Sys2Proof.Machine.execCloseTimeout x s
  | .wpReturn who value => Sys2Proof.Machine.execWpReturn who value s
  | .rdata msg => Sys2Proof.Machine.execRdata msg s
  | .choiceLost e => Sys2Proof.Machine.execChoiceLost e s
  | .entryQuarantineEnd e => Sys2Proof.Machine.execEntryQuarantineEnd e s
  | .sourceFail c => Sys2Proof.Machine.execSourceFail c s
  | .ckEnWrite w value => Sys2Proof.Machine.execCkEnWrite w value s
  | .gatedTouch h => Sys2Proof.Machine.execGatedTouch h s
  | .ckMonWrite value => Sys2Proof.Machine.execCkMonWrite value s
  | .standbyEntry => Sys2Proof.Machine.execStandbyEntry s
  | .standbyExit => Sys2Proof.Machine.execStandbyExit s
  | .powerOnReset => Sys2Proof.Machine.execPowerOnReset s
  | .fundamentalReset => Sys2Proof.Machine.execFundamentalReset s
  | .perstDeassert => Sys2Proof.Machine.execPerstDeassert s
  | .hostLinkReset => Sys2Proof.Machine.execHostLinkReset s
  | .warmReset => Sys2Proof.Machine.execWarmReset s
  | .bootStepComplete failure bad => Sys2Proof.Machine.execBootStepComplete failure bad s
  | .errorDetected cls dcode unit addr info => Sys2Proof.Machine.execErrorDetected cls dcode unit addr info s
  | .erPtrHeadWrite head => Sys2Proof.Machine.execErPtrHeadWrite head s
  | .erCntclr value => Sys2Proof.Machine.execErCntclr value s
  | .clearComplete => Sys2Proof.Machine.execClearComplete s
  | .inputExcursion => Sys2Proof.Machine.execInputExcursion s
  | .inputLoss => Sys2Proof.Machine.execInputLoss s
  | .regulatorFault => Sys2Proof.Machine.execRegulatorFault s
  | .thermalReading die reading => Sys2Proof.Machine.execThermalReading die reading s
  | .partNumber => Sys2Proof.Machine.execPartNumber s
  | .serialNumber => Sys2Proof.Machine.execSerialNumber s
  | .smbusAuthUid => Sys2Proof.Machine.execSmbusAuthUid s
  | .firmwareVersion => Sys2Proof.Machine.execFirmwareVersion s
  | .moduleTemperature => Sys2Proof.Machine.execModuleTemperature s
  | .computeDieTemperature d => Sys2Proof.Machine.execComputeDieTemperature d s
  | .ioDieTemperature d => Sys2Proof.Machine.execIoDieTemperature d s
  | .basinStackTemperature => Sys2Proof.Machine.execBasinStackTemperature s
  | .smbusNack command => Sys2Proof.Machine.execSmbusNack command s
  | .badWidthAccess who off width => Sys2Proof.Machine.execBadWidthAccess who off width s
  | .registerWrite who off width value => Sys2Proof.Machine.execRegisterWrite who off width value s
  | .sourceRecovery c => Sys2Proof.Machine.execSourceRecovery c s
  | .hostLinkUp => Sys2Proof.Machine.execHostLinkUp s
  | .inputExcursionEnd => Sys2Proof.Machine.execInputExcursionEnd s
  | .tileLoadDataReturn t k => Sys2Proof.Machine.execTileLoadDataReturn t k s
  | .returnStackSpillComplete t => Sys2Proof.Machine.execReturnStackSpillComplete t s

end Sys2Proof.Machine
end

