-- ==== Sys2Proof/Machine/Tick.lean ====
section
/-! DEFINITION. The timestamp tick an empty queue lets pass (log 2). -/

namespace Sys2Proof.Machine

/-- The steward loop L9, whose cycles the timestamp counts (R403, R404). -/
def stewardSwitching (m : Module) : Bool :=
  match (Sparse.get {} m.clocks.loops 9).phase with
  | .none => false
  | _ => true

/-- The next rail comes up while step 1 of boot runs, in the order of R444; the last completes the step.
DEDUCED (log 55). -/
def raiseRail (m : Module) : Module :=
  match m.clocks.booting with
  | some (_, 1) =>
    if m.board.input && !m.errors.stopped then
      { m with board := { m.board with rails := (m.board.rails <<< 1 ||| 1) &&& 0xF } }
    else m
  | _ => m

/-- One L9 cycle: TIME adds one, except while L9 switches (R404, R405). -/
def tick (m : Module) : Module :=
  let m := raiseRail m
  if stewardSwitching m then m else { m with time := m.time + 1 }

end Sys2Proof.Machine
end

