-- ==== Sys2Proof/Machine/Step.lean ====
section
/-! DEFINITION. One step: the command at the front of the queue, or one timestamp tick when the queue is empty. -/

namespace Sys2Proof.Machine

/-- The step (log 1, log 2). -/
def step (s : State) : Host.Outcome State Fault Refusal :=
  match s.pending with
  | [] => .next { s with m := tick s.m }
  | c :: rest => exec c { s with pending := rest }

/-- `s` with the command a word spells at the front of its queue; no row gives bits, so `s` itself (log 3). -/
def State.withFetchWord (s : State) (nbits w : Nat) : State :=
  match decodeTableWord nbits w with
  | some c => { s with pending := c :: s.pending }
  | none => s

end Sys2Proof.Machine
end

