-- ==== Sys2Proof/Safety.lean ====
section
/-! DEFINITION. What counts as a safe run, and the terms the statements use: the state a command answers, what it may
have changed, and the rules the key slots keep. -/

namespace Sys2Proof.Machine

/-- A run of `k` steps from `s` that meets no fault and no refusal. -/
def State.Safe (s : State) (k : Nat) : Prop :=
  ∃ t : State, Host.Core.run Sys2Proof.core k s = .next t

/-- Command `c` in state `s` answers the state whose module is `m`; the queue and the key slots are those of `s`. -/
def Becomes (c : Instr) (s : State) (m : Module) : Prop := exec c s = .next { s with m := m }

/-- Two modules that differ only in their counters and pending event sources. -/
def CountsOnly (m m' : Module) : Prop := m' = { m with stats := m'.stats, events := m'.events }

/-- Only threads and the counters that watch them differ. -/
def OnlyThreads (m m' : Module) : Prop :=
  m' = { m with threads := m'.threads, stats := m'.stats, events := m'.events }

/-- Only thread `t` and the counters that watch it differ. -/
def OnlyThread (t : Nat) (m m' : Module) : Prop :=
  OnlyThreads m m' ∧ ∀ u, u ≠ t → threadAt m' u = threadAt m u

/-- Thread `t` runs, may issue, and every earlier instruction of it has completed (R123). -/
def SerialIssue (m : Module) (t : Nat) : Prop := issuable m t = true ∧ serialReady m t = true

/-- A thread with no hardware loop in use, at the last word of which a retiring instruction could be (R119). -/
def NoLoop (th : Thread) : Prop := th.lstat = 0

/-- The value an instruction reads from a register, when it need not wait. -/
def sourceValue (th : Thread) (r : Reg) : Word := (th.src r).getD 0

/-- None of these registers makes the instruction wait. -/
def SourcesReady (th : Thread) (l : List Reg) : Prop := ∀ r ∈ l, (th.src r).isSome = true

/-- Every register but `rd` reads as before; `rd` reads `v`, and g0 reads zero whatever is written to it (R99). -/
def WritesRegister (rd : Reg) (v : Word) (th th' : Thread) : Prop :=
  th'.reg rd = (if rd = 0 then 0 else v) ∧ ∀ r, r ≠ rd → th'.reg r = th.reg r

/-- The thread's loops, return stack, privilege, vector and tile state are as before. -/
def KeepsSpecial (th th' : Thread) : Prop :=
  th'.rstack = th.rstack ∧ th'.priv = th.priv ∧ th'.vec = th.vec ∧ th'.tile = th.tile ∧ th'.gens = th.gens
    ∧ th'.sblo = th.sblo ∧ th'.sbhi = th.sbhi ∧ th'.exc = th.exc ∧ th'.run = th.run ∧ th'.task = th.task

/-- The fabric is as before, but that the core's prefetches in flight of a line no longer place it in the data L1. -/
def KeepsRequests (barred : Option (Nat × Nat)) (m m' : Module) : Prop :=
  m'.fabric = { m.fabric with tags := m.fabric.tags.map fun g =>
    match barred with
    | some (c, key) => if g.prefetches c && remoteKey g == key then { g with who := .prefetch (2 * c) false } else g
    | none => g }

/-- What an integer instruction is: its thread, destination, sources, and result as a function of the registers
(R102-R105). -/
structure IntegerForm where
  thread : Nat
  rd : Reg
  sources : List Reg
  value : (Reg → Word) → Word

/-- The integer instructions of R103 and R105, each with the result the manual gives it. -/
def integerForm : Instr → Option IntegerForm
  | .add t rd a b => some ⟨t, rd, [a, b], fun g => g a + g b⟩
  | .sub t rd a b => some ⟨t, rd, [a, b], fun g => g a - g b⟩
  | .andR t rd a b => some ⟨t, rd, [a, b], fun g => g a &&& g b⟩
  | .orR t rd a b => some ⟨t, rd, [a, b], fun g => g a ||| g b⟩
  | .xorR t rd a b => some ⟨t, rd, [a, b], fun g => g a ^^^ g b⟩
  | .sll t rd a b => some ⟨t, rd, [a, b], fun g => g a <<< ((g b).toNat % 64)⟩
  | .srl t rd a b => some ⟨t, rd, [a, b], fun g => g a >>> ((g b).toNat % 64)⟩
  | .sra t rd a b => some ⟨t, rd, [a, b], fun g => BitVec.ofInt 64 ((g a).toInt / 2 ^ ((g b).toNat % 64))⟩
  | .minS t rd a b => some ⟨t, rd, [a, b], fun g => if (g a).toInt ≤ (g b).toInt then g a else g b⟩
  | .maxS t rd a b => some ⟨t, rd, [a, b], fun g => if (g a).toInt ≤ (g b).toInt then g b else g a⟩
  | .minu t rd a b => some ⟨t, rd, [a, b], fun g => if (g a).toNat ≤ (g b).toNat then g a else g b⟩
  | .maxu t rd a b => some ⟨t, rd, [a, b], fun g => if (g a).toNat ≤ (g b).toNat then g b else g a⟩
  | .addw t rd a b => some ⟨t, rd, [a, b], fun g => ((g a + g b).setWidth 32).signExtend 64⟩
  | .subw t rd a b => some ⟨t, rd, [a, b], fun g => ((g a - g b).setWidth 32).signExtend 64⟩
  | .mul t rd a b => some ⟨t, rd, [a, b], fun g => BitVec.ofNat 64 ((g a).toNat * (g b).toNat)⟩
  | .mulh t rd a b => some ⟨t, rd, [a, b], fun g => BitVec.ofInt 64 ((g a).toInt * (g b).toInt / 2 ^ 64)⟩
  | .mulhu t rd a b => some ⟨t, rd, [a, b], fun g => BitVec.ofNat 64 ((g a).toNat * (g b).toNat / 2 ^ 64)⟩
  | .divS t rd a b => some ⟨t, rd, [a, b], fun g => if g b = 0 then BitVec.allOnes 64 else BitVec.ofInt 64 ((g a).toInt.tdiv (g b).toInt)⟩
  | .divu t rd a b => some ⟨t, rd, [a, b], fun g => if g b = 0 then BitVec.allOnes 64 else BitVec.ofNat 64 ((g a).toNat / (g b).toNat)⟩
  | .rem t rd a b => some ⟨t, rd, [a, b], fun g => if g b = 0 then g a else BitVec.ofInt 64 ((g a).toInt.tmod (g b).toInt)⟩
  | .remu t rd a b => some ⟨t, rd, [a, b], fun g => if g b = 0 then g a else BitVec.ofNat 64 ((g a).toNat % (g b).toNat)⟩
  | .seq t rd a b => some ⟨t, rd, [a, b], fun g => if g a = g b then 1 else 0⟩
  | .sne t rd a b => some ⟨t, rd, [a, b], fun g => if g a = g b then 0 else 1⟩
  | .slt t rd a b => some ⟨t, rd, [a, b], fun g => if (g a).toInt < (g b).toInt then 1 else 0⟩
  | .sge t rd a b => some ⟨t, rd, [a, b], fun g => if (g a).toInt < (g b).toInt then 0 else 1⟩
  | .sltu t rd a b => some ⟨t, rd, [a, b], fun g => if (g a).toNat < (g b).toNat then 1 else 0⟩
  | .sgeu t rd a b => some ⟨t, rd, [a, b], fun g => if (g a).toNat < (g b).toNat then 0 else 1⟩
  | .clz t rd a => some ⟨t, rd, [a], fun g => BitVec.ofNat 64 (((List.range 64).find? fun i => (g a).getLsbD (63 - i)).getD 64)⟩
  | .ctz t rd a => some ⟨t, rd, [a], fun g => BitVec.ofNat 64 (((List.range 64).find? fun i => (g a).getLsbD i).getD 64)⟩
  | .popc t rd a => some ⟨t, rd, [a], fun g => BitVec.ofNat 64 ((List.range 64).filter fun i => (g a).getLsbD i).length⟩
  | .addi t rd a k => some ⟨t, rd, [a], fun g => g a + k.signExtend 64⟩
  | .andi t rd a k => some ⟨t, rd, [a], fun g => g a &&& k.setWidth 64⟩
  | .ori t rd a k => some ⟨t, rd, [a], fun g => g a ||| k.setWidth 64⟩
  | .xori t rd a k => some ⟨t, rd, [a], fun g => g a ^^^ k.setWidth 64⟩
  | .slti t rd a k => some ⟨t, rd, [a], fun g => if (g a).toInt < (k.signExtend 64).toInt then 1 else 0⟩
  | .sltiu t rd a k => some ⟨t, rd, [a], fun g => if (g a).toNat < (k.signExtend 64).toNat then 1 else 0⟩
  | .cati t rd a k => some ⟨t, rd, [a], fun g => BitVec.ofNat 64 ((g a).toNat % 2 ^ 48 * 2 ^ 16 + k.toNat)⟩
  | .rcati t rd a k => some ⟨t, rd, [a], fun g => BitVec.ofNat 64 (k.toNat * 2 ^ 48 + (g a).toNat / 2 ^ 16)⟩
  | .slli t rd a k => some ⟨t, rd, [a], fun g => g a <<< k.toNat⟩
  | .srli t rd a k => some ⟨t, rd, [a], fun g => g a >>> k.toNat⟩
  | .srai t rd a k => some ⟨t, rd, [a], fun g => BitVec.ofInt 64 ((g a).toInt / 2 ^ k.toNat)⟩
  | _ => none

/-- Thread `t` may issue now, its sources are ready and its destination may be written. -/
def IntegerReady (m : Module) (x : IntegerForm) : Prop :=
  issuable m x.thread = true ∧ SourcesReady (threadAt m x.thread) x.sources
    ∧ (threadAt m x.thread).writable x.rd = true

/-- Thread `t` raises a synchronous exception of its own level: nothing else of it, and no other thread, changes (R131). -/
def Raises (t cause : Nat) (fval : Word) (m m' : Module) : Prop :=
  m' = setThread t { threadAt m t with exc := some {
    cause := BitVec.ofNat 8 cause, fval := fval, rpc := (threadAt m t).pc, target := (threadAt m t).priv.level } } m

/-- Thread `th` enters the supervisor handler of a cause and becomes `th'` (R135). -/
def EntersSupervisor (int : Bool) (cause info : Nat) (fval : Word) (rpc : BitVec 48) (th th' : Thread) : Prop :=
  let su := th.priv.su
  let su' := th'.priv.su
  th'.run = .running ∧ th'.exc = none ∧ th'.latch = none ∧ th'.lstat = 0 ∧ th'.priv.level = 1
    ∧ th'.pc = su.hbase + (if int then 0x200 else if cause = 0x0A then 0x100 else 0)
    ∧ su'.rpc = rpc ∧ su'.fval = fval
    ∧ su'.why = BitVec.ofNat 64 ((if int then 2 ^ 63 else 0) + info * 65536 + cause)
    ∧ bitsOf su'.state 5 4 = th.priv.level.toNat ∧ bitsOf su'.state 11 8 = th.lstat.toNat
    ∧ su'.state.getLsbD 2 = (su.state.getLsbD 2 || th.priv.nilimit != 0)
    ∧ su'.state.getLsbD 3 = (su.state.getLsbD 3 || (!su.state.getLsbD 2 && th.priv.nilimit == 0))
    ∧ su'.state.getLsbD 1 = su.state.getLsbD 1 ∧ su'.state.getLsbD 0 = su.state.getLsbD 0
    ∧ th'.priv.nicount = (if su.state.getLsbD 2 then th.priv.nicount else th.priv.nilimit)
    ∧ su'.hbase = su.hbase ∧ su'.spare = su.spare ∧ th'.priv.ma = th.priv.ma ∧ th'.priv.es = th.priv.es
    ∧ (match th.latch with
        | some (r, old) => su'.shreg = 1#1 ++ r ∧ su'.shval = old
        | none => su'.shreg = 0 ∧ su'.shval = 0)
    ∧ th'.g = th.g ∧ th'.ls = th.ls ∧ th'.le = th.le ∧ th'.lc = th.lc ∧ th'.rstack = th.rstack
    ∧ th'.vec.v = th.vec.v ∧ th'.tile = th.tile ∧ th'.task = th.task

/-- The core of thread `t` works, and nothing the thread waits for holds back an entry (R114, R135). -/
def MayEnter (m : Module) (t : Nat) : Prop :=
  alive m = true ∧ unitGated m (handleCore (t / 2)) = false ∧ entryWaits (threadAt m t) = false

/-- Nothing is to be reported at a report point (R175). -/
def NothingToReport (th : Thread) (atEnd : Bool) : Prop :=
  th.vec.pending = [] ∧ th.vec.lpend = false ∧ ∀ e ∈ th.vec.log, e.due th atEnd = false

/-! ## Vector instructions -/

/-- Element `k` is active: at or past VBEGIN, below the element count for width `w`, and let through by v0 where the
instruction is masked (R155, R156). -/
def Active (th : Thread) (w : Nat) (masked : Bool) (k : Nat) : Prop :=
  th.vec.start.toNat ≤ k ∧ k < Nat.min th.vec.count.toNat (Nat.min 512 (4096 / w))
    ∧ (masked = true → (th.vreg 0).getLsbD k = true)

/-- Thread `t` may issue a vector instruction of these vector registers now (R173, R182). -/
def VectorReady (m : Module) (t : Nat) (regs : List Reg) : Prop :=
  issuable m t = true ∧ (coreAt m (t / 2)).vecUp = true ∧ (threadAt m t).vecAwaits regs = false

/-- A vector instruction of thread `t` has retired: VBEGIN is 0, and of the thread's state only the vector registers named,
the flags, the generators, the PC and the loops may differ. -/
def VectorWrites (t : Nat) (regs : List Reg) (m m' : Module) : Prop :=
  let th := threadAt m t
  let th' := threadAt m' t
  OnlyThread t m m'
    ∧ th'.vec = { th.vec with v := th'.vec.v, flags := th'.vec.flags, start := 0 }
    ∧ (∀ r, r ∉ regs → th'.vreg r = th.vreg r)
    ∧ th'.g = th.g ∧ th'.loads = th.loads ∧ th'.rstack = th.rstack ∧ th'.priv = th.priv ∧ th'.tile = th.tile
    ∧ th'.run = th.run ∧ th'.exc = th.exc ∧ th'.task = th.task ∧ (NoLoop th → th'.pc = th.pc + 4)

/-- A vector instruction of thread `t` has retired that writes at most vector register `vd`. -/
def VectorEffect (t : Nat) (vd : Option Reg) (m m' : Module) : Prop := VectorWrites t vd.toList m m'

/-- Operand b of element `k`: the low bits of the scalar, or the element of vs2 (R157). -/
def operandOf (th : Thread) (o : VecOp) (w k : Nat) : Nat :=
  if o.scalar = 1 then (sourceValue th o.src2).toNat % 2 ^ w else elem (th.vreg o.src2) w k

/-- The scalar operand, where there is one, need not be awaited. -/
def ScalarReady (th : Thread) (o : VecOp) : Prop := o.scalar = 1 → (th.src o.src2).isSome = true

/-- An integer vector instruction: its exact result from FXMODE, the width and the operands, whether vs1 is read at twice
the width, and whether the result is clamped as a signed (`some true`) or unsigned number (R159-R161). -/
structure VectorForm where
  thread : Nat
  op : VecOp
  value : BitVec 2 → Nat → Nat → Nat → Int
  wide : Bool := false
  clamp : Option Bool := none

/-- The nearest number the clamp allows (R160). -/
def clampTo (signed : Bool) (w : Nat) (x : Int) : Int :=
  if signed then (if x < -2 ^ (w - 1) then -2 ^ (w - 1) else if 2 ^ (w - 1) - 1 < x then 2 ^ (w - 1) - 1 else x)
  else (if x < 0 then 0 else if 2 ^ w - 1 < x then 2 ^ w - 1 else x)

/-- The functions of majors 0x23 and 0x24 (R159-R161). -/
def vectorForm : Instr → Option VectorForm
  | .vadd t o => some { thread := t, op := o, value := fun _ _ a b => a + b }
  | .vsub t o => some { thread := t, op := o, value := fun _ _ a b => (a : Int) - b }
  | .vmul t o => some { thread := t, op := o, value := fun _ _ a b => a * b }
  | .vmulh t o => some { thread := t, op := o, value := fun _ w a b => natSigned w a * natSigned w b / 2 ^ w }
  | .vmulhu t o => some { thread := t, op := o, value := fun _ w a b => ((a : Int) * b) / 2 ^ w }
  | .vmin t o => some { thread := t, op := o, value := fun _ w a b => min (natSigned w a) (natSigned w b) }
  | .vmax t o => some { thread := t, op := o, value := fun _ w a b => max (natSigned w a) (natSigned w b) }
  | .vminu t o => some { thread := t, op := o, value := fun _ _ a b => if a < b then a else b }
  | .vmaxu t o => some { thread := t, op := o, value := fun _ _ a b => if a < b then b else a }
  | .vand t o => some { thread := t, op := o, value := fun _ _ a b => (a &&& b : Nat) }
  | .vor t o => some { thread := t, op := o, value := fun _ _ a b => (a ||| b : Nat) }
  | .vxor t o => some { thread := t, op := o, value := fun _ _ a b => (a ^^^ b : Nat) }
  | .vsll t o => some { thread := t, op := o, value := fun _ w a b => (a : Int) * 2 ^ (b % w) }
  | .vsrl t o => some { thread := t, op := o, value := fun _ w a b => (a : Int) / 2 ^ (b % w) }
  | .vsra t o => some { thread := t, op := o, value := fun _ w a b => natSigned w a / 2 ^ (b % w) }
  | .vsadd t o => some { thread := t, op := o, clamp := some true, value := fun _ w a b => natSigned w a + natSigned w b }
  | .vsaddu t o => some { thread := t, op := o, clamp := some false, value := fun _ _ a b => a + b }
  | .vssub t o => some { thread := t, op := o, clamp := some true, value := fun _ w a b => natSigned w a - natSigned w b }
  | .vssubu t o => some { thread := t, op := o, clamp := some false, value := fun _ _ a b => (a : Int) - b }
  | .vsmulr t o =>
    let f (fxr : BitVec 2) (w a b : Nat) : Int := rnd fxr (natSigned w a * natSigned w b) (w - 1)
    some { thread := t, op := o, clamp := some true, value := f }
  | .vrsra t o => some { thread := t, op := o, value := fun fxr w a b => rnd fxr (natSigned w a) (b % w) }
  | .vrsrl t o => some { thread := t, op := o, value := fun fxr w a b => rnd fxr a (b % w) }
  | .vnars t o =>
    let f (fxr : BitVec 2) (w a b : Nat) : Int := rnd fxr (natSigned (2 * w) a) (b % (2 * w))
    some { thread := t, op := o, wide := true, clamp := some true, value := f }
  | .vnaru t o =>
    let f (fxr : BitVec 2) (w a b : Nat) : Int := rnd fxr a (b % (2 * w))
    some { thread := t, op := o, wide := true, clamp := some false, value := f }
  | _ => none

/-- A floating-point vector instruction: its element from the format, the mode, the old vd, a and b. -/
structure FloatForm where
  thread : Nat
  op : VecOp
  value : Fp.Fmt → Fp.Mode → Nat → Nat → Nat → Nat × Fp.Flags
  legal : Bool := true

/-- The functions of majors 0x25 and 0x26 (R162). -/
def floatForm : Instr → Option FloatForm
  | .vfadd t o => some { thread := t, op := o, value := fun f md _ a b => Fp.add f md a b }
  | .vfsub t o => some { thread := t, op := o, value := fun f md _ a b => Fp.sub f md a b }
  | .vfmul t o => some { thread := t, op := o, value := fun f md _ a b => Fp.mul f md a b }
  | .vfma t o => some { thread := t, op := o, value := fun f md c a b => Fp.fma f md c a b }
  | .vfnms t o => some { thread := t, op := o, value := fun f md c a b => Fp.fnms f md c a b }
  | .vfmin t o => some { thread := t, op := o, value := fun f _ _ a b => Fp.minNum f a b }
  | .vfmax t o => some { thread := t, op := o, value := fun f _ _ a b => Fp.maxNum f a b }
  | .vfdiv t o => some { thread := t, op := o, value := fun f md _ a b => Fp.div f md a b }
  | .vfsqrt t o =>
    let f (f : Fp.Fmt) (md : Fp.Mode) (_ a _ : Nat) : Nat × Fp.Flags := Fp.sqrt f md a
    some { thread := t, op := o, legal := o.scalar == 0 && o.src2 == 0, value := f }
  | _ => none

/-- A generator after `n` steps (R178). -/
def steppedGen (g : Gen) : Nat → Gen
  | 0 => g
  | n + 1 => (steppedGen g n).step.1

/-- Of the elements below `k`, how many active ones lane `l` serves (R180). -/
def servedBefore (th : Thread) (w : Nat) (masked : Bool) (l k : Nat) : Nat :=
  ((actives th w masked).filter fun j => j < k && laneOf w j == l).length

/-- The draw element `k` takes from its lane, the lane's draws being taken in ascending element order (R180). -/
def drawAt (th : Thread) (w : Nat) (masked : Bool) (k : Nat) : Word :=
  (steppedGen (Sparse.get {} th.gens (laneOf w k)) (servedBefore th w masked (laneOf w k) k)).step.2

/-- The rounding of element `k` under FRMODE (R162, R219). -/
def modeAt (th : Thread) (w : Nat) (masked : Bool) (k : Nat) : Fp.Mode :=
  { rm := th.vec.rm.toNat, ovs := th.vec.ovs
    draw := if th.vec.rm = 2 then bitsOf (drawAt th w masked k) 63 40 else 0 }

/-- Each lane has stepped once for each active element it serves. -/
def DrawsTaken (th th' : Thread) (w : Nat) (masked : Bool) : Prop :=
  ∀ l, (Sparse.get {} th'.gens l : Gen) = steppedGen (Sparse.get {} th.gens l) (servedBefore th w masked l 512)

/-- `scale` is the scale byte of a block of FP32 values converted into a Microscaling format: 0xFF where one is not finite,
else 127 above the shared exponent, which is -127 or that of the largest of them less `emax` (R227). -/
def BlockScale (emax : Int) (values : List Fp.Val) (scale : Nat) : Prop :=
  if values.any (·.nonFinite) then scale = 0xFF
  else (∀ v ∈ values, v.isZero = false → Fp.log2Val v - emax ≤ (scale : Int) - 127)
    ∧ (scale = 0 ∨ ∃ v ∈ values, v.isZero = false ∧ Fp.log2Val v - emax = (scale : Int) - 127)

/-- VCVT on one element: its value and flags, under the block's scale byte where a format is a Microscaling one
(R225-R228). -/
def converted (src dst : Nat) (md : Fp.Mode) (scale x : Nat) : Nat × Fp.Flags :=
  if Fp.isMx dst then
    (if scale = 0xFF then (0, Fp.fNV)
     else Fp.encodeMx (mxFmt dst) md ((Fp.decode Fp.fp32 x).scale (127 - (scale : Int))))
  else if Fp.isMx src then
    (if scale = 0xFF then (0x7FC00000, 0)
     else Fp.encodeVal Fp.fp32 md ((Fp.decode (mxFmt src) x).scale ((scale : Int) - 127)))
  else Fp.encodeCode dst md (Fp.decodeCode src x)

/-- The conditions of a compare into a mask (R163). -/
def compareForm : Instr → Option (Nat × VecOp × Bool × (Nat → Nat → Nat → Bool))
  | .vceq t o => some (t, o, isIntType o.ty, fun _ a b => a = b)
  | .vcne t o => some (t, o, isIntType o.ty, fun _ a b => a ≠ b)
  | .vclt t o => some (t, o, isIntType o.ty, fun w a b => natSigned w a < natSigned w b)
  | .vcltu t o => some (t, o, isIntType o.ty, fun _ a b => a < b)
  | .vcle t o => some (t, o, isIntType o.ty, fun w a b => natSigned w a ≤ natSigned w b)
  | .vcleu t o => some (t, o, isIntType o.ty, fun _ a b => a ≤ b)
  | .vcfeq t o => some (t, o, isFloatType o.ty, fun _ a b =>
      Fp.eqVal (Fp.decode (typeFmt o.ty) a) (Fp.decode (typeFmt o.ty) b))
  | .vcflt t o => some (t, o, isFloatType o.ty, fun _ a b =>
      Fp.ltVal (Fp.decode (typeFmt o.ty) a) (Fp.decode (typeFmt o.ty) b))
  | .vcfle t o => some (t, o, isFloatType o.ty, fun _ a b =>
      Fp.ltVal (Fp.decode (typeFmt o.ty) a) (Fp.decode (typeFmt o.ty) b)
        || Fp.eqVal (Fp.decode (typeFmt o.ty) a) (Fp.decode (typeFmt o.ty) b))
  | .vcfun t o => some (t, o, isFloatType o.ty, fun _ a b =>
      (Fp.decode (typeFmt o.ty) a).isNan || (Fp.decode (typeFmt o.ty) b).isNan)
  | _ => none

/-- The reductions that fold in ascending order, each with the function that joins two values (R164). -/
def reduceForm : Instr → Option (Nat × VecOp × Bool × (Nat → Nat → Nat → Nat × Fp.Flags))
  | .vrsum t o => some (t, o, isIntType o.ty, fun w a b => ((a + b) % 2 ^ w, 0))
  | .vrmax t o => some (t, o, isIntType o.ty, fun w a b => (if natSigned w a < natSigned w b then b else a, 0))
  | .vrmin t o => some (t, o, isIntType o.ty, fun w a b => (if natSigned w b < natSigned w a then b else a, 0))
  | .vrmaxu t o => some (t, o, isIntType o.ty, fun _ a b => (if a < b then b else a, 0))
  | .vrminu t o => some (t, o, isIntType o.ty, fun _ a b => (if b < a then b else a, 0))
  | .vrfmax t o => some (t, o, isFloatType o.ty, fun _ a b => Fp.maxNum (typeFmt o.ty) a b)
  | .vrfmin t o => some (t, o, isFloatType o.ty, fun _ a b => Fp.minNum (typeFmt o.ty) a b)
  | _ => none

/-! ## Tile instructions -/

/-- A tile memory instruction of thread `t` with entry `e₀`, the rows checked so far in it, checks its next rows by `f`:
eight of them, or all where it transposes (R194, R199-R201). The last ones queue it; an exception queues the rows before
it and leaves TSTART at it; else it goes on holding dispatch. -/
def DispatchesRows (i : Instr) (s : State) (t : Nat) (e₀ : TileEntry) (tr : Bool) (rows : List Nat)
    (f : Nat → Acc (List (Nat × Nat))) : Prop :=
  let th := threadAt s.m t
  let rest := rows.drop e₀.rows.length
  ∀ (l : List (Nat × List (Nat × Nat))) (stopped : Option (Nat × Stop)) (m₁ : Module),
    checkRows f (if tr then rest else rest.take 8) s.m = (l, stopped, m₁) → threadAt m₁ t = th →
    let e := { e₀ with rows := e₀.rows ++ l }
    let queued : List TileEntry := th.tile.queue ++ [e]
    (stopped = none → (tr = true ∨ rest.length ≤ 8) → ∃ m, Becomes i s m ∧ OnlyThread t m₁ m
        ∧ (threadAt m t).tile = { th.tile with queue := queued, nextId := th.tile.nextId + 1, hold := none, start := 0 }
        ∧ (threadAt m t).g = th.g ∧ (threadAt m t).vec = th.vec ∧ (NoLoop th → (threadAt m t).pc = th.pc + 8))
    ∧ (stopped = none → tr = false → 8 < rest.length →
        Becomes i s (setThread t { th with tile := { th.tile with hold := some e } } m₁))
    ∧ ∀ r cause va, stopped = some (r, .exc cause va) → ∃ m, Becomes i s m ∧ OnlyThread t m₁ m
        ∧ (threadAt m t).tile.start = (if tr then 0 else BitVec.ofNat 5 r) ∧ (threadAt m t).tile.hold = none
        ∧ (threadAt m t).tile.queue = (if tr = true ∨ e.rows = [] then th.tile.queue else queued)
        ∧ (threadAt m t).pc = th.pc
        ∧ ∃ x, (threadAt m t).exc = some x ∧ x.cause = BitVec.ofNat 8 cause ∧ x.fval = BitVec.ofNat 64 va

/-- Thread `t` dispatches a tile memory instruction of operation `op`: a new one with entry `e₀`, or the one that holds
its dispatch (R194). -/
def MayDispatch (m : Module) (t : Nat) (op : TileOp) (legal : Bool) (sources : List Reg) (new e₀ : TileEntry) : Prop :=
  let th := threadAt m t
  match th.tile.hold with
  | some e => runsNext m t = true ∧ e.op = op ∧ e₀ = e
  | none => issuable m t = true ∧ legal = true ∧ th.tile.queue.length < 16 ∧ (th.loads.any (·.data.isNone)) = false
      ∧ th.vec.pending = [] ∧ SourcesReady th sources ∧ e₀ = new

/-! ## Memory instructions -/

/-- A vector store or reduction: thread, fields, whether the form is legal, and what one active element does at an
address (R169, R260). -/
structure ElementForm where
  thread : Nat
  op : VMemOp
  legal : Bool
  act : Thread → Word → Nat → Acc Nat

/-- One element of a vector store: its bytes are written at its place. -/
def storeElement (t : Nat) (o : VMemOp) (th : Thread) (a : Word) (k : Nat) : Acc Nat := do
  let p ← elemPlace t .write o.bytes a
  threadWrite t p a.toNat o.bytes (elem (th.vreg o.v) (8 * o.bytes) k) o.hint true
  pure 0

/-- One element of a vector reduction: one reduction is sent to its place. -/
def reduceElement (t : Nat) (o : VMemOp) (op : BitVec 3) (th : Thread) (a : Word) (k : Nat) : Acc Nat := do
  let p ← elemPlace t .update o.bytes a
  sendReduction t op p a.toNat (elem (th.vreg o.v) (8 * o.bytes) k)
  pure 0

/-- One element of a vector load: its bytes are read at its place. -/
def loadElement (t : Nat) (o : VMemOp) (a : Word) : Acc Nat := do
  let p ← elemPlace t .read o.bytes a
  threadRead t p a.toNat o.bytes o.hint true

/-- The log entries of the faulting elements of an imprecise access of thread `th`, in the order in which they were
detected (R173, R174). -/
def faultEntries (th : Thread) (addr : Nat → Word) (faults : List (Nat × Stop)) : List LogEntry :=
  faults.map fun f =>
    { addr := addr f.1, pc := th.pc, level := th.priv.level, element := BitVec.ofNat 9 f.1
      kind := match f.2 with
        | .fault _ _ _ => 1
        | .exc 0x03 _ => 2
        | .exc _ _ => 3
        | _ => 4 }

/-- The byte of a line once the copy a data L1 holds of it, if any, has been written back (R253, R258). -/
def mergedByte (own : Option L1Line) (data : List Byte) (k : Nat) : Nat :=
  match own with
  | some y => if y.mask.getLsbD k then byteAt y.data k else byteAt data k
  | none => byteAt data k

/-- Every L1 and slice but for the line of `x` holds what it held, and the data L1 of thread `t`'s core holds no copy of
that line (R258). -/
def KeepsOtherLines (t x : Nat) (m m' : Module) : Prop :=
  l1Find (coreAt m' (t / 2)) (lineOf x) = none
    ∧ (∀ key, key ≠ lineOf x → l1Find (coreAt m' (t / 2)) key = l1Find (coreAt m (t / 2)) key)
    ∧ (∀ c, c ≠ t / 2 → coreAt m' c = coreAt m c)
    ∧ ∀ sl key, (sl ≠ homeSlice x ∨ key ≠ lineOf x) → (sliceAt m' sl).find key = (sliceAt m sl).find key

/-- A vector reduction of `bytes`-byte elements. -/
def vredForm (t : Nat) (o : VMemOp) (op : BitVec 3) (bytes : Nat) : ElementForm :=
  { thread := t, op := o, legal := o.legal false && o.bytes == bytes, act := reduceElement t o op }

/-- The stores and reductions of form VM. -/
def elementForm : Instr → Option ElementForm
  | .vst t o => some { thread := t, op := o, legal := o.legal false, act := storeElement t o }
  | .vredInt32Add t o => some (vredForm t o 0 4)
  | .vredFp32Add t o => some (vredForm t o 1 4)
  | .vredBf16Add t o => some (vredForm t o 2 2)
  | .vredInt32Max t o => some (vredForm t o 3 4)
  | .vredFp32Max t o => some (vredForm t o 4 4)
  | .vredBf16Max t o => some (vredForm t o 5 2)
  | _ => none

/-- An atomic: its fields, and what memory becomes from the width, the old value, the operand and the compare value
(R259). -/
structure AtomicForm where
  thread : Nat
  rd : Reg
  rs1 : Reg
  rs2 : Reg
  dbl : BitVec 1
  value : Nat → Nat → Nat → Nat → Nat
  compares : Bool := false

def atomicForm : Instr → Option AtomicForm
  | .aswap t rd a b z => some ⟨t, rd, a, b, z, fun _ _ x _ => x, false⟩
  | .aadd t rd a b z => some ⟨t, rd, a, b, z, fun w old x _ => (old + x) % 2 ^ w, false⟩
  | .aand t rd a b z => some ⟨t, rd, a, b, z, fun _ old x _ => old &&& x, false⟩
  | .aor t rd a b z => some ⟨t, rd, a, b, z, fun _ old x _ => old ||| x, false⟩
  | .axor t rd a b z => some ⟨t, rd, a, b, z, fun _ old x _ => old ^^^ x, false⟩
  | .amin t rd a b z => some ⟨t, rd, a, b, z, fun w old x _ => if natSigned w old < natSigned w x then old else x, false⟩
  | .amax t rd a b z => some ⟨t, rd, a, b, z, fun w old x _ => if natSigned w old < natSigned w x then x else old, false⟩
  | .aminu t rd a b z => some ⟨t, rd, a, b, z, fun _ old x _ => if old < x then old else x, false⟩
  | .amaxu t rd a b z => some ⟨t, rd, a, b, z, fun _ old x _ => if old < x then x else old, false⟩
  | .acas t rd a b z => some ⟨t, rd, a, b, z, fun _ old x c => if old = c then x else old, true⟩
  | _ => none

/-- A scalar reduction: thread, operation, address and operand registers (R260). -/
def redForm : Instr → Option (Nat × Nat × Reg × Reg)
  | .redInt32Add t a b => some (t, 0, a, b)
  | .redFp32Add t a b => some (t, 1, a, b)
  | .redBf16Add t a b => some (t, 2, a, b)
  | .redInt32Max t a b => some (t, 3, a, b)
  | .redFp32Max t a b => some (t, 4, a, b)
  | .redBf16Max t a b => some (t, 5, a, b)
  | _ => none

/-- What R77 and R78 say of a key slot at any time: an empty slot reads zero, a counter is never above its ceiling, and a
ceiling is a multiple of 65,536 or the largest counter. -/
def SlotRules (k : KeySlot) : Prop :=
  (k.key = none → k.perms = 0 ∧ k.last = 0 ∧ k.ceil = 0)
    ∧ k.last ≤ k.ceil ∧ (k.ceil.toNat % 65536 = 0 ∨ k.ceil = BitVec.allOnes 64)

/-- Every key slot keeps its rules. -/
def AuthRules (s : State) : Prop := ∀ i, i < 4 → SlotRules (slotAt s.auth i)

/-- Between commands: memory is in its canonical form, and no admission scan is under way (R83). -/
def Settled (s : State) : Prop := Memory.wf s.m.mem = true ∧ s.m.hg.scan = false

/-- The home slice holds a line as `l`, and nothing waits for it there (R264-R266). -/
def LineStands (m : Module) (line : Nat) (l : LlcLine) : Prop :=
  let k := sliceAt m (homeSlice line)
  k.find line = some l ∧ l.owed = none ∧ k.miss line = none ∧ ∀ q ∈ k.queue, lineOf q.addr ≠ line

/-- No abort past its abort point stands in the pool, so a retirement sets off no cascade (R62). -/
def NoAborts (m : Module) : Prop := ∀ e ∈ m.hg.pool, abortRun e = none

/-- Descriptor `p` is entry `e`, of opcode `op`; it may be decoded now, and it passes the checks of R51, or passed them when
they were made. -/
def Sound (m : Module) (p op : Nat) (e : Entry) : Prop :=
  decodable m p (· == op) = some e ∧ failureOf m e = none

/-- The descriptor a critical command decodes, its opcode, and which descriptors of that opcode are its own. -/
def criticalRow : Instr → Option (Nat × Nat × (Entry → Bool))
  | .keyLoad p => some (p, 0x80, fun e => byteAt e.bytes 24 != 1)
  | .keyRetire p => some (p, 0x80, fun e => byteAt e.bytes 24 == 1)
  | .firmwareActivation p => some (p, 0x81, fun _ => true)
  | .fabricTopologyAndRouteChange p => some (p, 0x82, fun _ => true)
  | .freeze p => some (p, 0x83, fun e => byteAt e.bytes 28 != 0)
  | .thaw p => some (p, 0x83, fun e => byteAt e.bytes 28 == 0)
  | .clockSourceChange p => some (p, 0x84, fun _ => true)
  | .squallEnable p => some (p, 0x85, fun e => byteAt e.bytes 24 != 0)
  | .squallDisable p => some (p, 0x85, fun e => byteAt e.bytes 24 == 0)
  | .warmResetCommand p => some (p, 0x86, fun _ => true)
  | _ => none

/-- Command `c` decodes critical descriptor `e` now, which passes checks 1 to 3 of R51, or passed them. -/
def Decodes (s : State) (c : Instr) (e : Entry) : Prop :=
  ∃ p op sub, criticalRow c = some (p, op, sub) ∧ decodable s.m p (· == op) = some e ∧ sub e = true
    ∧ failureOf s.m e = none

/-- The key slot a critical descriptor names. -/
def authoriser (s : State) (e : Entry) : KeySlot := slotAt s.auth (keySlotOf e)

/-- Steps a to e of R73 pass, and ASID is 0. -/
def Authentic (s : State) (e : Entry) : Prop :=
  keyChecks (authoriser s e) s.m.board.uid e = none ∧ permits (authoriser s e) (opcodeOf e) = true ∧ asidOf e = 0

/-- The key slots once step d has taken the counter of `e` (R73, R78). -/
def counted (s : State) (e : Entry) : Auth :=
  setSlot (keySlotOf e) { authoriser s e with
    last := counterOf e
    ceil := if counterOf e ≥ (authoriser s e).ceil then nextCeiling (counterOf e) else (authoriser s e).ceil } s.auth

/-- A message of a type, addressed to this module, is named by a command and may be handled: it leaves the buffer it waits
in, if it waits in one, and `m₁` is the module without it (R368, R369). -/
def Comes (s : State) (type : Nat) (bytes : List Byte) (x : Msg) (m₁ : Module) : Prop :=
  alive s.m = true ∧ x.type.toNat = type ∧ x.dst = s.m.fabric.node
    ∧ (∃ rest, decodeMsg bytes = some (x, rest)) ∧ ∃ y, takeMsg (fun z => z == x) s.m = some (y, m₁)

/-- Such a message whose reserved fields are 0 (R374, R455). -/
def Arrives (s : State) (type : Nat) (bytes : List Byte) (x : Msg) (m₁ : Module) : Prop :=
  x.unsound = false ∧ Comes s type bytes x m₁

/-- A response finds the tag it answers, in use: `m₂` is the module with the tag free (R375). -/
def Answers (s : State) (type : Nat) (bytes : List Byte) (x : Msg) (g : Tag) (m₂ : Module) : Prop :=
  ∃ m₁, Arrives s type bytes x m₁ ∧ (m₁.fabric.tags.find? fun h => h.tid == x.tid) = some g ∧ g.quarantined = false
    ∧ m₂ = { m₁ with fabric := { m₁.fabric with tags := m₁.fabric.tags.filter fun h => h.tid != g.tid } }

/-- The response of this module to the sender of a request (R368). -/
def responseTo (x : Msg) (type op : Nat) (payload : List Byte) (m : Module) : Module :=
  inject { type := BitVec.ofNat 8 type, op := BitVec.ofNat 8 op, dst := x.src, src := m.fabric.node, tid := x.tid,
           addr := x.addr, payload := payload } m

end Sys2Proof.Machine
end

