-- ==== Sys2Proof/WellFormed.lean ====
section
/-! DEFINITION. Well-formed commands: every operand names something the module has, and every instruction has the fields
its encoding allows. -/

namespace Sys2Proof

/-- Whether the operands of a command are in range: threads (R99), rings (R37), slices (R263), channels
(R271, R276), arbiters (R298), event controllers and sources (R147), loops (R403), and the fields of R101, R157, R169, R255 and R260.
DESIGN CHOICE (log 15). -/
def Instr.wellFormed (c : Instr) : Bool :=
  match c with
  | .sqDb r _ => r < 1024
  | .cqDb r _ => r < 1024
  | .ringEnable r _ => r < 1024
  | .ringDisable r _ => r < 1024
  | .quiesced r => r < 1024
  | .rootIfrevWrite _ => true
  | .descriptorFetch _ => true
  | .descriptorReadFailure => true
  | .modtimerExpiry r => r < 1024
  | .noop _ => true
  | .copy _ => true
  | .copyComplete _ => true
  | .tokenSet _ => true
  | .tokenClear _ => true
  | .abort _ => true
  | .abortComplete _ => true
  | .stopRequest t => t < 384
  | .threadStopped t => t < 384
  | .stashAndHazeConfiguration _ => true
  | .weirTableWrite _ => true
  | .keyLoad _ => true
  | .keyRetire _ => true
  | .firmwareActivation _ => true
  | .firmwareStoreComplete _ => true
  | .fabricTopologyAndRouteChange _ => true
  | .freeze _ => true
  | .thaw _ => true
  | .clockSourceChange _ => true
  | .dividerStep n => n < 10
  | .loopRelock n => n < 10
  | .squallEnable _ => true
  | .squallDisable _ => true
  | .squallActiveEnd => true
  | .warmResetCommand _ => true
  | .headgateCycle => true
  | .taskAdmit _ => true
  | .taskRetire _ => true
  | .headgateStall => true
  | .reservation => true
  | .frCtrlEnable _ => true
  | .frCtrlDisable _ => true
  | .frPtrHeadWrite _ => true
  | .frResume _ => true
  | .frKill _ => true
  | .faultRecordDrain => true
  | .mmuInvPage _ _ => true
  | .mmuInvAsid _ => true
  | .mmuInvAll => true
  | .mmuInvIgnored _ => true
  | .mmuInvComplete => true
  | .atsInvalidation _ _ _ => true
  | .add t _ _ _ => t < 384
  | .sub t _ _ _ => t < 384
  | .andR t _ _ _ => t < 384
  | .orR t _ _ _ => t < 384
  | .xorR t _ _ _ => t < 384
  | .sll t _ _ _ => t < 384
  | .srl t _ _ _ => t < 384
  | .sra t _ _ _ => t < 384
  | .minS t _ _ _ => t < 384
  | .maxS t _ _ _ => t < 384
  | .minu t _ _ _ => t < 384
  | .maxu t _ _ _ => t < 384
  | .clz t _ _ => t < 384
  | .ctz t _ _ => t < 384
  | .popc t _ _ => t < 384
  | .addw t _ _ _ => t < 384
  | .subw t _ _ _ => t < 384
  | .mul t _ _ _ => t < 384
  | .mulh t _ _ _ => t < 384
  | .mulhu t _ _ _ => t < 384
  | .divS t _ _ _ => t < 384
  | .divu t _ _ _ => t < 384
  | .rem t _ _ _ => t < 384
  | .remu t _ _ _ => t < 384
  | .seq t _ _ _ => t < 384
  | .sne t _ _ _ => t < 384
  | .slt t _ _ _ => t < 384
  | .sge t _ _ _ => t < 384
  | .sltu t _ _ _ => t < 384
  | .sgeu t _ _ _ => t < 384
  | .addi t _ _ _ => t < 384
  | .andi t _ _ _ => t < 384
  | .ori t _ _ _ => t < 384
  | .xori t _ _ _ => t < 384
  | .slli t _ _ _ => t < 384
  | .srli t _ _ _ => t < 384
  | .srai t _ _ _ => t < 384
  | .slti t _ _ _ => t < 384
  | .sltiu t _ _ _ => t < 384
  | .cati t _ _ _ => t < 384
  | .rcati t _ _ _ => t < 384
  | .load t op => t < 384 && op.wellFormed
  | .loadS t op => t < 384 && op.wellFormed
  | .store t op => t < 384 && op.wellFormed
  | .loadDataReturn t _ => t < 384
  | .branch t _ _ _ _ => t < 384
  | .branchI t _ _ _ _ => t < 384
  | .jump t _ => t < 384
  | .call t _ => t < 384
  | .jr t _ => t < 384
  | .callr t _ => t < 384
  | .ret t => t < 384
  | .returnStackFill t => t < 384
  | .loopR t _ _ _ => t < 384
  | .loopi t _ _ _ => t < 384
  | .lclr t _ => t < 384
  | .trap t _ => t < 384
  | .endTask t => t < 384
  | .rfx t => t < 384
  | .wait t => t < 384
  | .waitWake t => t < 384
  | .mfsr t _ _ => t < 384
  | .mtsr t _ _ => t < 384
  | .sync t => t < 384
  | .leaseWrite t _ => t < 384
  | .vfstatClr t _ => t < 384
  | .exceptionEntry t _ => t < 384
  | .externalEvent t => t < 384
  | .timer t => t < 384
  | .niExpiry t => t < 384
  | .eventEdge d s => d < 4 && !Machine.sourceReserved s
  | .evSwset d _ => d < 4
  | .evPendDiscard d w _ => d < 4 && w < 8
  | .evClaim d s reader => d < 4 && s < 384 && reader.all (fun x => x.1 < 384)
  | .holdExpiry d s => d < 4 && s < 384
  | .moderationBypass d s => d < 4 && s < 384
  | .vld t op => t < 384 && op.legal true
  | .vst t op => t < 384 && op.legal false
  | .vectorElementAnswer t => t < 384
  | .vadd t _ => t < 384
  | .vsub t _ => t < 384
  | .vmul t _ => t < 384
  | .vmulh t _ => t < 384
  | .vmulhu t _ => t < 384
  | .vmin t _ => t < 384
  | .vmax t _ => t < 384
  | .vminu t _ => t < 384
  | .vmaxu t _ => t < 384
  | .vand t _ => t < 384
  | .vor t _ => t < 384
  | .vxor t _ => t < 384
  | .vsll t _ => t < 384
  | .vsrl t _ => t < 384
  | .vsra t _ => t < 384
  | .vsadd t _ => t < 384
  | .vsaddu t _ => t < 384
  | .vssub t _ => t < 384
  | .vssubu t _ => t < 384
  | .vsmulr t _ => t < 384
  | .vrsra t _ => t < 384
  | .vrsrl t _ => t < 384
  | .vnars t _ => t < 384
  | .vnaru t _ => t < 384
  | .vfadd t _ => t < 384
  | .vfsub t _ => t < 384
  | .vfmul t _ => t < 384
  | .vfma t _ => t < 384
  | .vfnms t _ => t < 384
  | .vfmin t _ => t < 384
  | .vfmax t _ => t < 384
  | .vfdiv t _ => t < 384
  | .vfsqrt t _ => t < 384
  | .vceq t op => t < 384 && op.scalar == 0
  | .vcne t op => t < 384 && op.scalar == 0
  | .vclt t op => t < 384 && op.scalar == 0
  | .vcltu t op => t < 384 && op.scalar == 0
  | .vcle t op => t < 384 && op.scalar == 0
  | .vcleu t op => t < 384 && op.scalar == 0
  | .vcfeq t op => t < 384 && op.scalar == 0
  | .vcflt t op => t < 384 && op.scalar == 0
  | .vcfle t op => t < 384 && op.scalar == 0
  | .vcfun t op => t < 384 && op.scalar == 0
  | .vcvt t _ => t < 384
  | .vrsum t op => t < 384 && op.scalar == 0
  | .vrmax t op => t < 384 && op.scalar == 0
  | .vrmin t op => t < 384 && op.scalar == 0
  | .vrmaxu t op => t < 384 && op.scalar == 0
  | .vrminu t op => t < 384 && op.scalar == 0
  | .vrfsum t op => t < 384 && op.scalar == 0
  | .vrfmax t op => t < 384 && op.scalar == 0
  | .vrfmin t op => t < 384 && op.scalar == 0
  | .vmv t op => t < 384 && op.scalar == 0
  | .vbcast t op => t < 384 && op.scalar == 0
  | .vext t op => t < 384 && op.scalar == 0
  | .vins t op => t < 384 && op.scalar == 0
  | .vindex t op => t < 384 && op.scalar == 0
  | .vshdn t op => t < 384 && op.scalar == 0
  | .vshup t op => t < 384 && op.scalar == 0
  | .vrng t op => t < 384 && op.scalar == 0
  | .vmand t op => t < 384 && op.scalar == 0
  | .vmor t op => t < 384 && op.scalar == 0
  | .vmxor t op => t < 384 && op.scalar == 0
  | .vmandn t op => t < 384 && op.scalar == 0
  | .vmcount t op => t < 384 && op.scalar == 0
  | .vmlow t op => t < 384 && op.scalar == 0
  | .setvc t _ _ _ => t < 384
  | .vectorPowerDown c => c < 192
  | .vectorWake c => c < 192
  | .tmma t _ => t < 384
  | .tld t _ => t < 384
  | .tst t _ => t < 384
  | .tlds t _ => t < 384
  | .taccv t _ => t < 384
  | .tacct t _ => t < 384
  | .taccs t _ => t < 384
  | .tileIssue t _ => t < 384
  | .tileLoadDataError t _ _ => t < 384
  | .fence t => t < 384
  | .fenceWb t rs1 rs2 => t < 384 && (rs2 != 0 || rs1 == 0)
  | .fenceInv t rs1 rs2 => t < 384 && (rs2 != 0 || rs1 == 0)
  | .fenceI t => t < 384
  | .aswap t _ _ _ _ => t < 384
  | .aadd t _ _ _ _ => t < 384
  | .aand t _ _ _ _ => t < 384
  | .aor t _ _ _ _ => t < 384
  | .axor t _ _ _ _ => t < 384
  | .amin t _ _ _ _ => t < 384
  | .amax t _ _ _ _ => t < 384
  | .aminu t _ _ _ _ => t < 384
  | .amaxu t _ _ _ _ => t < 384
  | .acas t _ _ _ _ => t < 384
  | .atomicResult t _ => t < 384
  | .redInt32Add t _ _ => t < 384
  | .redFp32Add t _ _ => t < 384
  | .redBf16Add t _ _ => t < 384
  | .redInt32Max t _ _ => t < 384
  | .redFp32Max t _ _ => t < 384
  | .redBf16Max t _ _ => t < 384
  | .vredInt32Add t op => t < 384 && op.hint == 0
  | .vredFp32Add t op => t < 384 && op.hint == 0
  | .vredBf16Add t op => t < 384 && op.hint == 0
  | .vredInt32Max t op => t < 384 && op.hint == 0
  | .vredFp32Max t op => t < 384 && op.hint == 0
  | .vredBf16Max t op => t < 384 && op.hint == 0
  | .reductionApply sl => sl < 64
  | .llcFill sl line => sl < 64 && line % 128 == 0
  | .missRegisterGrant sl => sl < 64
  | .evictionWriteBack sl line => sl < 64 && line % 128 == 0
  | .writeBackAcknowledge sl line => sl < 64 && line % 128 == 0
  | .llcPrefetch sl line => sl < 64 && line % 128 == 0
  | .l1Prefetch t line => t < 384 && line % 128 == 0
  | .wayPowerDown sl _ => sl < 64
  | .wayPowerUp sl _ => sl < 64
  | .waySequenceComplete sl => sl < 64
  | .patrolScrub line => line % 128 == 0
  | .refresh ch _ => ch < 320
  | .wckDriftCheck ch _ => ch < 320
  | .retrainComplete ch _ => ch < 320
  | .selfRefreshEntry ch => ch < 320
  | .jobPost who st _ => who.all (· < 384) && st < 8
  | .jobStart st => st < 8
  | .chunkComplete st e => st < 8 && e < 32
  | .jobComplete st _ => st < 8
  | .convert st e => st < 8 && e < 32
  | .axpby st e => st < 8 && e < 32
  | .jobMul st e => st < 8 && e < 32
  | .reduce st e => st < 8 && e < 32
  | .fill st e => st < 8 && e < 32
  | .finite st e => st < 8 && e < 32
  | .stash st e => st < 8 && e < 32
  | .unstash st e => st < 8 && e < 32
  | .gather st _ => st < 8
  | .clean st _ => st < 8
  | .regionClean st _ => st < 8
  | .backInvalidate st _ => st < 8
  | .gatherPrefetch st _ => st < 8
  | .requestRegisterGrant st => st < 8
  | .arbiterCycle a _ => a < 324
  | .aging a => a < 324
  | .quotaWindowWrap a => a < 324
  | .arbCommit a _ => a < 324
  | .commitApply a => a < 324
  | .gpFold who _ => who.all (· < 384)
  | .cast _ => true
  | .gateEventWaitEnd _ => true
  | .vote _ _ => true
  | .result _ => true
  | .gateTimeout b => b < 2
  | .gateCommit b => b < 2
  | .gvStepcntLoad _ => true
  | .scAmax _ _ _ => true
  | .hzOffer who _ => who.all (· < 384)
  | .hazeSampleComplete st _ => st < 8
  | .layerUpdate _ => true
  | .updateComplete _ => true
  | .portTrainingEntry w i => w < 4 && i < 4
  | .loopbackComplete w i _ => w < 4 && i < 4
  | .signalDetected w i => w < 4 && i < 4
  | .trainingComplete w i => w < 4 && i < 4
  | .alignComplete w i => w < 4 && i < 4
  | .trainingStateTimeout w i => w < 4 && i < 4
  | .lockLoss w i => w < 4 && i < 4
  | .errmaxExceeded w i _ => w < 4 && i < 4
  | .receiveIdleTimeout w i => w < 4 && i < 4
  | .failedTimeout w i => w < 4 && i < 4
  | .linkMessage w i _ _ _ _ _ _ => w < 4 && i < 4
  | .ringHoldTimeout _ => true
  | .ringHoldRetry _ => true
  | .flit w i _ => w < 4 && i < 4
  | .nak w i _ => w < 4 && i < 4
  | .resendTimeout w => w < 4
  | .fabricRead _ => true
  | .fabricWrite _ => true
  | .fabricAtom _ => true
  | .fabricRed _ => true
  | .readData _ => true
  | .fabricAck _ => true
  | .atomReturn _ => true
  | .fabricErr _ => true
  | .ctlAck _ => true
  | .gateMessageResend _ => true
  | .requestTimeout _ => true
  | .tagQuarantineEnd _ => true
  | .wpPost who _ => who.all (· < 384)
  | .batchStart => true
  | .dispatch _ => true
  | .grant _ => true
  | .notYetRetry _ => true
  | .dispatchTimeout _ => true
  | .tdata _ => true
  | .endMessage _ => true
  | .expertClose _ => true
  | .closeTimeout _ => true
  | .wpReturn who _ => who.all (· < 384)
  | .rdata _ => true
  | .choiceLost _ => true
  | .entryQuarantineEnd _ => true
  | .sourceFail c => c < 4
  | .ckEnWrite w _ => w < 6
  | .gatedTouch h => h < 384
  | .ckMonWrite _ => true
  | .standbyEntry => true
  | .standbyExit => true
  | .powerOnReset => true
  | .fundamentalReset => true
  | .perstDeassert => true
  | .hostLinkReset => true
  | .warmReset => true
  | .bootStepComplete _ _ => true
  | .errorDetected _ _ _ _ _ => true
  | .erPtrHeadWrite _ => true
  | .erCntclr _ => true
  | .clearComplete => true
  | .inputExcursion => true
  | .inputLoss => true
  | .regulatorFault => true
  | .thermalReading die _ => die < 14
  | .partNumber => true
  | .serialNumber => true
  | .smbusAuthUid => true
  | .firmwareVersion => true
  | .moduleTemperature => true
  | .computeDieTemperature d => d < 4
  | .ioDieTemperature d => d < 2
  | .basinStackTemperature => true
  | .smbusNack _ => true
  | .badWidthAccess who _ _ => who.all (· < 384)
  | .registerWrite who _ _ _ => who.all (· < 384)
  | .sourceRecovery c => c < 4
  | .hostLinkUp => true
  | .inputExcursionEnd => true
  | .tileLoadDataReturn t _ => t < 384
  | .returnStackSpillComplete t => t < 384

end Sys2Proof
end

