-- ==== Sys2Proof/Certificates/Slice0/Obligations.lean ====
section
/-! DEFINITION. The statements about the module: what each command does, and the rules every step keeps. -/

open Sys2Proof Sys2Proof.Machine

/-! ## The queue of commands and the state at reset -/

/-- A step runs the command at the front of the queue, and on an empty queue lets one timestamp tick pass
(03_host_rings.md, 18_clocks_power_reset.md). The queue form, the tick and the rail it brings up are the model's own
choices (log 1, log 2). -/
def Obligations.StepRunsFrontCommand : Prop :=
  (∀ (c : Instr) (rest : List Instr) (s : State),
    step { s with pending := c :: rest } = exec c { s with pending := rest })
  ∧ ∀ s : State, s.pending = [] →
    let rails := s.m.board.rails
    let raised := if s.m.clocks.booting.map (·.2) = some 1 ∧ s.m.board.input = true ∧ s.m.errors.stopped = false then
        BitVec.ofNat 5 ((2 * rails.toNat + 1) % 16) else rails
    step s = .next { s with m := { s.m with
      board := { s.m.board with rails := raised }
      time := if (loopAt s.m 9).phase = .none then s.m.time + 1 else s.m.time } }

/-- No command faults, none is refused, and none touches the queue (00_scope.md, 06_scalar_isa.md, 19_ras_squall.md).
That each fault and failure the manual names is a next state, and no command a stop, is the model's reading (log 11). -/
def Obligations.EveryCommandAnswers : Prop :=
  ∀ (c : Instr) (s : State), ∃ t : State, exec c s = .next t ∧ t.pending = s.pending

/-- What the module holds at the beginning of a power-on reset (03_host_rings.md, 05_headgate.md,
07_privilege_traps_events.md, 18_clocks_power_reset.md, 19_ras_squall.md). -/
def Obligations.ResetHoldsResetValues : Prop :=
  State.reset.pending = [] ∧ State.reset.m.time = 0
    ∧ State.reset.m.clocks.booting = some (.powerOn, 1) ∧ alive State.reset.m = false
    ∧ (∀ r, (ringAt State.reset.m r).enable = false ∧ (ringAt State.reset.m r).quiesced = true
        ∧ (ringAt State.reset.m r).modCount = 1)
    ∧ State.reset.m.hg.tokens = 0 ∧ State.reset.m.hg.pool = []
    ∧ State.reset.m.hg.stall = 0x400 ∧ State.reset.m.hg.reserve = 0x100
    ∧ (∀ t, (threadAt State.reset.m t).run = .idle ∧ (threadAt State.reset.m t).priv.level = 0
        ∧ (threadAt State.reset.m t).pc = 0 ∧ (threadAt State.reset.m t).priv.nilimit = 256
        ∧ ∀ r, (threadAt State.reset.m t).reg r = 0)
    ∧ Memory.wf State.reset.m.mem = true ∧ State.reset.m.mem = [] ∧ Settled State.reset
    ∧ State.reset.m.errors.fatal = none ∧ State.reset.m.errors.irqMask = 0x81FC ∧ State.reset.m.errors.log = []
    ∧ State.reset.m.squall.active = false ∧ State.reset.m.gate.root = true ∧ State.reset.m.gate.members = 1
    ∧ (∀ sl, (sliceAt State.reset.m sl).wayEn = 0xFFFF ∧ (sliceAt State.reset.m sl).lines = [])
    ∧ (∀ g n k, statOf State.reset.m g n k = {}) ∧ AuthRules State.reset

/-! ## Rules that every step keeps: the command authenticator -/

/-- Every step keeps the rules of the key slots (04_authenticated_commands.md). -/
def Obligations.StepKeepsAuthRules : Prop :=
  ∀ s t : State, AuthRules s → step s = .next t → AuthRules t

/-- A slot's counter never falls but by a key load or a key retire (04_authenticated_commands.md). -/
def Obligations.CounterNeverFalls : Prop :=
  ∀ (c : Instr) (s t : State), (∀ p, c ≠ .keyLoad p) → (∀ p, c ≠ .keyRetire p) → AuthRules s →
    exec c s = .next t →
    ∀ i, i < 4 → (slotAt t.auth i).key = (slotAt s.auth i).key ∧ (slotAt t.auth i).perms = (slotAt s.auth i).perms
      ∧ (slotAt s.auth i).last ≤ (slotAt t.auth i).last

/-- Every step keeps the memory of the module in its canonical form (05_headgate.md, 11_memory_caches.md). The
canonical form and the mark of a scan under way are the model's own (log 31). -/
def Obligations.StepKeepsMemoryCanonical : Prop :=
  ∀ s t : State, Settled s → step s = .next t → Settled t

/-- At boot step 8 of a power-on reset LAST becomes CEIL in every slot that holds a key (R78). -/
def Obligations.PowerOnRestoresCounters : Prop :=
  ∀ s : State, s.m.clocks.booting = some (.powerOn, 8) → bootRuns s.m 8 = true →
    ∃ t : State, exec (.bootStepComplete none false) s = .next t ∧ t.m.clocks.step = 8
      ∧ t.m.clocks.booting = some (.powerOn, 9) ∧ t.pending = s.pending
      ∧ ∀ i, i < 4 → slotAt t.auth i =
          if (slotAt s.auth i).key = none then slotAt s.auth i
          else { slotAt s.auth i with last := (slotAt s.auth i).ceil }

/-! ## Instruction words -/

/-- The words of every well-formed instruction decode to that instruction (06_scalar_isa.md, 08_vector.md,
09_tiles_arrays.md, 11_memory_caches.md). -/
def Obligations.WordsDecodeToTheirInstruction : Prop :=
  ∀ (i : Instr) (x : BitVec 32) (y : Option (BitVec 32)), i.wellFormed = true → wordsOf i = some (x, y) →
    ∃ t, ∀ z, decodeWords t x (y.getD z) = some (match i with
      | .leaseWrite t g => .mtsr t g 0x050
      | .vfstatClr t g => .mtsr t g 0x033
      | i => i)

/-! ## Host port: rings, doorbells, fetch and records -/

/-- A doorbell moves its pointer when it names one the ring allows, and otherwise halts the ring (03_host_rings.md). -/
def Obligations.DoorbellMovesPointerOrHalts : Prop :=
  ∀ (s : State) (r : Nat) (v : BitVec 32), r < 1024 →
    let x := ringAt s.m r
    let p := v.toNat % 2 ^ 17
    let n := 2 ^ x.sqLog.toNat
    let k := 2 ^ x.cqLog.toNat
    let past (size head q : Nat) : Nat := (q + 2 * size - head % (2 * size)) % (2 * size)
    let tailOk := x.enable = true ∧ x.halted = false ∧ p < 2 * n
      ∧ past n x.sqHead.toNat x.sqTail.toNat ≤ past n x.sqHead.toNat p ∧ past n x.sqHead.toNat p ≤ n
    let headOk := p < 2 * k ∧ past k x.cqHead.toNat p ≤ past k x.cqHead.toNat x.cqTail.toNat
    (tailOk → Becomes (.sqDb r v) s (setRing r { x with sqTail := BitVec.ofNat 17 p } s.m))
    ∧ (headOk → Becomes (.cqDb r v) s (setRing r { x with cqHead := BitVec.ofNat 17 p } s.m))
    ∧ (¬ tailOk → ∃ m, Becomes (.sqDb r v) s m ∧ ringAt m r = { x with dbErr := true, halted := true, half := none }
        ∧ (∀ q, q ≠ r → ringAt m q = ringAt s.m q) ∧ m = { s.m with host := m.host, hg := m.hg })
    ∧ (¬ headOk → ∃ m, Becomes (.cqDb r v) s m ∧ ringAt m r = { x with cqDbErr := true, halted := true, half := none }
        ∧ (∀ q, q ≠ r → ringAt m q = ringAt s.m q) ∧ m = { s.m with host := m.host, hg := m.hg })

/-- Enabling, disabling and quiescing a ring, and choosing the interface revision (02_unit_tree.md, 03_host_rings.md). -/
def Obligations.RingControlFollowsItsConditions : Prop :=
  (∀ (s : State) (r : Nat) (v : BitVec 32), r < 1024 → (ringAt s.m r).enable = false →
    let x := ringAt s.m r
    let log := BitVec.ofNat 5 (v.toNat / 2 ^ 24)
    let prio := BitVec.ofNat 2 (v.toNat / 2 ^ 29)
    let ok := s.m.host.select ≠ 0 ∧ 4 ≤ log.toNat ∧ log.toNat ≤ 16 ∧ 4 ≤ x.cqLog.toNat ∧ x.cqLog.toNat ≤ 16
      ∧ x.quiesced = true
    ∃ m, Becomes (.ringEnable r v) s m ∧ (∀ q, q ≠ r → ringAt m q = ringAt s.m q)
      ∧ m = { s.m with host := m.host, clocks := m.clocks }
      ∧ (ok → ringAt m r = { x with prio := prio, sqLog := log, enable := true, quiesced := false, halted := false
                                    sqHead := 0, sqTail := 0, cqHead := 0, cqTail := 0, owed := 0
                                    modPending := 0, firstTime := 0, half := none })
      ∧ (¬ ok → ringAt m r = { x with prio := prio, sqLog := log, enReject := true }))
  ∧ (∀ (s : State) (r : Nat) (v : BitVec 32), r < 1024 → (ringAt s.m r).enable = true →
    ∃ m, Becomes (.ringDisable r v) s m ∧ (∀ q, q ≠ r → ringAt m q = ringAt s.m q)
      ∧ m = { s.m with host := m.host, hg := m.hg }
      ∧ ringAt m r = { ringAt s.m r with prio := BitVec.ofNat 2 (v.toNat / 2 ^ 29), enable := false, half := none
                                         quiesced := (ringAt s.m r).owed == 0 })
  ∧ (∀ (s : State) (r : Nat), r < 1024 → (ringAt s.m r).enable = false → (ringAt s.m r).owed = 0 →
    Becomes (.quiesced r) s (setRing r { ringAt s.m r with quiesced := true } s.m))
  ∧ (∀ (s : State) (v : BitVec 32),
    let sel := BitVec.ofNat 4 v.toNat
    let rej := s.m.host.reject && !v.getLsbD 9
    (sel = s.m.host.select →
      Becomes (.rootIfrevWrite v) s { s.m with host := { s.m.host with reject := rej } })
    ∧ (sel ≠ s.m.host.select → (sel = 0 ∨ sel = 1) → (∀ p ∈ s.m.host.rings, p.2.enable = false) →
      Becomes (.rootIfrevWrite v) s { s.m with host := { s.m.host with select := sel, reject := rej } })
    ∧ (sel ≠ s.m.host.select → ((sel ≠ 0 ∧ sel ≠ 1) ∨ ∃ p ∈ s.m.host.rings, p.2.enable = true) →
      Becomes (.rootIfrevWrite v) s { s.m with host := { s.m.host with reject := true } }))

/-- Descriptor fetch, a failed read, and the moderation timer (03_host_rings.md). -/
def Obligations.FetchTakesTheNextDescriptor : Prop :=
  (∀ (m : Module) (r : Nat), nextRing m = some r → ∃ x, (r, x) ∈ m.host.rings ∧ fetchable m x = true
    ∧ ∀ q ∈ m.host.rings, fetchable m q.2 = true → q.2.prio.toNat ≤ x.prio.toNat)
  ∧ (∀ (s : State) (r : Nat) (put : List Byte), nextRing s.m = some r → fetchable s.m (ringAt s.m r) = true →
    NoAborts s.m → (ringAt s.m r).half = none → (put = [] ∨ put.length = 64) →
    let x := ringAt s.m r
    let i := x.sqHead.toNat % 2 ^ x.sqLog.toNat
    let slot := if put = [] then getHost s.m (x.sqBase.toNat + 64 * i) 64 else put
    let e : Entry := { id := s.m.hg.nextId, ring := r, bytes := slot, squall := s.m.squall.active, index := BitVec.ofNat 16 i }
    critical (byteAt slot 0) = false →
    ∃ m, Becomes (.descriptorFetch [put]) s m ∧ m.hg.pool = s.m.hg.pool ++ [e]
      ∧ ringAt m r = { x with owed := x.owed + 1
                              sqHead := BitVec.ofNat 17 ((x.sqHead.toNat + 1) % 2 ^ (x.sqLog.toNat + 1)) }
      ∧ (∀ q, q ≠ r → ringAt m q = ringAt s.m q)
      ∧ m = { s.m with host := m.host, hg := { s.m.hg with pool := m.hg.pool, nextId := s.m.hg.nextId + 1 } })
  ∧ (∀ (s : State) (r : Nat), nextRing s.m = some r →
    ∃ m, Becomes .descriptorReadFailure s m ∧ (ringAt m r).fetchErr = true ∧ (ringAt m r).halted = true
      ∧ (ringAt m r).sqHead = (ringAt s.m r).sqHead ∧ (ringAt m r).sqTail = (ringAt s.m r).sqTail
      ∧ (∀ q, q ≠ r → ringAt m q = ringAt s.m q) ∧ m = { s.m with host := m.host, hg := m.hg })
  ∧ (∀ (s : State) (r : Nat), r < 1024 → alive s.m = true → (ringAt s.m r).modPending ≠ 0 →
    (ringAt s.m r).modTimer ≠ 0 →
    1000 * (ringAt s.m r).modTimer.toNat ≤ (s.m.time - (ringAt s.m r).firstTime).toNat →
    Becomes (.modtimerExpiry r) s
      (signal (ringAt s.m r).vector (setRing r { ringAt s.m r with modPending := 0 } s.m)))

/-- A retirement writes its record and frees its place in the pool; a failing descriptor has no effect of its own
(03_host_rings.md, 05_headgate.md). That the checks of a descriptor are made once is the model's reading (log 31). -/
def Obligations.RetirementWritesItsRecord : Prop :=
  (∀ (s : State) (p : Nat) (e : Entry), Sound s.m p 0 e → NoAborts s.m → s.m.hg.scan = false → e.ring < 1024 →
    let x := ringAt s.m e.ring
    let n := x.cqLog.toNat
    let tail := x.cqTail.toNat
    ∃ m, Becomes (.noop p) s m ∧ m.hg.pool = s.m.hg.pool.filter (fun q => q.id != p)
      ∧ (ringAt m e.ring).cqTail = BitVec.ofNat 17 ((tail + 1) % 2 ^ (n + 1)) ∧ (ringAt m e.ring).owed = x.owed - 1
      ∧ (∀ q, q ≠ e.ring → ringAt m q = ringAt s.m q) ∧ m = { s.m with host := m.host, hg := m.hg }
      ∧ (noirq e = true ∨ (msixOf s.m x.vector).control.getLsbD 0 = true →
          let b := getHost m (x.cqBase.toNat + 32 * (tail % 2 ^ n)) 32
          field b 0 2 = 0 ∧ byteAt b 2 = ownOutcome e ∧ byteAt b 3 % 2 = (if tail.testBit n then 0 else 1)
            ∧ field b 4 4 = tagOf e ∧ field b 8 2 = e.ring ∧ field b 10 2 = e.index.toNat
            ∧ field b 12 4 = 0 ∧ field b 16 4 = 0 ∧ field b 20 4 = 0 ∧ field b 24 8 = s.m.time.toNat))
  ∧ (∀ (s : State) (p : Nat) (e : Entry), Sound s.m p 0 e → Becomes (.noop p) s (completeEntry e 0 0 0 0 s.m))
  ∧ ∀ (s : State) (p : Nat) (e : Entry) (f c : Nat), failureOf s.m e = some (f, c) → e.work = .idle →
    entryAt s.m p = some e →
    ((decodable s.m p (· == 0) = some e → Becomes (.noop p) s (failDescriptor e (f, c) s.m))
    ∧ (decodable s.m p (· == 2) = some e → Becomes (.copy p) s (failDescriptor e (f, c) s.m))
    ∧ (decodable s.m p (· == 5) = some e → Becomes (.abort p) s (failDescriptor e (f, c) s.m))
    ∧ (decodable s.m p (· == 6) = some e → Becomes (.stashAndHazeConfiguration p) s (failDescriptor e (f, c) s.m))
    ∧ (decodable s.m p (· == 7) = some e → Becomes (.weirTableWrite p) s (failDescriptor e (f, c) s.m)))

/-! ## Ordinary descriptors -/

/-- The first token descriptor of a ring sets or clears exactly its range and reports how many tokens changed
(05_headgate.md). -/
def Obligations.TokenDescriptorsActOnTheirRange : Prop :=
  ∀ (s : State) (p : Nat) (e : Entry) (set : Bool), Sound s.m p 4 e → byteAt e.bytes 12 = (if set then 1 else 0) →
    let first := field e.bytes 8 2
    let n := field e.bytes 10 2
    let changed := ((List.range n).filter fun i => s.m.hg.tokens.getLsbD (first + i) == !set).length
    ∃ m, Becomes (if set then .tokenSet p else .tokenClear p) s (completeEntry e 0 changed 0 0 m)
      ∧ (∀ t, t < 4096 → m.hg.tokens.getLsbD t =
          if first ≤ t ∧ t < first + n then set else s.m.hg.tokens.getLsbD t)
      ∧ m = { s.m with 
          hg := { s.m.hg with tokens := m.hg.tokens, actedRings := e.ring :: s.m.hg.actedRings }
          stats := m.stats, events := m.events }

/-- Copies, aborts, the stash and Haze configuration and the Weir table write do what their bodies say
(03_host_rings.md, 14_training_support.md, 17_weir.md). The order of pieces and the whole read of an overlapping
source are the model's reading (log 32). -/
def Obligations.OrdinaryDescriptorsAct : Prop :=
  (∀ (s : State) (p : Nat) (e : Entry), Sound s.m p 2 e → entryAt s.m p = some e → e.work = .idle →
    Becomes (.copy p) s (admitEntry e (.copy {}) s.m))
  ∧ (∀ (s : State) (p : Nat) (e : Entry) (r : CopyRun), entryAt s.m p = some e → e.work = .copy r →
    working s.m = true → Becomes (.copy p) s (stepCopy e r s.m))
  ∧ (∀ (s : State) (p : Nat) (e : Entry) (r : CopyRun) (bytes : List Byte) (m₁ : Module) (b : Nat) (k : LlcLine),
    entryAt s.m p = some e → e.work = .copy r → working s.m = true →
    r.waiting = false → r.ending = none → r.sent = 0 → writesOpen s.m p = false → r.done < copyLen e →
    (r.tag = true ∨ dmaTagsInUse s.m (e.ring % 2 == 1) < 4096) →
    (overlapsUp e = false ∨ r.snapshot.isSome = true) →
    let n := copyPiece e r.done
    let from_ := copySrc e + r.done
    let into_ := copyDst e + r.done
    ((into_ + n) % 4096 = 0 ∨ r.done + n = copyLen e) →
    (copyBytes e r).go s.m = (.ok bytes, m₁) → bytes.length = n → m₁.hg = s.m.hg → m₁.fabric = s.m.fabric →
    (resolve (copyAgent e) .write (into_ % 2 ^ 48)).go m₁ = (.ok (.mem b), m₁) → b % 128 = into_ % 128 →
    LineStands m₁ (lineOf b) k →
    (∀ a l, r.snapshot = none → (resolve (copyAgent e) .read (from_ % 2 ^ 48)).go s.m = (.ok (.mem a), s.m) →
        a % 128 = from_ % 128 → LineStands s.m (lineOf a) l → l.data.length = 128 → touchesPoison l.poison (a % 128) n = false →
        bytes = (l.data.drop (a % 128)).take n ∧ m₁.mem = s.m.mem ∧ ∀ line, heldLine line m₁ = heldLine line s.m)
    ∧ (∀ l, r.snapshot = some l → bytes = (l.drop r.done).take n ∧ m₁ = s.m)
    ∧ ∃ m e', Becomes (.copy p) s m ∧ entryAt m p = some e'
      ∧ e'.work = .copy { r with done := r.done + n, tag := false }
      ∧ (∀ i, i < 128 → byteAt (heldLine (lineOf b) m).1 i =
          if b % 128 ≤ i ∧ i < b % 128 + n then byteAt bytes (i - b % 128) else byteAt k.data i)
      ∧ (∀ line, line ≠ lineOf b → heldLine line m = heldLine line m₁)
      ∧ m.mem = m₁.mem ∧ m.threads = m₁.threads ∧ m.cores = m₁.cores)
  ∧ (∀ (s : State) (p : Nat) (e : Entry) (r : CopyRun) (bytes : List Byte) (m₁ : Module),
    entryAt s.m p = some e → e.work = .copy r → working s.m = true →
    r.waiting = false → r.ending = none → r.sent = 0 → writesOpen s.m p = false → r.done = 0 → copyLen e ≠ 0 →
    (r.tag = true ∨ dmaTagsInUse s.m (e.ring % 2 == 1) < 4096) →
    overlapsUp e = true → r.snapshot = none →
    (agentRead (copyAgent e) (.line (.entry e.id)) (copySrc e) (copyLen e)).go s.m = (.ok bytes, m₁) →
    Becomes (.copy p) s (movePieces 72 e { r with snapshot := some bytes } m₁))
  ∧ (∀ (s : State) (p : Nat) (e : Entry) (r : CopyRun), entryAt s.m p = some e → e.work = .copy r →
    working s.m = true → r.done + r.sent = copyLen e → r.waiting = false → r.ending = none → writesOpen s.m p = false →
    Becomes (.copyComplete p) s (retireEntryWith e
      { status := 0, outcome := ownOutcome e, count0 := copyLen e % 2 ^ 32, count1 := copyLen e / 2 ^ 32 }
      (forgetFaults (· == .entry p) s.m)))
  ∧ (∀ (s : State) (p : Nat) (e : Entry), Sound s.m p 5 e → Becomes (.abort p) s (abortPoint e s.m))
  ∧ (∀ (m : Module) (a : Entry) (q : Nat), q ∈ abortTargets m a ↔ ∃ x ∈ m.hg.pool, x.id = q ∧ x.id ≠ a.id
    ∧ x.ring = field a.bytes 8 2 % 1024 ∧ tagOf x = field a.bytes 16 4)
  ∧ (∀ (s : State) (p : Nat) (e : Entry) (r : AbortRun), entryAt s.m p = some e → e.work = .abort r →
    r.watch = none → r.targets = [] → working s.m = true →
    (r.found = true → Becomes (.abortComplete p) s (completeEntry e 0 r.before r.partly r.done s.m))
    ∧ (r.found = false → Becomes (.abortComplete p) s (completeEntry e 0x11 0 0 0 s.m)))
  ∧ (∀ (s : State) (p : Nat) (e : Entry), Sound s.m p 6 e →
    let free := bankFree s.m.gate.bank0 = true ∧ bankFree s.m.gate.bank1 = true ∧ stashBusy s.m = false
    (free → stashUnknown s.m = false → Becomes (.stashAndHazeConfiguration p) s
      (completeEntry e 0 (field e.bytes 40 2) 0 0 { s.m with haze := hazeSettings e }))
    ∧ (free → stashUnknown s.m = true → Becomes (.stashAndHazeConfiguration p) s (setEntry { e with held := true } s.m))
    ∧ (¬ free → Becomes (.stashAndHazeConfiguration p) s (completeEntry e 0x45 0 0 0 s.m)))
  ∧ (∀ (s : State) (p : Nat) (e : Entry), Sound s.m p 7 e →
    let x := field e.bytes 8 2
    (expertBusy s.m x = false → ∃ m, Becomes (.weirTableWrite p) s (completeEntry e 0 x 0 0 m)
      ∧ m = { s.m with weir := { s.m.weir with experts := m.weir.experts } }
      ∧ Sparse.find m.weir.experts x =
          some { body := (e.bytes.drop 8).take 48, round := BitVec.ofNat 16 (field e.bytes 20 2) })
    ∧ (expertBusy s.m x = true → Becomes (.weirTableWrite p) s (completeEntry e 0x45 handleWeir 0 0 s.m)))


/-! ## Authenticated critical commands -/

/-- The authenticator checks slot, counter, MAC and permission in order, and consumes the counter only from step d on
(04_authenticated_commands.md). CLASS and DCODE of the record of a failure, which no rule gives, are free values, the
model's choice (log 36). -/
def Obligations.AuthenticatorChecksInOrder : Prop :=
  (∀ (c : Instr) (s : State) (e : Entry), Decodes s c e →
    let k := authoriser s e
    let fails (n status : Nat) (a : Auth) : Prop :=
      exec c s = .next { s with auth := a, m := failDescriptor e (status, 0) (noteAuthFailure n s.m) }
    (k.active = false → fails 0 0x31 s.auth)
    ∧ (k.active = true → counterOf e ≤ k.last → fails 1 0x30 s.auth)
    ∧ (k.active = true → k.last < counterOf e → macVerifies k s.m.board.uid e = false → fails 2 0x30 s.auth)
    ∧ (k.active = true → k.last < counterOf e → macVerifies k s.m.board.uid e = true →
        permits k (opcodeOf e) = false → fails 3 0x30 (counted s e)))
  ∧ ∀ (n : Nat) (m : Module), n < 4 →
    let m' := noteAuthFailure n m
    let x := m.errors
    let r : ErrorRecord :=
      { cls := Config.freeBits 4 m.freeCount % 15, dcode := Config.freeBits 8 (m.freeCount + 1)
        unit := BitVec.ofNat 15 handleAuth, seq := x.seq, addr := 0, info := 0, time := m.time }
    let same (o : ErrorRecord) : Prop := o.cls = r.cls ∧ o.dcode = r.dcode ∧ o.unit = r.unit ∧ o.addr = r.addr
    (statOf m' .auth 0 n).count.toNat = Nat.min (2 ^ 48 - 1) ((statOf m .auth 0 n).count.toNat + 1)
    ∧ ((∀ o, newestUnread x = some o → ¬ same o) → unread x < 64 →
        m'.errors = { x with log := Sparse.set x.log (x.tail.toNat % 64) r, tail := x.tail + 1, seq := x.seq + 1 })
    ∧ (∀ o, newestUnread x = some o → same o →
        let again : ErrorRecord := if o.rep = BitVec.allOnes 16 then o else { o with rep := o.rep + 1 }
        m'.errors = { x with log := Sparse.set x.log ((x.tail - 1).toNat % 64) again })
    ∧ ((∀ o, newestUnread x = some o → ¬ same o) → 64 ≤ unread x → m'.errors = { x with lost := true })
    ∧ m' = { m with stats := m'.stats, events := m'.events, errors := m'.errors, host := m'.host,
                    freeCount := m.freeCount + 2 }

/-- A key load fills its target slot and a key retire empties it (04_authenticated_commands.md). -/
def Obligations.KeyCommandsWriteTheirSlot : Prop :=
  (∀ (s : State) (p : Nat) (e : Entry) (key : List Nat), Decodes s (.keyLoad p) e → Authentic s e →
    loadFailures (authoriser s e) e s = [] → unwrapped (authoriser s e) s.m.board.uid e = some key →
    ∃ t, exec (.keyLoad p) s = .next t ∧ t.m = completeEntry e 0 0 0 0 s.m ∧ t.pending = s.pending
      ∧ slotAt t.auth (keyTarget e) =
          { key := some (key.map (BitVec.ofNat 8)), perms := keyPerms e, last := 0, ceil := 65536 }
      ∧ ∀ i, i < 4 → i ≠ keyTarget e → slotAt t.auth i = slotAt (counted s e) i)
  ∧ (∀ (s : State) (p : Nat) (e : Entry), Decodes s (.keyRetire p) e → Authentic s e →
    retireFailures (authoriser s e) e { s with auth := counted s e } = [] →
    ∃ t, exec (.keyRetire p) s = .next t ∧ t.m = completeEntry e 0 0 0 0 s.m ∧ t.pending = s.pending
      ∧ slotAt t.auth (keyTarget e) = { key := none, perms := 0, last := 0, ceil := 0 }
      ∧ ∀ i, i < 4 → i ≠ keyTarget e → slotAt t.auth i = slotAt (counted s e) i)
  ∧ ∀ (s : State) (e : Entry) (i : Nat), i < 4 → slotAt (counted s e) i =
      if i = keySlotOf e then
        { authoriser s e with
          last := counterOf e
          ceil := if counterOf e ≥ (authoriser s e).ceil then nextCeiling (counterOf e) else (authoriser s e).ceil }
      else slotAt s.auth i

/-- Freeze and thaw set and clear exactly their layers while no vote bank is open (15_parameter_update.md). -/
def Obligations.FreezeActsOnItsLayers : Prop :=
  ∀ (s : State) (p : Nat) (e : Entry) (set : Bool),
    let c : Instr := if set then .freeze p else .thaw p
    Decodes s c e → Authentic s e → byteAt e.bytes 28 = (if set then 1 else 0) →
    let first := field e.bytes 24 2
    let n := field e.bytes 26 2
    n ≠ 0 → first + n ≤ 4096 →
    let free := s.m.gate.bank0.state ≠ .opened ∧ s.m.gate.bank1.state ≠ .opened
    let changed := ((List.range n).filter fun i => s.m.freezeTab.getLsbD (first + i) != set).length
    (free → ∃ tab, exec c s = .next { s with
          auth := counted s e
          m := completeEntry e 0 changed 0 0
            { s.m with freezeTab := tab, freezeGen := BitVec.ofNat 32 (field e.bytes 32 4) } }
        ∧ ∀ l, l < 4096 → tab.getLsbD l = if first ≤ l ∧ l < first + n then set else s.m.freezeTab.getLsbD l)
    ∧ (¬ free → exec c s = .next { s with auth := counted s e, m := failDescriptor e (0x45, handleIodW) s.m })

/-- The other critical commands start what their bodies say (16_sluiceway.md, 18_clocks_power_reset.md,
19_ras_squall.md). That the image and the table are read again once the checks have passed is the model's reading (log
36). -/
def Obligations.CriticalCommandsStart : Prop :=
  (∀ (s : State) (p : Nat) (e : Entry), Decodes s (.squallEnable p) e → Authentic s e →
    entryAt s.m e.id = some e → squallFailures e = [] → unitGated s.m handleSquall = false →
    exec (.squallEnable p) s = .next { s with
      auth := counted s e, m := completeEntry { e with squall := true } 0 0 0 0 (enableSquall e s.m) })
  ∧ (∀ (s : State) (p : Nat) (e : Entry), Decodes s (.squallDisable p) e → Authentic s e → squallFailures e = [] →
    exec (.squallDisable p) s = .next { s with
      auth := counted s e, m := completeEntry e 0 0 0 0 (disableSquall e s.m) })
  ∧ (∀ (s : State) (p : Nat) (e : Entry), Decodes s (.warmResetCommand p) e → Authentic s e →
    warmFailures (authoriser s e) e s = [] → s.m.hg.scan = false →
    ∃ t, exec (.warmResetCommand p) s = .next t ∧ t.auth = counted s e
      ∧ t.m.pendingReset.warm = s.m.pendingReset.warm ++ [(s.m.time,
          (if (byteAt e.bytes 32).testBit 0 then some (BitVec.ofNat 64 (field e.bytes 24 8)) else none),
          (byteAt e.bytes 32).testBit 1)]
      ∧ t.m = { completeEntry e 0 0 0 0 s.m with pendingReset := t.m.pendingReset })
  ∧ (∀ (s : State) (p : Nat) (e : Entry), Decodes s (.clockSourceChange p) e → Authentic s e →
    clockFailures s.m e = [] → (loopAt s.m (clkLoop e)).phase = .none → loopBusy s.m e = none →
    exec (.clockSourceChange p) s = .next { s with
      auth := counted s e
      m := beginSwitch (clkLoop e) (BitVec.ofNat 2 (clkSrc e), BitVec.ofNat 24 (clkMult e), clkDiv e) e.id
        (admitEntry e .idle s.m) })
  ∧ (∀ (s : State) (p : Nat) (e : Entry) (bs' : List Byte) (m m' : Module), Decodes s (.firmwareActivation p) e →
    Authentic s e → firmwareCheck ((authoriser s e).consume (counterOf e)) e { s with auth := counted s e } =
        some (none, { s with auth := counted s e, m := m }) →
    readLocal (fwLength e / 128) (fwImage e) m = some (some bs', m') →
    exec (.firmwareActivation p) s = .next { s with
      auth := counted s e, m := admitEntry e (.store bs' (BitVec.ofNat 32 (field e.bytes 36 4))) m' })
  ∧ (∀ (s : State) (p : Nat) (e : Entry) (bs : List Byte) (m m' : Module),
    Decodes s (.fabricTopologyAndRouteChange p) e → Authentic s e →
    topologyCheck ((authoriser s e).consume (counterOf e)) e { s with auth := counted s e } =
        some (none, { s with auth := counted s e, m := m }) →
    readLocal 16 (topTable e) m = some (some bs, m') →
    exec (.fabricTopologyAndRouteChange p) s = .next { s with
      auth := counted s e
      m := completeEntry e 0 ((List.range 4096).filter (reachable (changeTopology e bs m').fabric)).length 0 0
        (changeTopology e bs m') })
  ∧ (∀ (s : State) (e : Entry) (bank : FwBank), alive s.m = true →
    s.m.hg.pool.find? (fun x => x.storing.isSome) = some e → e.storing = some bank →
    (byteAt e.bytes 40).testBit 0 = false →
    Becomes (.firmwareStoreComplete true) s
      (completeEntry e 0 0 0 0 { s.m with board := storeImage s.m.board bank }))
  ∧ (∀ (s : State) (at_ : Word), s.m.squall.disabledAt = some at_ → 1000 ≤ (s.m.time - at_).toNat →
    ∃ m, Becomes .squallActiveEnd s m ∧ m.squall = { s.m.squall with active := false, disabledAt := none }
      ∧ m = { s.m with squall := m.squall, stats := m.stats, events := m.events })


/-! ## Headgate -/

/-- A placement gives every index its own free slot below the target (05_headgate.md). -/
def Obligations.PlacementGivesFreeSlots : Prop :=
  ∀ (m : Module) (e : Entry) (l : List Nat) (first n : Nat), widthOf e ≠ 0 → placement m e = some l →
    targetCores (placeOf e) = some (first, n) →
    l.length = widthOf e ∧ l.Nodup
    ∧ (∀ t ∈ l, (threadAt m t).run = .idle ∧ first ≤ t / 2 ∧ t / 2 < first + n
        ∧ unitGated m (handleCore (t / 2)) = false ∧ reservedAgainst m e.id t = false)
    ∧ (arraysOf e = 1 → ∀ t ∈ l, ∀ u ∈ l, t / 2 = u / 2 → t = u)
    ∧ ∀ t ∈ l, ∀ u, u ≠ t → u / 2 = t / 2 → u ∉ l → (threadAt m u).run ≠ .idle →
        (arraysOf e = 0 ∨ (threadAt m u).tile.grant = 0
          ∨ (arraysOf e = 2 ∧ (threadAt m u).tile.grant = 2))

/-- Admission starts each thread with ENTRY, ARG, its index and nothing of an earlier task (05_headgate.md). -/
def Obligations.AdmissionStartsThreads : Prop :=
  ∀ (s : State) (e : Entry) (l : List Nat), scanning s.m = true → placedTask s.m e.id = some (e, l) → invStart e = false →
    l.Nodup →
    ∃ m, Becomes (.taskAdmit e.id) s m ∧ (∀ u, u ∉ l → threadAt m u = threadAt s.m u)
      ∧ m = { s.m with threads := m.threads, cores := m.cores, hg := m.hg, stats := m.stats, events := m.events }
      ∧ ∀ i t, l[i]? = some t →
        let th := threadAt m t
        th.run = .running ∧ th.task = e.id ∧ th.index = i
        ∧ th.pc = BitVec.ofNat 48 (field e.bytes 16 8) ∧ th.priv.level = BitVec.ofNat 2 (byteAt e.bytes 12 % 2)
        ∧ th.priv.asid = asidOf e
        ∧ th.reg 1 = BitVec.ofNat 64 (field e.bytes 24 8) ∧ th.reg 2 = BitVec.ofNat 64 i
        ∧ th.reg 3 = BitVec.ofNat 64 (field e.bytes 10 2) ∧ th.reg 4 = BitVec.ofNat 64 (field e.bytes 4 4)
        ∧ th.reg 31 = BitVec.ofNat 64 (if byteAt e.bytes 14 = 0 then 0
            else field e.bytes 32 8 + (i + 1) * 2 ^ byteAt e.bytes 14)
        ∧ th.sblo = (if byteAt e.bytes 14 = 0 then 0
            else BitVec.ofNat 48 (field e.bytes 32 8 + i * 2 ^ byteAt e.bytes 14))
        ∧ th.sbhi = (if byteAt e.bytes 14 = 0 then 0
            else BitVec.ofNat 48 (field e.bytes 32 8 + (i + 1) * 2 ^ byteAt e.bytes 14))
        ∧ (∀ r, r ≠ 1 → r ≠ 2 → r ≠ 3 → r ≠ 4 → r ≠ 31 → th.reg r = 0)
        ∧ th.lstat = 0 ∧ th.rstack = [] ∧ th.loads = [] ∧ th.exc = none ∧ th.latch = none ∧ th.stop = false
        ∧ th.vec = { precise := (byteAt e.bytes 12).testBit 7, ref := (byteAt e.bytes 12).testBit 6 || s.m.gate.force }
        ∧ th.tile = { grant := BitVec.ofNat 2 (arraysOf e), lease := BitVec.ofNat 2 (arraysOf e) }

/-- A task whose threads are done retires: threads freed, output tokens set, record with OK and WIDTH (05_headgate.md,
14_training_support.md). -/
def Obligations.TaskRetiresNormally : Prop :=
  (∀ (s : State) (p : Nat) (e : Entry) (r : TaskRun), entryAt s.m p = some e → e.work = .task r → r.ending = none →
    taskDue s.m r = true → working s.m = true → gateRole e = 0 →
    ∃ m, Becomes (.taskRetire p) s m
      ∧ (∀ t ∈ r.threads, (threadAt m t).run = .idle) ∧ (∀ t, t ∉ r.threads → threadAt m t = threadAt s.m t)
      ∧ (∀ t, t < 4096 → m.hg.tokens.getLsbD t =
          (s.m.hg.tokens.getLsbD t || (validTokens (outWords e)).contains t))
      ∧ taskClosing s.m e r = { status := 0, outcome := ownOutcome e, count0 := r.threads.length
                                count2 := if r.threads = [] then 0 else (s.m.time - r.admitted).toNat }
      ∧ m = finishTask e r s.m)
  ∧ (∀ (s : State) (p : Nat) (e : Entry) (r : TaskRun), entryAt s.m p = some e → e.work = .task r → r.ending = none →
    taskDue s.m r = true → working s.m = true → opcodeOf e = 1 → gateRole e = 3 →
    castWaits s.m (taskStep e) = false →
    (fateOf (stepBank s.m (taskStep e)) (taskStep e) = .start ∨ fateOf (stepBank s.m (taskStep e)) (taskStep e) = .join) →
    let m := applyCast (taskStep e) s.m
    Becomes (.cast p) s (finishTask ((entryAt m p).getD e) r m))

/-- One Headgate cycle runs its phases in order; stall and reservation act after their waits (05_headgate.md). -/
def Obligations.HeadgateCycleOrder : Prop :=
  (∀ s : State, working s.m = true →
    let s1 := phaseRetire { s with m := beginCycle s.m }
    let s2 := { s1 with m := setScan true (phaseTokens (phaseAbort s1.m)) }
    let s3 := if s2.m.squall.skip = 0 then ((admissionOrder s2.m).map (·.id)).foldl scanOne s2 else s2
    exec .headgateCycle s = .next { s3 with m := countCycle (setScan false (phaseEnter s3.m)) })
  ∧ (∀ (s : State) (p : Nat) (e : Entry), entryAt (checkEntry s.m p) p = some e →
    let s1 := { s with m := checkEntry s.m p }
    scanOne s p = if e.stage = .waiting ∧ candidate s1.m e = true then decodeEntry (opcodeOf e) p s1 else s1)
  ∧ (∀ (m : Module) (e : Entry) (p : Nat), entryAt m p = some e → e.stage = .waiting → e.checked = false →
    opcodeOf e ≠ 4 → opcodeOf e ≠ 5 → refusedUpdate m e = false →
    (fenceOpen m e = false → checkEntry m p = m)
    ∧ (fenceOpen m e = true → descriptorCheck m e = none → checkEntry m p = setEntry { e with checked := true } m)
    ∧ (∀ f, fenceOpen m e = true → descriptorCheck m e = some f → checkEntry m p = failDescriptor e f m))
  ∧ (∀ (m : Module) (e : Entry) (o : Closing), m.hg.scan = true →
    endEntry e o m = setEntry { e with stage := .admitted, work := .ended o } m)
  ∧ (∀ (s : State) (p : Nat) (e : Entry) (o : Closing), entryAt s.m p = some e → e.work = .ended o →
    retireOne s p = { s with m := retireEntryWith e { o with outcome := if e.abortedBy = [] then 0 else 1 } s.m })
  ∧ (∀ s : State, working s.m = true → s.m.hg.stall ≠ 0 → 8192 ≤ s.m.hg.pool.length →
    1024 * s.m.hg.stall.toNat ≤ s.m.hg.stuck →
    Becomes .headgateStall s (signalRingError (count .hg 0 5 1
      { s.m with hg := { s.m.hg with stallSeen := true, stuck := 0 } })))
  ∧ (∀ (s : State) (e : Entry), working s.m = true → firstReady s.m = some e → s.m.hg.rsv = none →
    s.m.hg.reserve ≠ 0 → 16 * s.m.hg.reserve.toNat ≤ e.ready →
    Becomes .reservation s (count .hg 0 3 1 { s.m with hg := { s.m.hg with
      rsv := some { ring := e.ring, index := e.index, handle := placeOf e, entry := e.id } } }))


/-! ## Fault ring and translation invalidation -/

/-- The fault ring's registers: enable, disable, head, and the draining of records (03_host_rings.md). -/
def Obligations.FaultRingRegisters : Prop :=
  (∀ (s : State) (v : BitVec 32), v.getLsbD 31 = true →
    let f := { s.m.faults with vector := BitVec.ofNat 11 v.toNat }
    let log := BitVec.ofNat 4 (v.toNat / 2 ^ 24)
    (f.enable = true → Becomes (.frCtrlEnable v) s { s.m with faults := f })
    ∧ (f.enable = false → 4 ≤ log.toNat → log.toNat ≤ 12 → Becomes (.frCtrlEnable v) s { s.m with
        faults := { f with log := log, enable := true, head := 0, tail := 0, seq := 0 } })
    ∧ (f.enable = false → (log.toNat < 4 ∨ 12 < log.toNat) →
        Becomes (.frCtrlEnable v) s { s.m with faults := { f with log := log } }))
  ∧ (∀ (s : State) (v : BitVec 32), v.getLsbD 31 = false → s.m.faults.enable = true →
    Becomes (.frCtrlDisable v) s (s.m.faults.suspended.foldl (fun m x => killSuspension x m)
      { s.m with faults := { s.m.faults with vector := BitVec.ofNat 11 v.toNat, enable := false, suspended := [] } }))
  ∧ (∀ (s : State) (v : BitVec 32),
    let f := s.m.faults
    let n := 2 ^ f.log.toNat
    let past (p : Nat) : Nat := (p + 2 * n - f.head.toNat % (2 * n)) % (2 * n)
    let h := v.toNat % 2 ^ 13
    let ok := h < 2 * n ∧ past h ≤ past f.tail.toNat
    (ok → Becomes (.frPtrHeadWrite v) s { s.m with faults := { f with head := BitVec.ofNat 13 h } })
    ∧ (¬ ok → Becomes (.frPtrHeadWrite v) s { s.m with faults := { f with badHead := true } }))
  ∧ (∀ (s : State) (x : Suspension), s.m.faults.suspended.find? (fun y => !y.written) = some x →
    s.m.faults.enable = true → faultRingFull s.m.faults = false → x.record.length = 63 →
    let f := s.m.faults
    let n := f.log.toNat
    ∃ m, Becomes .faultRecordDrain s (signal f.vector m)
      ∧ m.faults.tail = BitVec.ofNat 13 ((f.tail.toNat + 1) % 2 ^ (n + 1)) ∧ m.faults.seq = f.seq
      ∧ getHost m (f.base.toNat + 64 * (f.tail.toNat % 2 ^ n)) 64 =
          x.record ++ [if f.tail.toNat.testBit n then 0 else 1]
      ∧ m = { s.m with host := m.host, faults := m.faults })

/-- An answer to a fault resumes or kills what the SEQ names, and BADRESUME marks one that names nothing
(03_host_rings.md). -/
def Obligations.FaultAnswersResumeOrKill : Prop :=
  (∀ (s : State) (seq : BitVec 32) (x : Suspension) (t : Nat), suspendedAt s.m seq = some x → x.owner = .thread t →
    (∀ y ∈ s.m.faults.suspended, y.seq = seq → y = x) → x.written = true → s.m.fabric.failed = [] →
    (∃ m, Becomes (.frResume seq) s m ∧ threadAt m t = { threadAt s.m t with run := .running }
      ∧ (∀ u, u ≠ t → threadAt m u = threadAt s.m u) ∧ suspendedAt m seq = none
      ∧ m = { s.m with threads := m.threads, faults := { s.m.faults with suspended := m.faults.suspended } })
    ∧ ∃ m, Becomes (.frKill seq) s (endTask (threadAt s.m t).task { status := 0x12, count0 := seq.toNat, count1 := 1 } m)
      ∧ suspendedAt m seq = none
      ∧ m = { s.m with faults := { s.m.faults with suspended := m.faults.suspended } })
  ∧ ∀ (s : State) (seq : BitVec 32), suspendedAt s.m seq = none →
    Becomes (.frResume seq) s { s.m with faults := { s.m.faults with badResume := true } }
    ∧ Becomes (.frKill seq) s { s.m with faults := { s.m.faults with badResume := true } }

/-- An invalidation leaves no cached translation of its scope and keeps every other (11_memory_caches.md). -/
def Obligations.InvalidationEmptiesItsScope : Prop :=
  let filtered (x : InvScope) (m : Module) (busy : Option InvScope) : Module :=
    { m with
      host := { m.host with inv := busy }
      cores := m.cores.map fun c => (c.1, { c.2 with tlb := c.2.tlb.filter fun e => !x.names e })
      tlbs := m.tlbs.map fun u => (u.1, u.2.filter fun e => !x.names e)
      walks := m.walks.map fun u => (u.1, u.2.filter fun e => !x.namesWalk e) }
  let ignored (m : Module) : Module := { m with host := { m.host with invIgn := true } }
  (∀ (s : State) (a : BitVec 6) (v : BitVec 36), s.m.host.inv = none →
    Becomes (.mmuInvPage a v) s (filtered (.page a v) s.m (some (.page a v)))
    ∧ Becomes (.mmuInvAsid a) s (filtered (.asid a) s.m (some (.asid a)))
    ∧ Becomes .mmuInvAll s (filtered .all s.m (some .all)))
  ∧ (∀ (s : State) (x : InvScope) (a : BitVec 6) (v : BitVec 36) (w : Word), s.m.host.inv = some x →
    Becomes (.mmuInvPage a v) s (ignored s.m) ∧ Becomes (.mmuInvAsid a) s (ignored s.m)
    ∧ Becomes .mmuInvAll s (ignored s.m) ∧ Becomes (.mmuInvIgnored w) s (ignored s.m))
  ∧ (∀ (s : State) (w : Word), w.toNat / 2 ^ 26 % 4 = 3 → Becomes (.mmuInvIgnored w) s (ignored s.m))
  ∧ (∀ (s : State) (x : InvScope) (m₁ : Module), s.m.host.inv = some x →
    ((s.m.cores.map (·.1)).forM (cleanScope x)).go s.m = (.ok (), m₁) →
    (∀ p ∈ m₁.threads, x.covers p.2.priv.asid = true → accessesReached m₁ p.1 p.2 = true) →
    (∀ g ∈ m₁.fabric.tags, ∀ a, g.who.asid m₁ = some a → x.covers a = true → g.quarantined = true) →
    (∀ e ∈ m₁.hg.pool, e.holdsPages = true → x.covers (asidOf e) = false) →
    (∀ b ∈ m₁.weir.batches, b.pages ≠ [] → x.covers b.asid = false) →
    Becomes .mmuInvComplete s (filtered x m₁ none))
  ∧ (∀ (s : State) (x : InvScope) (m₁ : Module), ((s.m.cores.map (·.1)).forM (cleanScope x)).go s.m = (.ok (), m₁) →
    ((∀ k ∈ s.m.cores, ∀ l ∈ k.2.l1d, l.mask ≠ 0 → ∀ a ∈ l.asids, x.covers a = false) → m₁ = s.m)
    ∧ ∀ c, (∃ k ∈ s.m.cores, k.1 = c) → ∀ l ∈ (coreAt m₁ c).l1d, keyNode l.line = none → l.mask ≠ 0 → ∀ a ∈ l.asids, x.covers a = false)
  ∧ (∀ (x : InvScope) (e : TlbEntry), x.names e = true ↔ (match x with
      | .all => True
      | .asid a => e.asid = a
      | .page a v => e.asid = a ∧ e.va / 2 ^ Nat.max e.log 16 = v.toNat * 4096 / 2 ^ Nat.max e.log 16))
  ∧ (∀ (x : InvScope) (e : WalkEntry), x.namesWalk e = true ↔ (match x with
      | .all => True
      | .asid a => e.asid = a
      | .page a v => e.asid = a ∧ e.va / 2 ^ e.log = v.toNat * 4096 / 2 ^ e.log))
  ∧ ∀ (s : State) (pasid : Option (BitVec 20)) (addr : Word) (size : Nat),
    ∃ l, Becomes (.atsInvalidation pasid addr size) s { s.m with host := { s.m.host with ats := l } }
      ∧ ∀ e, e ∈ l ↔ e ∈ s.m.host.ats ∧ ¬ (e.pasid = pasid ∧ 4096 * e.page < addr.toNat + size
          ∧ addr.toNat < 4096 * e.page + 4096)


/-! ## Scalar instructions -/

/-- Every integer instruction writes the result the manual gives it and nothing else of its thread (06_scalar_isa.md). -/
def Obligations.IntegerInstructionsWriteTheirResult : Prop :=
  ∀ (i : Instr) (x : IntegerForm) (s : State), integerForm i = some x → IntegerReady s.m x →
    let th := threadAt s.m x.thread
    ∃ m, Becomes i s m ∧ OnlyThread x.thread s.m m
      ∧ WritesRegister x.rd (x.value (sourceValue th)) th (threadAt m x.thread)
      ∧ KeepsSpecial th (threadAt m x.thread) ∧ (threadAt m x.thread).latch = none
      ∧ (threadAt m x.thread).loads = th.loads.map fun l =>
          if l.rd = x.rd ∧ x.rd ≠ 0 ∧ l.atomic = false then { l with dead := true } else l

/-- Integer arithmetic never raises an exception, and its corners have the stated results (R104). -/
def Obligations.IntegerArithmeticNeverTraps : Prop :=
  (∀ (i : Instr) (x : IntegerForm) (s : State), integerForm i = some x → IntegerReady s.m x →
    ∃ m, Becomes i s m ∧ (threadAt m x.thread).exc = none)
  ∧ ∀ (t : Nat) (rd a b : Reg) (s : State), IntegerReady s.m ⟨t, rd, [a, b], fun _ => 0⟩ → rd ≠ 0 →
    let u := sourceValue (threadAt s.m t) a
    let v := sourceValue (threadAt s.m t) b
    let gives (i : Instr) (r : Word) : Prop := ∃ m, Becomes i s m ∧ (threadAt m t).reg rd = r
    (v = 0 → gives (.divS t rd a b) (BitVec.allOnes 64) ∧ gives (.divu t rd a b) (BitVec.allOnes 64)
      ∧ gives (.rem t rd a b) u ∧ gives (.remu t rd a b) u)
    ∧ (u.toInt = -2 ^ 63 → v.toInt = -1 → gives (.divS t rd a b) u ∧ gives (.rem t rd a b) 0)
    ∧ gives (.add t rd a b) (BitVec.ofNat 64 (u.toNat + v.toNat))
    ∧ gives (.sub t rd a b) (BitVec.ofInt 64 ((u.toNat : Int) - v.toNat))
    ∧ gives (.mul t rd a b) (BitVec.ofNat 64 (u.toNat * v.toNat))

/-- An instruction that retires in order goes on at the next word or loops back by the end check (06_scalar_isa.md). -/
def Obligations.EndCheckLoopsBack : Prop :=
  ∀ (i : Instr) (x : IntegerForm) (s : State) (n : Nat), integerForm i = some x → IntegerReady s.m x →
    let th := threadAt s.m x.thread
    let innermost := n < 4 ∧ th.lstat.getLsbD n = true ∧ ∀ k, n < k → k < 4 → th.lstat.getLsbD k = false
    let le : BitVec 48 := Sparse.get 0 th.le n
    let ls : BitVec 48 := Sparse.get 0 th.ls n
    let lc : BitVec 32 := Sparse.get 0 th.lc n
    ∃ m, Becomes i s m ∧
      let th' := threadAt m x.thread
      (th.lstat = 0 → th'.pc = th.pc + 4 ∧ th'.lstat = 0 ∧ th'.lc = th.lc)
      ∧ (innermost → le ≠ th.pc → th'.pc = th.pc + 4 ∧ th'.lstat = th.lstat ∧ th'.lc = th.lc)
      ∧ (innermost → le = th.pc → lc ≠ 1 → th'.pc = ls ∧ th'.lstat = th.lstat
          ∧ (Sparse.get 0 th'.lc n : BitVec 32) = lc - 1)
      ∧ (innermost → le = th.pc → lc = 1 → (∀ k, k < n → th.lstat.getLsbD k = false) →
          th'.pc = th.pc + 4 ∧ th'.lstat = 0 ∧ (Sparse.get 0 th'.lc n : BitVec 32) = 0)
      ∧ th'.ls = th.ls ∧ th'.le = th.le

/-- BR and BRI go to PC + 4 sext(off13) exactly when their condition holds (R109). -/
def Obligations.BranchesFollowTheirCondition : Prop :=
  ∀ (s : State) (t : Nat) (rs1 rs2 : Reg) (imm : BitVec 5) (cond : BitVec 3) (off : BitVec 13) (bri : Bool),
    let th := threadAt s.m t
    let i : Instr := if bri then .branchI t rs1 imm cond off else .branch t rs1 rs2 cond off
    let a := sourceValue th rs1
    let b := if bri then imm.signExtend 64 else sourceValue th rs2
    let holds : Prop := match cond.toNat with
      | 0 => a = b
      | 1 => a ≠ b
      | 2 => a.toInt < b.toInt
      | 3 => b.toInt ≤ a.toInt
      | 4 => a.toNat < b.toNat
      | _ => b.toNat ≤ a.toNat
    issuable s.m t = true → SourcesReady th (if bri then [rs1] else [rs1, rs2]) →
    (6 ≤ cond.toNat → ∃ m, Becomes i s m ∧ Raises t 0x01 (BitVec.ofNat 64 (firstWord i)) s.m m)
    ∧ (cond.toNat < 6 → ∃ m, Becomes i s m ∧ OnlyThread t s.m m ∧ KeepsSpecial th (threadAt m t)
        ∧ (threadAt m t).g = th.g ∧ (threadAt m t).loads = th.loads
        ∧ (holds → (threadAt m t).pc = BitVec.ofInt 48 (th.pc.toNat + 4 * off.toInt))
        ∧ (¬ holds → NoLoop th → (threadAt m t).pc = th.pc + 4))

/-- Jumps, calls and returns go to their target and keep the return stack (06_scalar_isa.md). -/
def Obligations.TransfersReachTheirTarget : Prop :=
  ∀ (s : State) (t : Nat) (rs : Reg) (off : BitVec 26), issuable s.m t = true →
    let th := threadAt s.m t
    let target := BitVec.ofInt 48 (th.pc.toNat + 4 * off.toInt)
    let a := sourceValue th rs
    let good := a.toNat % 4 = 0 ∧ a.toNat < 2 ^ 48 ∧ (th.priv.level = 2 → (locateMachine s.m .read a.toNat).isSome = true)
    let room := th.rstack.length < 4096 ∧ (th.cached < 16 ∨ th.spills < 4)
    let goes (i : Instr) (pc : BitVec 48) (stack : List (BitVec 48)) : Prop :=
      ∃ m, Becomes i s m ∧ OnlyThread t s.m m ∧ (threadAt m t).pc = pc ∧ (threadAt m t).rstack = stack
        ∧ (threadAt m t).g = th.g ∧ (threadAt m t).priv = th.priv ∧ (threadAt m t).lstat = th.lstat
        ∧ (threadAt m t).run = .running
    let raises (i : Instr) (cause : Nat) (fval : Word) : Prop := ∃ m, Becomes i s m ∧ Raises t cause fval s.m m
    goes (.jump t off) target th.rstack
    ∧ (room → goes (.call t off) target ((th.pc + 4) :: th.rstack))
    ∧ (4096 ≤ th.rstack.length → raises (.call t off) 0x07 0)
    ∧ ((th.src rs).isSome = true →
        (good → goes (.jr t rs) (a.setWidth 48) th.rstack)
        ∧ (good → room → goes (.callr t rs) (a.setWidth 48) ((th.pc + 4) :: th.rstack))
        ∧ (good → 4096 ≤ th.rstack.length → raises (.callr t rs) 0x07 0)
        ∧ (a.toNat % 4 ≠ 0 → raises (.jr t rs) 0x04 a ∧ raises (.callr t rs) 0x04 a)
        ∧ (a.toNat % 4 = 0 → 2 ^ 48 ≤ a.toNat → raises (.jr t rs) 0x05 a ∧ raises (.callr t rs) 0x05 a))
    ∧ (th.rstack = [] → raises (.ret t) 0x08 0)
    ∧ (∀ top rest, th.rstack = top :: rest → 0 < th.cached → goes (.ret t) top rest)
    ∧ (th.rstack ≠ [] → th.cached = 0 → ∃ m, Becomes (.ret t) s m ∧ OnlyThread t s.m m
        ∧ threadAt m t = { th with run := .filling })

/-- LOOP and LOOPI set up their loop or skip its body, and LCLR ends it (R118). That the instruction's own end check
sees the loop registers it has written is the model's choice (log 67). -/
def Obligations.LoopInstructionsSetUpLoops : Prop :=
  ∀ (s : State) (t : Nat) (n : BitVec 2) (rs : Reg) (count len : BitVec 12) (imm : Bool), issuable s.m t = true →
    let th := threadAt s.m t
    let i : Instr := if imm then .loopi t n count len else .loopR t n rs len
    let c : BitVec 32 := if imm then count.setWidth 32 else (sourceValue th rs).setWidth 32
    let after (i : Instr) (x : Thread) : Prop := Becomes i s (retire t 1 (setThread t x s.m))
    ((imm = true ∨ (th.src rs).isSome = true) →
      (len = 0 → ∃ m, Becomes i s m ∧ Raises t 0x01 (BitVec.ofNat 64 (firstWord i)) s.m m)
      ∧ (len ≠ 0 → c = 0 → ∃ m, Becomes i s m ∧ OnlyThread t s.m m
          ∧ threadAt m t = { th with pc := BitVec.ofNat 48 (th.pc.toNat + 4 + 4 * len.toNat), latch := none })
      ∧ (len ≠ 0 → c ≠ 0 → after i { th with
          ls := Sparse.set th.ls n.toNat (th.pc + 4)
          le := Sparse.set th.le n.toNat (BitVec.ofNat 48 (th.pc.toNat + 4 * len.toNat))
          lc := Sparse.set th.lc n.toNat c, lstat := th.lstat ||| (1#4 <<< n.toNat) }))
    ∧ after (.lclr t n) { th with lstat := th.lstat &&& ~~~(1#4 <<< n.toNat) }
    ∧ ∀ x : Thread, x.lstat = 0 → OnlyThread t s.m (retire t 1 (setThread t x s.m))
        ∧ threadAt (retire t 1 (setThread t x s.m)) t = { x with pc := x.pc + 4, latch := none }


/-! ## Loads, stores and the data that comes back -/

/-- A load whose line its L1 holds takes the line's bytes, and its destination is written later (06_scalar_isa.md,
11_memory_caches.md). That loads and prefetches in flight no longer place a dropped line (log 25), and what is kept
behind the load for a data error and g0's shadow (logs 20, 62), are the model's reading. -/
def Obligations.LoadsReadTheirLine : Prop :=
  ∀ (s : State) (t : Nat) (o : MemOp) (signed : Bool) (a : Word) (up : Option Word),
    let th := threadAt s.m t
    let i : Instr := if signed then .loadS t o else .load t o
    issuable s.m t = true → o.wellFormed = true → loadForm o = true → (signed = true → o.size ≠ 3) →
    memAddress o th = some (a, up) → (o.updates = true → th.writable o.rb = true) →
    let raises (cause : Nat) : Prop := ∃ m, Becomes i s m ∧ Raises t cause a s.m m
    let aligned := a.toNat % o.bytes = 0
    (¬ aligned → raises 0x03)
    ∧ (aligned → 2 ^ 48 ≤ a.toNat → raises 0x05)
    ∧ (aligned → a.toNat < 2 ^ 48 → th.priv.level ≠ 2 → o.rb = 31 →
        (a.toNat < th.sblo.toNat ∨ th.sbhi.toNat < a.toNat + o.bytes) → raises 0x06)
    ∧ ∀ (x : Nat) (l : L1Line),
      addressFault s.m th .read (o.rb == 31) a o.bytes = none → th.unnamed o.rd = true →
      (resolve (threadAgent s.m t) .read a.toNat).go s.m = (.ok (.mem x), s.m) → tileOwns th (.mem x) o.bytes = false →
      l1Find (coreAt s.m (t / 2)) (lineOf x) = some l → touchesPoison l.poison (x % 128) o.bytes = false →
      ∃ m v, Becomes i s m
        ∧ (∀ k, k < 64 → v.getLsbD k =
            if k < 8 * o.bytes then (byteAt l.data (x % 128 + k / 8)).testBit (k % 8)
            else signed && (byteAt l.data (x % 128 + o.bytes - 1)).testBit 7)
        ∧ { rd := o.rd, data := some v, pc := th.pc, addr := a.toNat, latch := th.latch, loops := th.loops
            undo := if o.updates then some (o.rb, th.reg o.rb, th.outstanding o.rb) else none } ∈ (threadAt m t).loads
        ∧ (threadAt m t).latch = some (o.rd, th.reg o.rd)
        ∧ (∀ r, (threadAt m t).reg r = if o.updates = true ∧ r = o.rb ∧ r ≠ 0 then up.getD 0 else th.reg r)
        ∧ KeepsSpecial th (threadAt m t)
        ∧ (∀ u, u ≠ t → threadAt m u =
            if o.hint = 3 ∧ u / 2 = t / 2 then (threadAt s.m u).barFills (· == lineOf x) else threadAt s.m u)
        ∧ (∀ c, c ≠ t / 2 → coreAt m c = coreAt s.m c)
        ∧ (∀ key, (l1Find (coreAt m (t / 2)) key).map (fun y => (y.data, y.mask)) =
            if o.hint = 3 ∧ key = lineOf x then none
            else (l1Find (coreAt s.m (t / 2)) key).map (fun y => (y.data, y.mask)))
        ∧ KeepsRequests (if o.hint = 3 then some (t / 2, lineOf x) else none) s.m m
        ∧ m = { s.m with
            threads := m.threads, cores := m.cores, fabric := m.fabric, stats := m.stats, events := m.events }

/-- A store whose line its L1 holds writes exactly its bytes of that line (06_scalar_isa.md, 11_memory_caches.md).
That loads and prefetches in flight no longer place the line is the model's reading (log 25). -/
def Obligations.StoresWriteTheirLine : Prop :=
  ∀ (s : State) (t : Nat) (o : MemOp) (a : Word) (up : Option Word),
    let th := threadAt s.m t
    issuable s.m t = true → o.wellFormed = true → memAddress o th = some (a, up) →
    (o.updates = true → th.writable o.rb = true) →
    let raises (cause : Nat) : Prop := ∃ m, Becomes (.store t o) s m ∧ Raises t cause a s.m m
    let aligned := a.toNat % o.bytes = 0
    (¬ aligned → raises 0x03)
    ∧ (aligned → 2 ^ 48 ≤ a.toNat → raises 0x05)
    ∧ (aligned → a.toNat < 2 ^ 48 → th.priv.level ≠ 2 → o.rb = 31 →
        (a.toNat < th.sblo.toNat ∨ th.sbhi.toNat < a.toNat + o.bytes) → raises 0x06)
    ∧ ∀ (x : Nat) (l : L1Line),
      addressFault s.m th .write (o.rb == 31) a o.bytes = none → (th.src o.rd).isSome = true →
      (resolve (threadAgent s.m t) .write a.toNat).go s.m = (.ok (.mem x), s.m) → tileOwns th (.mem x) o.bytes = false →
      l1Find (coreAt s.m (t / 2)) (lineOf x) = some l →
      let stored (k : Nat) : Prop := x % 128 ≤ k ∧ k < x % 128 + o.bytes
      ∃ m l', Becomes (.store t o) s m ∧ l1Find (coreAt m (t / 2)) (lineOf x) = some l'
        ∧ (∀ k, k < 128 → byteAt l'.data k = if stored k then
            (sourceValue th o.rd).toNat / 256 ^ (k - x % 128) % 256 else byteAt l.data k)
        ∧ (∀ k, k < 128 → (l'.mask.getLsbD k = true ↔ stored k ∨ l.mask.getLsbD k = true))
        ∧ (∀ key, key ≠ lineOf x → l1Find (coreAt m (t / 2)) key = l1Find (coreAt s.m (t / 2)) key)
        ∧ (∀ c, c ≠ t / 2 → coreAt m c = coreAt s.m c)
        ∧ (∀ r, (threadAt m t).reg r = if o.updates = true ∧ r = o.rb ∧ r ≠ 0 then up.getD 0 else th.reg r)
        ∧ KeepsSpecial th (threadAt m t)
        ∧ (∀ u, u ≠ t → threadAt m u =
            if u / 2 = t / 2 then (threadAt s.m u).barFills (· == lineOf x) else threadAt s.m u)
        ∧ KeepsRequests (some (t / 2, lineOf x)) s.m m
        ∧ m = { s.m with
            threads := m.threads, cores := m.cores, fabric := m.fabric, stats := m.stats, events := m.events }

/-- The data of a load or atomic reaches its register unless a later instruction wrote that register
(06_scalar_isa.md, 11_memory_caches.md). What becomes of the data of discarded and squashed loads, the return stack's
way through the home slice and the size of a fill are the model's reading (log 20). -/
def Obligations.DataReachesItsRegister : Prop :=
  (∀ (s : State) (t : Nat) (rd : Reg) (atomic : Bool) (p : PendingLoad) (v : Word),
    let th := threadAt s.m t
    let i : Instr := if atomic then .atomicResult t rd else .loadDataReturn t rd
    th.loads.find? (fun q => q.rd == rd && q.atomic == atomic) = some p → p.data = some v → p.fill = none →
    Becomes i s (setThread t (let x := { th with loads := th.loads.filter fun q => q.rd != rd }
      if p.squashed then x else if p.dead then x.forward rd v else x.putReg rd v) s.m))
  ∧ (∀ (s : State) (t n : Nat) (top : BitVec 48) (rest : List (BitVec 48)) (m₁ : Module),
    let th := threadAt s.m t
    alive s.m = true → th.run = .filling → th.spills = 0 → n = Nat.min 8 th.rstack.length →
    (readReturns t (th.rstack.length - n) n).go s.m = (.ok (top :: rest), m₁) → threadAt m₁ t = th →
    ∃ m, Becomes (.returnStackFill t) s m ∧ OnlyThread t m₁ m
      ∧ threadAt m t = { th with run := .running, pc := top, latch := none, rstack := rest ++ th.rstack.drop n,
                                 cached := n - 1 })
  ∧ ∀ (s : State) (t : Nat) (m₁ : Module),
    let th := threadAt s.m t
    let k := th.rstack.length - th.cached - th.spills
    let slot := 0x63FC000000 + 0x8000 * t + 8 * k
    0 < th.spills →
    llcWrite (lineOf slot) (slot % 128) (bytesOf 8 (th.rstack.reverse.getD k 0).toNat) (fun _ => true) 0 s.m = some m₁ →
    Becomes (.returnStackSpillComplete t) s (setThread t { threadAt m₁ t with spills := th.spills - 1 } m₁)

/-! ## The system group and the system registers -/

/-- MFSR reads the registers its level may read, and denies the others (06_scalar_isa.md,
07_privilege_traps_events.md). -/
def Obligations.SystemRegistersRead : Prop :=
  ∀ (s : State) (t : Nat) (g : Reg), issuable s.m t = true → (threadAt s.m t).writable g = true →
    let th := threadAt s.m t
    let reads (n : Nat) (v : Word) : Prop := ∃ m, Becomes (.mfsr t g (BitVec.ofNat 12 n)) s m ∧ OnlyThread t s.m m
      ∧ WritesRegister g v th (threadAt m t) ∧ KeepsSpecial th (threadAt m t)
    let raises (cause n : Nat) : Prop := ∃ m, Becomes (.mfsr t g (BitVec.ofNat 12 n)) s m
      ∧ Raises t cause (BitVec.ofNat 64 (firstWord (.mfsr t g (BitVec.ofNat 12 n)))) s.m m
    (∀ k, k < 4 → reads k ((Sparse.get 0 th.ls k : BitVec 48).setWidth 64)
      ∧ reads (4 + k) ((Sparse.get 0 th.le k : BitVec 48).setWidth 64)
      ∧ reads (8 + k) ((Sparse.get 0 th.lc k : BitVec 32).setWidth 64))
    ∧ reads 0x00C (th.lstat.setWidth 64) ∧ reads 0x010 (BitVec.ofNat 64 th.rstack.length)
    ∧ reads 0x011 (th.sblo.setWidth 64) ∧ reads 0x012 (th.sbhi.setWidth 64) ∧ reads 0x020 s.m.time
    ∧ reads 0x030 (th.vec.count.setWidth 64)
    ∧ (∃ v, reads 0x100 v ∧ bitsOf v 33 32 = th.priv.level.toNat ∧ bitsOf v 25 24 = t / 96
        ∧ bitsOf v 23 20 = t % 96 / 8 ∧ bitsOf v 16 9 = t / 2 ∧ bitsOf v 8 0 = t)
    ∧ (1 ≤ th.priv.level.toNat → reads 0x101 th.priv.talarm ∧ reads 0x110 th.priv.su.state
        ∧ reads 0x111 (th.priv.su.rpc.setWidth 64) ∧ reads 0x112 th.priv.su.why ∧ reads 0x113 th.priv.su.fval
        ∧ reads 0x114 (th.priv.su.shreg.setWidth 64) ∧ reads 0x115 th.priv.su.shval
        ∧ reads 0x116 (th.priv.su.hbase.setWidth 64) ∧ reads 0x117 th.priv.su.spare
        ∧ reads 0x118 (th.priv.nicount.setWidth 64))
    ∧ (th.priv.level = 2 → reads 0x120 th.priv.ma.state ∧ reads 0x126 (th.priv.ma.hbase.setWidth 64)
        ∧ reads 0x130 th.priv.es.state ∧ reads 0x136 (th.priv.es.hbase.setWidth 64)
        ∧ reads 0x138 th.priv.esG31 ∧ reads 0x140 (th.priv.nilimit.setWidth 64))
    ∧ (th.priv.level = 0 → ∀ n, (n = 0x101 ∨ 0x110 ≤ n ∧ n ≤ 0x118) → raises 0x02 n)
    ∧ (th.priv.level.toNat < 2 →
        ∀ n, (0x120 ≤ n ∧ n ≤ 0x127 ∨ 0x130 ≤ n ∧ n ≤ 0x138 ∨ n = 0x140) → raises 0x02 n)
    ∧ ∀ n, (0x00D ≤ n ∧ n ≤ 0x00F ∨ 0x013 ≤ n ∧ n ≤ 0x01F ∨ 0x021 ≤ n ∧ n ≤ 0x02F ∨ 0x034 ≤ n ∧ n ≤ 0x03F
        ∨ 0x045 ≤ n ∧ n ≤ 0x04F ∨ 0x053 ≤ n ∧ n ≤ 0x05F ∨ 0x070 ≤ n ∧ n ≤ 0x0FF ∨ 0x102 ≤ n ∧ n ≤ 0x10F
        ∨ 0x119 ≤ n ∧ n ≤ 0x11F ∨ 0x128 ≤ n ∧ n ≤ 0x12F ∨ 0x139 ≤ n ∧ n ≤ 0x13F ∨ 0x141 ≤ n ∧ n < 4096) → raises 0x01 n

/-- MTSR writes the register its level may write, once every earlier instruction has completed (06_scalar_isa.md,
07_privilege_traps_events.md, 08_vector.md, 09_tiles_arrays.md). That a user-level write of a register it may only
read is a write without the right (log 21), and that the instruction's own end check sees the loop registers written
(log 67), are the model's choices. -/
def Obligations.SystemRegistersWrite : Prop :=
  ∀ (s : State) (t : Nat) (g : Reg) (v : Word), SerialIssue s.m t → (threadAt s.m t).src g = some v →
    let th := threadAt s.m t
    let i (n : Nat) : Instr := .mtsr t g (BitVec.ofNat 12 n)
    let after (i : Instr) (x : Thread) : Prop := Becomes i s (retire t 1 (setThread t x s.m))
    let raises (i : Instr) (cause : Nat) : Prop :=
      ∃ m, Becomes i s m ∧ Raises t cause (BitVec.ofNat 64 (firstWord i)) s.m m
    let address : BitVec 48 := v.setWidth 48 &&& 0xFFFFFFFFFFFC
    (∀ k, k < 4 → after (i k) { th with ls := Sparse.set th.ls k address }
      ∧ after (i (4 + k)) { th with le := Sparse.set th.le k address }
      ∧ after (i (8 + k)) { th with lc := Sparse.set th.lc k (v.setWidth 32) })
    ∧ after (i 0x00C) { th with lstat := v.setWidth 4 }
    ∧ (∀ n, (n = 0x010 ∨ n = 0x020 ∨ n = 0x030 ∨ n = 0x100) → Becomes (i n) s (retire t 1 s.m))
    ∧ (1 ≤ th.priv.level.toNat →
        after (i 0x011) { th with sblo := v.setWidth 48 }
        ∧ after (i 0x101) { th with priv := { th.priv with talarm := v } }
        ∧ ∃ p m, Becomes (i 0x110) s (retire t 1 m) ∧ CountsOnly (setThread t { th with priv := p } s.m) m
          ∧ (v.getLsbD 2 = false ∨ th.ni = true ∨ th.priv.nilimit ≠ 0 → m = setThread t { th with priv := p } s.m)
          ∧ p = { th.priv with su := { th.priv.su with state := p.su.state }, nicount := p.nicount }
          ∧ bitsOf p.su.state 11 8 = bitsOf v 11 8 ∧ bitsOf p.su.state 5 4 = bitsOf v 5 4
          ∧ p.su.state.getLsbD 1 = v.getLsbD 1 ∧ p.su.state.getLsbD 0 = v.getLsbD 0
          ∧ p.su.state.getLsbD 3 = (th.priv.su.state.getLsbD 3 && !v.getLsbD 3
              || v.getLsbD 2 && !th.ni && th.priv.nilimit == 0)
          ∧ p.su.state.getLsbD 2 = (v.getLsbD 2 && (th.ni || th.priv.nilimit != 0))
          ∧ p.nicount = if v.getLsbD 2 = true ∧ th.ni = false then th.priv.nilimit else th.priv.nicount)
    ∧ (th.priv.level = 0 → ∀ n, (n = 0x011 ∨ n = 0x101 ∨ 0x110 ≤ n ∧ n ≤ 0x117) → raises (i n) 0x02)
    ∧ (th.priv.level = 2 →
        after (i 0x140) { th with priv := { th.priv with nilimit := BitVec.ofNat 13 (Nat.min 4096 v.toNat) } }
        ∧ after (i 0x136) { th with priv := { th.priv with es := { th.priv.es with
            hbase := if th.priv.esLocked then th.priv.es.hbase else v.setWidth 48 &&& 0xFFFFFFFFF000 } } })
    ∧ (th.priv.level.toNat < 2 → raises (i 0x140) 0x02)
    ∧ (bitsOf v 1 0 = 3 → raises (i 0x040) 0x01)
    ∧ (let allowed := bitsOf v 1 0 = 0 ∨ bitsOf v 1 0 = 2 ∧ (th.tile.grant = 1 ∨ th.tile.grant = 2)
          ∨ bitsOf v 1 0 = 1 ∧ th.tile.grant = 1
       (allowed → after (.leaseWrite t g) { th with tile := { th.tile with lease := v.setWidth 2 } })
       ∧ (¬ allowed → raises (.leaseWrite t g) 0x01))
    ∧ (1 ≤ th.priv.level.toNat → v.getLsbD 31 = true →
        after (.vfstatClr t g) { th with vec := { th.vec with log := [], lost := 0, lpend := false } })
    ∧ (th.priv.level = 0 → raises (.vfstatClr t g) 0x02)

/-- TRAP, RFX, WAIT, SYNC and END act once every earlier instruction of the thread has completed (06_scalar_isa.md,
07_privilege_traps_events.md, 05_headgate.md). -/
def Obligations.SystemInstructionsAct : Prop :=
  ∀ (s : State) (t : Nat) (num : BitVec 12), SerialIssue s.m t →
    let th := threadAt s.m t
    let next : Thread := { th with pc := th.pc + 4, latch := none }
    (NoLoop th → NothingToReport th false → ∃ m, Becomes (.sync t) s m ∧ OnlyThread t s.m m ∧ threadAt m t = next)
    ∧ (NoLoop th → ∃ m, Becomes (.wait t) s m ∧ OnlyThread t s.m m ∧ threadAt m t = { next with
        run := if eventLine m (t / 2) = true ∨ (th.priv.su.state.getLsbD 1 = true ∧ th.priv.talarm.toNat ≤ s.m.time.toNat)
            ∨ th.stop = true then .running else .waiting })
    ∧ (∃ m, Becomes (.trap t num) s m ∧ OnlyThread t s.m m ∧ threadAt m t = { next with
        exc := some { cause := 0x0A, info := num.setWidth 16, rpc := th.pc + 4,
                      target := if th.priv.level = 0 then 1 else 2 } })
    ∧ (let es := th.priv.level = 2 ∧ th.priv.es.state.getLsbD 63 = true
       let set := if es then th.priv.es else if th.priv.level = 2 then th.priv.ma else th.priv.su
       let ppl := bitsOf set.state 5 4
       let refused := ppl = 3 ∨ (th.priv.level = 1 ∧ ppl = 2)
       (th.priv.level = 0 → ∃ m, Becomes (.rfx t) s m ∧ Raises t 0x02 (BitVec.ofNat 64 (firstWord (.rfx t))) s.m m)
       ∧ (th.priv.level ≠ 0 → refused → ∃ m, Becomes (.rfx t) s m ∧ Raises t 0x09 (BitVec.ofNat 64 ppl) s.m m)
       ∧ (th.priv.level ≠ 0 → ¬ refused → ∃ m, Becomes (.rfx t) s m ∧ OnlyThread t s.m m ∧
            let x := threadAt m t
            x.pc = set.rpc ∧ x.lstat.toNat = bitsOf set.state 11 8 ∧ x.priv.level.toNat = ppl
            ∧ x.latch = (if set.shreg.getLsbD 5 then some (BitVec.ofNat 5 set.shreg.toNat, set.shval) else none)
            ∧ x.priv.su.state.getLsbD 2 = (th.priv.su.state.getLsbD 2 && ppl != 0)
            ∧ (es → x.reg 31 = th.priv.esG31 ∧ x.priv.es.state.getLsbD 63 = false)
            ∧ (∀ r, (es → r ≠ 31) → x.reg r = th.reg r) ∧ x.rstack = th.rstack ∧ x.vec = th.vec ∧ x.tile = th.tile))
    ∧ ∀ (m₁ : Module) (inv : Bool), workDone s.m t = true → NothingToReport th true → inv = invalidatesAtEnd s.m t →
        (endClean t).go s.m = (.ok (), m₁) →
        ∃ m, Becomes (.endTask t) s m ∧ (threadAt m t).run = .finished
          ∧ (∀ u, u ≠ t → threadAt m u = threadAt m₁ u)
          ∧ (∀ l ∈ (coreAt m (t / 2)).l1d, l.mask = 0) ∧ (inv = true → (coreAt m (t / 2)).l1d = [] ∧ (coreAt m (t / 2)).l1i = [])
          ∧ (∀ e r, entryAt m₁ (threadAt m₁ t).task = some e → e.work = .task r →
              entryAt m (threadAt m₁ t).task = some { e with work := .task { r with finished := t :: r.finished } })
          ∧ m = { m₁ with threads := m.threads, hg := m.hg, stats := m.stats, events := m.events }

/-! ## Entry, interrupts, waiting and stopping -/

/-- Exceptions and interrupts enter the supervisor handler as R135 says (07_privilege_traps_events.md). -/
def Obligations.EntriesFollowTheirRules : Prop :=
  ∀ (s : State) (t : Nat), t < 384 → MayEnter s.m t →
    let th := threadAt s.m t
    let hbase := th.priv.su.hbase
    -- the handler's first word is fetched; nothing of the thread changes
    let fetches (m : Module) (level : Nat) (pc : BitVec 48) (m₁ : Module) : Prop :=
      (fetchCheck t level pc).go m = (.ok (), m₁) ∧ threadAt m₁ t = threadAt m t
    let enters (i : Instr) (int : Bool) (cause info : Nat) (fval : Word) (rpc : BitVec 48) (m₁ : Module) : Prop :=
      ∃ m, Becomes i s m ∧ OnlyThread t m₁ m ∧ EntersSupervisor int cause info fval rpc
        (if int then { th with tile := th.tile.leaveHold } else th) (threadAt m t)
    -- the thread leaves what holds it: a waiting aperture write, a tile memory instruction between two of its rows
    let left : Thread := { th with aperture := none, tile := th.tile.leaveHold }
    let here : Module := setThread t left (withdrawWrite t s.m)
    (∀ (e : Exc) (m₁ : Module), th.exc = some e → th.run = .running → e.target.toNat ≤ 1 → hbase ≠ 0 →
      (th.priv.es.state.getLsbD 63 = true → e.cause = 0x0A) →
      fetches s.m 1 (hbase + if e.cause = 0x0A then 0x100 else 0) m₁ →
      enters (.exceptionEntry t .raised) false e.cause.toNat e.info.toNat e.fval e.rpc m₁)
    ∧ (∀ (m₁ : Module), atBoundary s.m t = true → th.stop = false → hbase ≠ 0 →
        eventLine s.m (t / 2) = true → th.priv.su.state.getLsbD 0 = true → fetches here 1 (hbase + 0x200) m₁ →
        enters (.externalEvent t) true 0x40 0 0 th.pc m₁)
    ∧ (∀ (m₁ : Module), atBoundary s.m t = true → th.stop = false → hbase ≠ 0 →
        (eventLine s.m (t / 2) = false ∨ th.priv.su.state.getLsbD 0 = false) →
        th.priv.su.state.getLsbD 1 = true → th.priv.talarm.toNat ≤ s.m.time.toNat → fetches here 1 (hbase + 0x200) m₁ →
        enters (.timer t) true 0x41 0 s.m.time th.pc m₁)
    ∧ (∀ (m₁ : Module), th.run = .waiting → atBoundary s.m t = true → th.stop = false → hbase ≠ 0 →
        eventLine s.m (t / 2) = true → th.priv.su.state.getLsbD 0 = true →
        fetches (setThread t { left with run := .running } (withdrawWrite t (setThread t { th with run := .running } s.m)))
          1 (hbase + 0x200) m₁ →
        enters (.waitWake t) true 0x40 0 0 th.pc m₁)
    ∧ (th.run = .waiting → wakes s.m t = true →
        (atBoundary s.m t = false ∨ th.stop = true ∨ hbase = 0 ∨
          ((eventLine s.m (t / 2) = false ∨ th.priv.su.state.getLsbD 0 = false) ∧ timerDue s.m t = false)) →
        Becomes (.waitWake t) s (setThread t { th with run := .running } s.m))
    ∧ ∀ (e : Exc) (m₁ : Module), th.exc = some e → th.run = .running → e.target = 2 → e.cause = 0x0A →
        fetches s.m 2 (th.priv.ma.hbase + 0x100) m₁ →
        ∃ m, Becomes (.exceptionEntry t .raised) s m ∧ OnlyThread t m₁ m ∧
          let x := threadAt m t
          x.pc = e.rpc ∧ x.priv.level = th.priv.level ∧ x.lstat = th.lstat ∧ x.exc = none
          ∧ (e.info = 0 → x.reg 1 = BitVec.ofNat 64 (firmwareRevision m₁) ∧ x.reg 2 = 0
              ∧ ∀ r, r ≠ 1 → r ≠ 2 → x.reg r = th.reg r)
          ∧ (e.info ≠ 0 → x.reg 1 = BitVec.allOnes 64 ∧ ∀ r, r ≠ 1 → x.reg r = th.reg r)

/-- Windows expire, stop requests stop a thread at a boundary, and a stopped thread is counted (03_host_rings.md,
07_privilege_traps_events.md, 09_tiles_arrays.md). -/
def Obligations.ThreadsStopAtBoundaries : Prop :=
  ∀ (s : State) (t : Nat), alive s.m = true →
    let th := threadAt s.m t
    (th.priv.level = 1 → th.ni = true → ∃ m, Becomes (.niExpiry t) s m ∧ OnlyThread t s.m m ∧
      let x := threadAt m t
      x = { th with priv := { th.priv with su := { th.priv.su with state := x.priv.su.state }, nicount := 0 } }
      ∧ (∀ k, k < 64 → x.priv.su.state.getLsbD k =
          if k = 2 then false else if k = 3 then true else th.priv.su.state.getLsbD k))
    ∧ (t < 384 → th.stop = true → atBoundary s.m t = true → ∃ m, Becomes (.stopRequest t) s m
        ∧ threadAt m t = { th with run := .stopping, stop := false, exc := none, latch := none, aperture := none,
                                   tile := { th.tile with queue := th.tile.queue.filter (·.issued), hold := none } }
        ∧ (∀ u, u ≠ t → threadAt m u = threadAt s.m u) ∧ m.mem = s.m.mem ∧ m.cores = s.m.cores
        ∧ (∀ st j, j ∈ (stackAt m st).jobs → ∃ j₀ ∈ (stackAt s.m st).jobs,
            (j₀.thread ≠ t → j = j₀) ∧ (j₀.thread = t → j₀.posted = true → j = abortJob j₀)))
    ∧ ∀ (m₁ : Module), th.run = .stopping → workDone s.m t = true → (endClean t).go s.m = (.ok (), m₁) →
        ∃ m, Becomes (.threadStopped t) s m ∧ threadAt m t = { threadAt m₁ t with run := .stopped }
          ∧ (∀ u, u ≠ t → threadAt m u = threadAt m₁ u) ∧ (∀ l ∈ (coreAt m (t / 2)).l1d, l.mask = 0)
          ∧ (∀ e r, entryAt m₁ (threadAt m₁ t).task = some e → e.work = .task r →
              entryAt m (threadAt m₁ t).task = some { e with work := .task { r with stopped := t :: r.stopped } })
          ∧ m = { m₁ with threads := m.threads, hg := m.hg }

/-! ## The event controllers -/

/-- Edges, claims, discards and holds of the event controllers (07_privilege_traps_events.md). -/
def Obligations.EventControllersFollowTheirRules : Prop :=
  let pend (m : Module) (d k : Nat) : Bool := (eventsOf m d).pend.getLsbD k
  (∀ (s : State) (d k : Nat), d < 4 → sourceExists s.m.board.part d k = true →
    ((eventsOf s.m d).en.getLsbD k = false → moduleWide k = false → Becomes (.eventEdge d k) s s.m)
    ∧ ((eventsOf s.m d).en.getLsbD k = true → ∃ m, Becomes (.eventEdge d k) s m ∧ pend m d k = true
        ∧ (∀ j, j ≠ k → j ≠ 325 → pend m d j = pend s.m d j) ∧ CountsOnly s.m m)
    ∧ (moduleWide k = true → ∃ m, Becomes (.eventEdge d k) s m
        ∧ ∀ e, e < 4 → pend m e k = (pend s.m e k || (eventsOf s.m e).en.getLsbD k)))
  ∧ (∀ (s : State) (d : Nat) (v : Word), d < 4 → ∃ m, Becomes (.evSwset d v) s m ∧ CountsOnly s.m m
      ∧ ∀ k, k ≠ 325 → pend m d k = (pend s.m d k || (k < 64 && v.getLsbD k && (eventsOf s.m d).en.getLsbD k)))
  ∧ (∀ (s : State) (d w : Nat) (v : Word), d < 4 → w < 8 → ∃ p, Becomes (.evPendDiscard d w v) s
        (setEvents d { eventsOf s.m d with pend := p } s.m)
      ∧ ∀ k, p.getLsbD k = (pend s.m d k && !(64 * w ≤ k && k < 64 * w + 64 && v.getLsbD (k - 64 * w))))
  ∧ (∀ (s : State) (d k t : Nat) (rd : Reg), d < 4 → k < 384 → t < 384 → alive s.m = true →
      let e := eventsOf s.m d
      let named := t / 96 = d ∧ (Sparse.get 0 e.mask k : BitVec 48).getLsbD (t / 2 % 48) = true
      let succeeds := pend s.m d k = true ∧ named
      ∃ m, Becomes (.evClaim d k (some (t, rd))) s m
        ∧ WritesRegister rd (if succeeds then BitVec.ofNat 64 k else 0x3FF) (threadAt s.m t) (threadAt m t)
        ∧ (∀ u, u ≠ t → threadAt m u = threadAt s.m u)
        ∧ (∀ j, j ≠ 325 → pend m d j = (pend s.m d j && !(succeeds && j = k)))
        ∧ (∀ j, (eventsOf m d).held.getLsbD j =
            (e.held.getLsbD j || (j = k && succeeds && (Sparse.get 0 e.mod k : BitVec 16) ≠ 0)))
        ∧ OnlyThreads s.m m)
  ∧ (∀ (s : State) (d k : Nat), Becomes (.evClaim d k none) s s.m)
  ∧ (∀ (s : State) (d k : Nat), d < 4 → k < 384 → (eventsOf s.m d).held.getLsbD k = true →
      (∃ m, Becomes (.holdExpiry d k) s m ∧ ∀ j, (eventsOf m d).held.getLsbD j =
        ((eventsOf s.m d).held.getLsbD j && j ≠ k))
      ∧ ∀ i, i < 48 → (Sparse.get 0 (eventsOf s.m d).mask k : BitVec 48).getLsbD i = true →
        (∀ t, (t = 2 * (48 * d + i) ∨ t = 2 * (48 * d + i) + 1) →
          (threadAt s.m t).run = .idle ∨ (threadAt s.m t).run = .waiting) →
        ∃ m, Becomes (.moderationBypass d k) s m ∧ (eventsOf m d).held.getLsbD k = false ∧ CountsOnly s.m m)
  ∧ ∀ (m : Module) (c : Nat), eventLine m c = true ↔ ∃ k, k < 384 ∧ pend m (c / 48) k = true
      ∧ (eventsOf m (c / 48)).en.getLsbD k = true ∧ (Sparse.get 0 (eventsOf m (c / 48)).mask k : BitVec 48).getLsbD (c % 48) = true
      ∧ (eventsOf m (c / 48)).held.getLsbD k = false

/-! ## Vector instructions -/

/-- Every integer vector instruction writes the stated result to its active elements and to nothing else
(08_vector.md). That VNARU takes its source as unsigned is the model's reading (log 18). -/
def Obligations.IntegerVectorsWriteActiveElements : Prop :=
  ∀ (i : Instr) (x : VectorForm) (s : State), vectorForm i = some x →
    let o := x.op
    let t := x.thread
    let th := threadAt s.m t
    let w := typeWidth o.ty
    let wa := if x.wide then 2 * w else w
    let legal := o.ty.toNat ≤ 3 ∧ (x.wide = true → o.ty ≠ 3) ∧ ¬ (o.m = 1 ∧ o.vd = 0)
    let result (k : Nat) : Int := x.value th.vec.fxr w (elem (th.vreg o.vs1) wa k) (operandOf th o w k)
    let clamped (k : Nat) : Int := match x.clamp with
      | some signed => clampTo signed w (result k)
      | none => result k
    (¬ legal → issuable s.m t = true → ∃ m, Becomes i s m ∧ Raises t 0x01 (BitVec.ofNat 64 (firstWord i)) s.m m)
    ∧ (legal → VectorReady s.m t (vecRegs o) → ScalarReady th o →
      ∃ m, Becomes i s m ∧ VectorEffect t (some o.vd) s.m m ∧
        let th' := threadAt m t
        (∀ k, k < 4096 / w → (Active th wa (o.m == 1) k →
            (elem (th'.vreg o.vd) w k : Int) = clamped k % 2 ^ w)
          ∧ (¬ Active th wa (o.m == 1) k → elem (th'.vreg o.vd) w k = elem (th.vreg o.vd) w k))
        ∧ (∀ b, b < 6 → (th'.vec.flags.getLsbD b = true ↔ th.vec.flags.getLsbD b = true
            ∨ Fp.fSAT.getLsbD b = true ∧ ∃ k, Active th wa (o.m == 1) k ∧ clamped k ≠ result k))
        ∧ th'.gens = th.gens)

/-- Floating-point vector instructions and conversions round each active element once (08_vector.md,
10_formats_scaling.md). -/
def Obligations.FloatVectorsRoundOnce : Prop :=
  (∀ (i : Instr) (x : FloatForm) (s : State), floatForm i = some x →
    let o := x.op
    let t := x.thread
    let th := threadAt s.m t
    let w := typeWidth o.ty
    let legal := x.legal = true ∧ 4 ≤ o.ty.toNat ∧ o.ty.toNat ≤ 6 ∧ ¬ (o.m = 1 ∧ o.vd = 0)
    let result (k : Nat) : Nat × Fp.Flags := x.value (typeFmt o.ty) (modeAt th w (o.m == 1) k)
      (elem (th.vreg o.vd) w k) (elem (th.vreg o.vs1) w k) (operandOf th o w k)
    (¬ legal → issuable s.m t = true → ∃ m, Becomes i s m ∧ Raises t 0x01 (BitVec.ofNat 64 (firstWord i)) s.m m)
    ∧ (legal → VectorReady s.m t (vecRegs o) → ScalarReady th o →
      ∃ m, Becomes i s m ∧ VectorEffect t (some o.vd) s.m m ∧
        let th' := threadAt m t
        (∀ k, k < 4096 / w → (Active th w (o.m == 1) k → elem (th'.vreg o.vd) w k = (result k).1 % 2 ^ w)
          ∧ (¬ Active th w (o.m == 1) k → elem (th'.vreg o.vd) w k = elem (th.vreg o.vd) w k))
        ∧ (∀ b, b < 6 → (th'.vec.flags.getLsbD b = true ↔ th.vec.flags.getLsbD b = true
            ∨ ∃ k, Active th w (o.m == 1) k ∧ (result k).2.getLsbD b = true))
        ∧ (if th.vec.rm = 2 then DrawsTaken th th' w (o.m == 1) else th'.gens = th.gens)))
  ∧ (∀ (s : State) (t : Nat) (o : CvtOp),
    let th := threadAt s.m t
    let a := o.src.toNat
    let b := o.dst.toNat
    let into := 7 ≤ b ∧ b ≤ 11
    let outOf := 7 ≤ a ∧ a ≤ 11
    let w := Nat.max (codeWidth a) (codeWidth b)
    let legal := a ≠ b ∧ (a ≤ 4 ∧ b ≤ 4 ∨ a = 0 ∧ 5 ≤ b ∧ b ≤ 11 ∨ 5 ≤ a ∧ a ≤ 11 ∧ b = 0) ∧ (into ∨ outOf ∨ o.vs2 = 0)
    (¬ legal → issuable s.m t = true →
      ∃ m, Becomes (.vcvt t o) s m ∧ Raises t 0x01 (BitVec.ofNat 64 (firstWord (.vcvt t o))) s.m m)
    ∧ (legal → ¬ (into ∧ o.vd = o.vs2) → VectorReady s.m t (o.vd :: o.vs1 :: (if into ∨ outOf then [o.vs2] else [])) →
      ∃ (m : Module) (sc : Nat → Nat), Becomes (.vcvt t o) s m ∧ VectorWrites t (if into then [o.vd, o.vs2] else [o.vd]) s.m m ∧
        let th' := threadAt m t
        let result (k : Nat) : Nat × Fp.Flags :=
          converted a b (modeAt th w false k) (sc (k / 32)) (elem (th.vreg o.vs1) (codeWidth a) k)
        -- the scale bytes: read from vs2, or written there for each block with an active element
        (outOf → ∀ j, sc j = elem (th.vreg o.vs2) 8 j)
        ∧ (into → ∀ j, j < 512 →
            let block := (actives th w false).filter fun k => k / 32 == j
            (block ≠ [] → BlockScale (Fp.emaxOf b) (block.map fun k => Fp.decode Fp.fp32 (elem (th.vreg o.vs1) 32 k)) (sc j))
            ∧ elem (th'.vreg o.vs2) 8 j = if block = [] then elem (th.vreg o.vs2) 8 j else sc j)
        ∧ (∀ k, k < 4096 / codeWidth b →
            (Active th w false k → elem (th'.vreg o.vd) (codeWidth b) k = (result k).1 % 2 ^ codeWidth b)
            ∧ (¬ Active th w false k → elem (th'.vreg o.vd) (codeWidth b) k = elem (th.vreg o.vd) (codeWidth b) k))
        ∧ (∀ f, f < 6 → (th'.vec.flags.getLsbD f = true ↔ th.vec.flags.getLsbD f = true
            ∨ ∃ k, Active th w false k ∧ (result k).2.getLsbD f = true))
        ∧ (if th.vec.rm = 2 then DrawsTaken th th' w false else th'.gens = th.gens)))
  ∧ ∀ (s : State) (t : Nat) (o : CvtOp), o.src = 0 → 7 ≤ o.dst.toNat → o.dst.toNat ≤ 11 → o.vd = o.vs2 →
    VectorReady s.m t [o.vd, o.vs1, o.vs2] →
    ∃ m, Becomes (.vcvt t o) s m ∧ VectorEffect t (some o.vd) { s.m with freeCount := s.m.freeCount + 1 } m
      ∧ (let th := threadAt s.m t
         let element (b : Nat) : Prop := Active th 32 false (b / codeWidth o.dst.toNat)
         let scale (b : Nat) : Prop := ∃ k, Active th 32 false k ∧ b / 8 = k / 32
         ∀ b, b < 4096 →
          (¬ element b → ¬ scale b → ((threadAt m t).vreg o.vd).getLsbD b = (th.vreg o.vd).getLsbD b)
          ∧ (element b → scale b →
              ((threadAt m t).vreg o.vd).getLsbD b = (Config.freeBits 4096 s.m.freeCount).getLsbD b))

/-- Compares write mask bits, and reductions write element 0 (08_vector.md). That a reduction with VBEGIN at or past
the count writes nothing is the model's reading of R164 against R156 (log 18). -/
def Obligations.ComparesAndReductionsSummarise : Prop :=
  (∀ (i : Instr) (t : Nat) (o : VecOp) (legal : Bool) (holds : Nat → Nat → Nat → Bool) (s : State),
    compareForm i = some (t, o, legal, holds) → VectorReady s.m t (o.vd :: o.vs1 :: o.src2 :: maskReg o) →
    let th := threadAt s.m t
    let w := typeWidth o.ty
    ((legal = false ∨ (o.m = 1 ∧ o.vd = 0)) →
      ∃ m, Becomes i s m ∧ Raises t 0x01 (BitVec.ofNat 64 (firstWord i)) s.m m)
    ∧ (legal = true → ¬ (o.m = 1 ∧ o.vd = 0) → ∃ m, Becomes i s m ∧ VectorEffect t (some o.vd) s.m m ∧
      (∀ k, k < 4096 → (Active th w (o.m == 1) k → ((threadAt m t).vreg o.vd).getLsbD k =
            holds w (elem (th.vreg o.vs1) w k) (elem (th.vreg o.src2) w k))
        ∧ (¬ Active th w (o.m == 1) k → ((threadAt m t).vreg o.vd).getLsbD k = (th.vreg o.vd).getLsbD k))
      ∧ (let signals (v : Reg) (k : Nat) : Prop := (Fp.decode (typeFmt o.ty) (elem (th.vreg v) w k)).isSig = true
         ∀ b, b < 6 → ((threadAt m t).vec.flags.getLsbD b = true ↔ th.vec.flags.getLsbD b = true
          ∨ isFloatType o.ty = true ∧ Fp.fNV.getLsbD b = true
            ∧ ∃ k, Active th w (o.m == 1) k ∧ (signals o.vs1 k ∨ signals o.src2 k)))))
  ∧ (∀ (i : Instr) (t : Nat) (o : VecOp) (legal : Bool) (join : Nat → Nat → Nat → Nat × Fp.Flags) (s : State),
    reduceForm i = some (t, o, legal, join) → VectorReady s.m t (o.vd :: o.vs1 :: o.src2 :: maskReg o) →
    legal = true → ¬ (o.m = 1 ∧ o.vd = 0) →
    let th := threadAt s.m t
    let w := typeWidth o.ty
    let xs := (actives th w (o.m == 1)).map fun k => elem (th.vreg o.vs1) w k
    let total : Nat := match xs with
      | [] => elem (th.vreg o.src2) w 0
      | a :: l => (join w (elem (th.vreg o.src2) w 0) (l.foldl (fun x y => (join w x y).1) a)).1
    ∃ m, Becomes i s m ∧ VectorEffect t (some o.vd) s.m m
      ∧ (∀ k, 1 ≤ k → k < 4096 / w → elem ((threadAt m t).vreg o.vd) w k = elem (th.vreg o.vd) w k)
      ∧ elem ((threadAt m t).vreg o.vd) w 0 =
          if th.vec.start.toNat < vecCount th w then total % 2 ^ w else elem (th.vreg o.vd) w 0)
  ∧ ∀ (t : Nat) (o : VecOp) (s : State),
    isFloatType o.ty = true → ¬ (o.m = 1 ∧ o.vd = 0) → VectorReady s.m t (o.vd :: o.vs1 :: o.src2 :: maskReg o) →
    let th := threadAt s.m t
    let w := typeWidth o.ty
    let add (a b : Nat) : Nat × Fp.Flags := Fp.add (typeFmt o.ty) (foldMode th) a b
    let sum := (orderedSum add (1024 / w) ((actives th w (o.m == 1)).map fun k => (k, elem (th.vreg o.vs1) w k))).1
    th.vec.start.toNat < vecCount th w →
    ∃ m, Becomes (.vrfsum t o) s m ∧ VectorEffect t (some o.vd) s.m m
      ∧ (∀ k, 1 ≤ k → k < 4096 / w → elem ((threadAt m t).vreg o.vd) w k = elem (th.vreg o.vd) w k)
      ∧ elem ((threadAt m t).vreg o.vd) w 0 = (match sum with
          | none => elem (th.vreg o.src2) w 0
          | some p => (add (elem (th.vreg o.src2) w 0) p).1) % 2 ^ w

/-- Moves, broadcasts, slides, insertions and random draws write the elements R167 gives (08_vector.md). That SETVC
leaves VBEGIN (log 17) and that a slide's count is the unsigned low w bits of the scalar (log 18) are the model's
readings. -/
def Obligations.PermutationsMoveElements : Prop :=
  ∀ (s : State) (t : Nat) (o : VecOp) (size : BitVec 2),
    let th := threadAt s.m t
    let w := typeWidth o.ty
    let max := Nat.min 512 (4096 / w)
    let b := (sourceValue th o.src2).toNat % 2 ^ w
    let k₀ := (sourceValue th o.src2).toNat
    let src (k : Nat) : Nat := elem (th.vreg o.vs1) w k
    let unmasked := ¬ (o.m = 1 ∧ o.vd = 0)
    let moves (i : Instr) (f : Nat → Nat) : Prop := ∃ m, Becomes i s m ∧ VectorEffect t (some o.vd) s.m m ∧
      ∀ k, k < 4096 / w → (Active th w (o.m == 1) k → elem ((threadAt m t).vreg o.vd) w k = f k % 2 ^ w)
        ∧ (¬ Active th w (o.m == 1) k → elem ((threadAt m t).vreg o.vd) w k = elem (th.vreg o.vd) w k)
    VectorReady s.m t (vecRegs o) → (th.src o.src2).isSome = true → o.ty ≠ 7 →
    (unmasked → o.src2 = 0 → moves (.vmv t o) src)
    ∧ (unmasked → o.vs1 = 0 → moves (.vbcast t o) fun _ => b)
    ∧ (unmasked → isIntType o.ty = true → o.vs1 = 0 → o.src2 = 0 → moves (.vindex t o) fun k => k)
    ∧ (unmasked → moves (.vshdn t o) fun k => if k + b < max then src (k + b) else 0)
    ∧ (unmasked → o.vd ≠ o.vs1 → moves (.vshup t o) fun k => if b ≤ k then src (k - b) else elem (th.vreg o.vd) w k)
    ∧ (unmasked → isIntType o.ty = true → o.vs1 = 0 → o.src2 = 0 →
        moves (.vrng t o) fun k => (drawAt th w (o.m == 1) k).toNat / 2 ^ (64 - w))
    ∧ (o.m = 0 → (th.src o.vs1).isSome = true → ∃ m, Becomes (.vins t o) s m ∧ VectorEffect t (some o.vd) s.m m ∧
        ∀ k, k < 4096 / w → elem ((threadAt m t).vreg o.vd) w k =
          if k = k₀ ∧ k < max then (sourceValue th o.vs1).toNat % 2 ^ w else elem (th.vreg o.vd) w k)
    ∧ (o.m = 0 → th.writable o.vd = true → ∃ m, Becomes (.vext t o) s m ∧ OnlyThread t s.m m
        ∧ WritesRegister o.vd (BitVec.ofNat 64 (if k₀ < max then src k₀ else 0)) th (threadAt m t)
        ∧ (threadAt m t).vec = { th.vec with start := 0 })
    ∧ (th.writable o.vd = true →
        let n := Nat.min k₀ (Nat.min 512 (4096 / (8 * 2 ^ size.toNat)))
        ∃ m, Becomes (.setvc t o.vd o.src2 size) s m ∧ OnlyThread t s.m m
          ∧ WritesRegister o.vd (BitVec.ofNat 64 n) th (threadAt m t)
          ∧ (threadAt m t).vec = { th.vec with count := BitVec.ofNat 10 n })

/-- Mask logic acts below VCOUNT, and the vector unit powers down and wakes (08_vector.md). That the unit goes down at
the command, without the IDLE interval of R181, is the model's reading (log 30). -/
def Obligations.MasksAndVectorPower : Prop :=
  (∀ (s : State) (t : Nat) (o : VecOp), VectorReady s.m t [o.vd, o.vs1, o.src2] → o.ty = 0 → o.m = 0 →
    let th := threadAt s.m t
    let a (k : Nat) : Bool := (th.vreg o.vs1).getLsbD k
    let b (k : Nat) : Bool := (th.vreg o.src2).getLsbD k
    let logic (i : Instr) (f : Nat → Bool) : Prop := ∃ m, Becomes i s m ∧ VectorEffect t (some o.vd) s.m m ∧
      ∀ k, k < 4096 → ((threadAt m t).vreg o.vd).getLsbD k =
        if th.vec.start.toNat ≤ k ∧ k < Nat.min th.vec.count.toNat 512 then f k else (th.vreg o.vd).getLsbD k
    let gives (i : Instr) (v : Word) : Prop := ∃ m, Becomes i s m ∧ OnlyThread t s.m m
      ∧ WritesRegister o.vd v th (threadAt m t) ∧ (threadAt m t).vec = { th.vec with start := 0 }
    logic (.vmand t o) (fun k => a k && b k) ∧ logic (.vmor t o) (fun k => a k || b k)
    ∧ logic (.vmxor t o) (fun k => a k != b k) ∧ logic (.vmandn t o) (fun k => a k && !b k)
    ∧ (th.writable o.vd = true →
        gives (.vmcount t o) (BitVec.ofNat 64 ((List.range th.vec.count.toNat).filter a).length)
        ∧ ((∀ k, k < th.vec.count.toNat → a k = false) → gives (.vmlow t o) (BitVec.allOnes 64))
        ∧ ∀ k, k < th.vec.count.toNat → a k = true → (∀ j, j < k → a j = false) →
            gives (.vmlow t o) (BitVec.ofNat 64 k)))
  ∧ (∀ (s : State) (c : Nat),
    let lets (t : Nat) : Prop := (threadAt s.m t).run = .idle ∨ (threadAt s.m t).vec.hold = false
    let down := lets (2 * c) ∧ lets (2 * c + 1)
    let core := coreAt s.m c
    (core.vecUp = true → down → Becomes (.vectorPowerDown c) s (setCore c { core with vecUp := false } s.m))
    ∧ ((core.vecUp = false ∨ ¬ down) → Becomes (.vectorPowerDown c) s s.m)
    ∧ (core.waking = true → Becomes (.vectorWake c) s (setCore c { core with vecUp := true, waking := false } s.m))
    ∧ (core.waking = false → Becomes (.vectorWake c) s s.m))
  ∧ ∀ (s : State) (i : Instr) (x : VectorForm), vectorForm i = some x → issuable s.m x.thread = true →
    x.op.ty.toNat ≤ 2 → x.op.m = 0 → (coreAt s.m (x.thread / 2)).vecUp = false →
    Becomes i s (setCore (x.thread / 2) { coreAt s.m (x.thread / 2) with waking := true } s.m)

/-! ## Vector memory, atomics, reductions and fences -/

/-- Vector loads, stores and reductions act on their active elements and stop where a fault says (08_vector.md,
11_memory_caches.md). The free values of imprecise faults and the moment of their answers are the model's reading (log
19). -/
def Obligations.VectorMemoryActsPerElement : Prop :=
  (∀ (s : State) (t : Nat) (o : VMemOp) (b stride : Word) (r : ElemRun),
    let th := threadAt s.m t
    let w := 8 * o.bytes
    VectorReady s.m t o.vregs → o.legal true = true → vmemScalars o th = some (b, stride) →
    r = runElems th.vec.precise (fun k => loadElement t o (vmemAddress o th b stride k)) (vmemActives o th) { m := s.m } →
    r.blocked = none →
    let x := threadAt r.m t
    let loaded (th' : Thread) : Prop :=
      (∀ k v, (k, v) ∈ r.vals → elem (th'.vreg o.v) w k = v % 2 ^ w)
      ∧ (∀ k, k < 4096 / w → (∀ v, (k, v) ∉ r.vals) → elem (th'.vreg o.v) w k = elem (x.vreg o.v) w k)
      ∧ (∀ q, q ≠ o.v → th'.vreg q = x.vreg q) ∧ th'.g = x.g
    (r.faults = [] → r.vals.map (·.1) = vmemActives o th)
    ∧ (r.faults = [] → ∃ m, Becomes (.vld t o) s m ∧ OnlyThread t (dropSpent t r.m) m ∧ loaded (threadAt m t)
        ∧ (threadAt m t).vec.start = 0 ∧ (threadAt m t).vec.pending =
            if th.vec.precise then x.vec.pending else x.vec.pending ++ [{ vd := some o.v, faults := [] }])
    ∧ (th.vec.precise = false → r.faults ≠ [] → ∃ m, Becomes (.vld t o) s m
        ∧ OnlyThread t (r.faults.foldl (fun m f => noteError t f.2 m) (dropSpent t r.m)) m ∧ loaded (threadAt m t)
        ∧ (threadAt m t).vec.start = 0 ∧ (threadAt m t).vec.log = x.vec.log ∧ (threadAt m t).exc = x.exc
        ∧ (threadAt m t).vec.pending = x.vec.pending
            ++ [{ vd := some o.v, faults := faultEntries th (vmemAddress o th b stride) r.faults }])
    ∧ ∀ k cause va, th.vec.precise = true → r.faults = [(k, .exc cause va)] → ∃ m, Becomes (.vld t o) s m
        ∧ OnlyThread t (dropSpent t r.m) m ∧ loaded (threadAt m t) ∧ (threadAt m t).vec.start = BitVec.ofNat 9 k
        ∧ (threadAt m t).pc = x.pc
        ∧ ∃ e, (threadAt m t).exc = some e ∧ e.cause = BitVec.ofNat 8 cause ∧ e.fval = BitVec.ofNat 64 va)
  ∧ (∀ (s : State) (i : Instr) (f : ElementForm) (b stride : Word) (r : ElemRun), elementForm i = some f →
    let t := f.thread
    let th := threadAt s.m t
    VectorReady s.m t f.op.vregs → f.legal = true → vmemScalars f.op th = some (b, stride) →
    let act (k : Nat) : Acc Nat := f.act th (vmemAddress f.op th b stride k) k
    r = runElems th.vec.precise act (vmemActives f.op th) { m := s.m } → r.blocked = none →
    let outstanding (x : VecState) (l : List LogEntry) : VecState :=
      { x with start := 0, pending := x.pending ++ [{ vd := none, faults := l }] }
    (r.faults = [] → ∃ m, Becomes i s m ∧ OnlyThread t (dropSpent t r.m) m
        ∧ (threadAt m t).vec = (if th.vec.precise then { (threadAt r.m t).vec with start := 0 }
            else outstanding (threadAt r.m t).vec [])
        ∧ (threadAt m t).g = (threadAt r.m t).g)
    ∧ (∀ x, th.vec.precise = false → r.faults ≠ [] →
        -- of the elements that do not fault each is written or not, as a free value says
        x = runElems false act ((vmemActives f.op th).filter fun k =>
            !(r.faults.map (·.1)).contains k && (Config.freeBits 512 s.m.freeCount).getLsbD k)
          { m := { s.m with freeCount := s.m.freeCount + 1 } } → x.blocked = none →
        ∃ m, Becomes i s m
        ∧ OnlyThread t (r.faults.foldl (fun m f => noteError t f.2 m) (dropSpent t x.m)) m
        ∧ (threadAt m t).vec = outstanding (threadAt x.m t).vec (faultEntries th (vmemAddress f.op th b stride) r.faults)
        ∧ (threadAt m t).g = (threadAt x.m t).g ∧ (threadAt m t).exc = (threadAt x.m t).exc)
    ∧ ∀ k cause va, th.vec.precise = true → r.faults = [(k, .exc cause va)] → ∃ m, Becomes i s m
        ∧ OnlyThread t (dropSpent t r.m) m
        ∧ (threadAt m t).vec = { (threadAt r.m t).vec with start := BitVec.ofNat 9 k }
        ∧ (threadAt m t).pc = (threadAt r.m t).pc
        ∧ ∃ e, (threadAt m t).exc = some e ∧ e.cause = BitVec.ofNat 8 cause ∧ e.fval = BitVec.ofNat 64 va)
  ∧ (∀ (s : State) (t : Nat) (p : VecPending) (rest : List VecPending),
    let th := threadAt s.m t
    th.vec.pending = p :: rest → ∃ m, Becomes (.vectorElementAnswer t) s m
      ∧ (threadAt m t).vec.pending = rest
      ∧ (threadAt m t).vec.log = (if 8 ≤ th.vec.log.length then th.vec.log else (th.vec.log ++ p.faults).take 8)
      ∧ (let lost := p.faults.length - (8 - th.vec.log.length)
         (threadAt m t).vec.lost.toNat = Nat.min 255 (th.vec.lost.toNat + lost)
         ∧ (threadAt m t).vec.lpend = (th.vec.lpend || 0 < lost))
      ∧ (∀ q, (∀ d, p.vd = some d → p.faults ≠ [] → q ≠ d) → (threadAt m t).vreg q = th.vreg q)
      ∧ (∀ d, p.vd = some d → p.faults ≠ [] → (threadAt m t).vreg d = Config.freeBits 4096 s.m.freeCount)
      ∧ (∀ u, u ≠ t → threadAt m u = threadAt s.m u) ∧ (threadAt m t).g = th.g
      ∧ m = { s.m with threads := m.threads, freeCount := m.freeCount })

/-- Atomics and reductions change exactly their bytes at the home slice (11_memory_caches.md). That loads in flight no
longer place the line in the L1 is the model's reading (log 25). -/
def Obligations.AtomicsAndReductionsUpdateTheirBytes : Prop :=
  (∀ (s : State) (i : Instr) (f : AtomicForm) (x : Nat) (l : LlcLine), atomicForm i = some f →
    let t := f.thread
    let th := threadAt s.m t
    let n := if f.dbl = 1 then 8 else 4
    let a := sourceValue th f.rs1
    let sl := homeSlice x
    issuable s.m t = true → SourcesReady th [f.rs1, f.rs2] → (f.compares = true → SourcesReady th [f.rd]) →
    th.unnamed f.rd = true → (elemPlace t .update n a).go s.m = (.ok (.mem x), s.m) → x % n = 0 →
    let own := l1Find (coreAt s.m (t / 2)) (lineOf x)
    (∀ y, own = some y → y.spoiled = [] ∧ y.data.length = 128) →
    LineStands s.m (lineOf x) l → touchesPoison l.poison (x % 128) n = false →
    let line := (List.range 128).map fun k => BitVec.ofNat 8 (mergedByte own l.data k)
    let old := lineValue line (x % 128) n
    let v := f.value (8 * n) old ((sourceValue th f.rs2).toNat % 2 ^ (8 * n)) ((sourceValue th f.rd).toNat % 2 ^ (8 * n))
    ∃ m l', Becomes i s m ∧ (sliceAt m sl).find (lineOf x) = some l' ∧ lineValue l'.data (x % 128) n = v
      ∧ (∀ k, k < 128 → (k < x % 128 ∨ x % 128 + n ≤ k) → byteAt l'.data k = mergedByte own l.data k)
      ∧ (∃ p ∈ (threadAt m t).loads, p.rd = f.rd ∧ p.atomic = true ∧ p.data = some
          (if n = 4 then BitVec.ofInt 64 (natSigned 32 old) else BitVec.ofNat 64 old))
      ∧ (threadAt m t).g = th.g ∧ KeepsSpecial th (threadAt m t) ∧ (NoLoop th → (threadAt m t).pc = th.pc + 4)
      ∧ (∀ u, u ≠ t → threadAt m u =
          if u / 2 = t / 2 then (threadAt s.m u).barFills (· == lineOf x) else threadAt s.m u)
      ∧ m.mem = s.m.mem ∧ KeepsOtherLines t x s.m m)
  ∧ (∀ (s : State) (i : Instr) (t op : Nat) (rs1 rs2 : Reg) (x : Nat) (l : LlcLine), redForm i = some (t, op, rs1, rs2) →
    let th := threadAt s.m t
    let n := if op = 2 ∨ op = 5 then 2 else 4
    let sl := homeSlice x
    let r : Request := { ask := .reduce (some t) (BitVec.ofNat 3 op) ((sourceValue th rs2).toNat % 2 ^ (8 * n)), addr := x }
    issuable s.m t = true → SourcesReady th [rs1, rs2] →
    (elemPlace t .update n (sourceValue th rs1)).go s.m = (.ok (.mem x), s.m) →
    let own := l1Find (coreAt s.m (t / 2)) (lineOf x)
    (∀ y, own = some y → y.spoiled = [] ∧ y.data.length = 128) → LineStands s.m (lineOf x) l →
    ∃ m l', Becomes i s m ∧ (sliceAt m sl).reds = (sliceAt s.m sl).reds ++ [r]
      ∧ (sliceAt m sl).find (lineOf x) = some l' ∧ (∀ k, k < 128 → byteAt l'.data k = mergedByte own l.data k)
      ∧ (threadAt m t).g = th.g ∧ (NoLoop th → (threadAt m t).pc = th.pc + 4) ∧ m.mem = s.m.mem
      ∧ KeepsOtherLines t x s.m m)
  ∧ ∀ (s : State) (sl : Nat) (r : Request) (rest : List Request) (who : Option Nat) (op : BitVec 3) (operand : Nat)
      (l : LlcLine), alive s.m = true → (sliceAt s.m sl).reds = r :: rest → r.ask = .reduce who op operand →
    (sliceAt s.m sl).find (lineOf r.addr) = some l → touchesPoison l.poison (r.addr % 128) (redBytes op.toNat) = false →
    r.addr % redBytes op.toNat = 0 → operand < 2 ^ (8 * redBytes op.toNat) →
    let n := redBytes op.toNat
    let old := lineValue l.data (r.addr % 128) n
    let v := match op.toNat with
      | 0 => (old + operand) % 2 ^ 32
      | 1 => (Fp.add Fp.fp32 Fp.nearest old operand).1
      | 2 => (Fp.add Fp.bf16 Fp.nearest old operand).1
      | 3 => if natSigned 32 old < natSigned 32 operand then operand else old
      | 4 => Fp.maxNanWins Fp.fp32 old operand
      | _ => Fp.maxNanWins Fp.bf16 old operand
    ∃ m l', Becomes (.reductionApply sl) s m ∧ (sliceAt m sl).reds = rest
      ∧ (sliceAt m sl).find (lineOf r.addr) = some l' ∧ lineValue l'.data (r.addr % 128) n = v % 2 ^ (8 * n)
      ∧ (∀ k, k < 128 → (k < r.addr % 128 ∨ r.addr % 128 + n ≤ k) → byteAt l'.data k = byteAt l.data k)
      ∧ m.mem = s.m.mem ∧ m.threads = s.m.threads

/-- A fence waits for the thread's accesses and then writes back, drops or forgets what R255 names
(11_memory_caches.md). -/
def Obligations.FencesCompleteTheirScope : Prop :=
  ∀ (s : State) (t : Nat) (rs1 rs2 : Reg), issuable s.m t = true →
    let th := threadAt s.m t
    let range (inv : Bool) : Instr := if inv then .fenceInv t rs1 rs2 else .fenceWb t rs1 rs2
    let retires (i : Instr) : Prop := ∃ m, Becomes i s m ∧ OnlyThread t s.m m ∧ (threadAt m t).latch = none
      ∧ (threadAt m t).g = th.g ∧ KeepsSpecial th (threadAt m t) ∧ (NoLoop th → (threadAt m t).pc = th.pc + 4)
    (accessesDone s.m t = false → Becomes (.fence t) s s.m ∧ Becomes (.fenceI t) s s.m
      ∧ (∀ inv, rs1 = 0 → rs2 = 0 → Becomes (range inv) s s.m))
    ∧ (∀ inv, rs2 = 0 → rs1 ≠ 0 → ∃ m, Becomes (range inv) s m
        ∧ Raises t 0x01 (BitVec.ofNat 64 (firstWord (range inv))) s.m m)
    ∧ (∀ inv, rs2 ≠ 0 → SourcesReady th [rs1, rs2] →
        let base := (sourceValue th rs1).toNat
        let len := (sourceValue th rs2).toNat
        0 < len → 2 ^ 48 < base + len →
        ∃ m, Becomes (range inv) s m ∧ Raises t 0x05 (BitVec.ofNat 64 (Nat.max base (2 ^ 48))) s.m m)
    ∧ (accessesDone s.m t = true → NothingToReport th false →
        retires (.fence t)
        ∧ (∀ inv, rs2 ≠ 0 → SourcesReady th [rs1, rs2] → sourceValue th rs2 = 0 → retires (range inv))
        ∧ ∀ (inv : Bool) (m₁ : Module), (l1Clean t (fun _ => true) inv).go s.m = (.ok (), m₁) → accessesDone m₁ t = true →
          let cleaned (i : Instr) : Prop := ∃ m, Becomes i s m ∧ (∀ l ∈ (coreAt m (t / 2)).l1d, l.mask = 0)
            ∧ (inv = true → (coreAt m (t / 2)).l1d = [])
            ∧ (inv = false → (coreAt m (t / 2)).l1d = (coreAt m₁ (t / 2)).l1d) ∧ OnlyThread t m₁ m
          (rs1 = 0 → rs2 = 0 → cleaned (range inv))
          ∧ (inv = false → ∃ m, Becomes (.fenceI t) s m ∧ (∀ l ∈ (coreAt m (t / 2)).l1d, l.mask = 0)
              ∧ (coreAt m (t / 2)).l1i = [] ∧ (coreAt m (t / 2)).l1d = (coreAt m₁ (t / 2)).l1d
              ∧ (∀ c, c ≠ t / 2 → coreAt m c = coreAt m₁ c)))

/-! ## Tile instructions -/

/-- Tile instructions queue in order, and the arrays compute their dot products into the accumulators
(09_tiles_arrays.md, 10_formats_scaling.md). Rows without storage (log 46), eight rows a command and what happens at
issue (log 47), and the PC 8 on after two words (log 67) are the model's choices. -/
def Obligations.TileInstructionsFollowTheirQueue : Prop :=
  (∀ (s : State) (t : Nat) (o : TmmaOp) (v : TileMoveOp), issuable s.m t = true →
    let th := threadAt s.m t
    let lease := th.tile.lease.toNat
    let e (op : TileOp) : TileEntry := { id := th.tile.nextId, op := op, half := lease == 2, ref := th.vec.ref,
                                         rm := th.vec.rm, ovs := th.vec.ovs, pc := th.pc }
    let queued (i : Instr) (e : TileEntry) : Prop := ∃ m, Becomes i s m ∧ OnlyThread t s.m m
      ∧ (threadAt m t).tile = { th.tile with queue := th.tile.queue ++ [e], nextId := th.tile.nextId + 1 }
      ∧ (threadAt m t).g = th.g ∧ (threadAt m t).vec = th.vec ∧ (NoLoop th → (threadAt m t).pc = th.pc + 8)
    let refused (i : Instr) : Prop := ∃ m, Becomes i s m ∧ Raises t 0x01 (BitVec.ofNat 64 (firstWord i)) s.m m
    (mmaLegal lease o = false → refused (.tmma t o)) ∧ (taccvLegal lease v = false → refused (.taccv t v))
    ∧ (tacctLegal lease v = false → refused (.tacct t v)) ∧ (taccsLegal lease v = false → refused (.taccs t v))
    ∧ (16 ≤ th.tile.queue.length → mmaLegal lease o = true → Becomes (.tmma t o) s s.m)
    ∧ (th.tile.queue.length < 16 →
        (mmaLegal lease o = true → queued (.tmma t o) (e (.mma o)))
        ∧ (taccvLegal lease v = true → (coreAt s.m (t / 2)).vecUp = true → th.vecAwaits [v.rb] = false →
            queued (.taccv t v) (e (.toVec v)))
        ∧ (tacctLegal lease v = true → SourcesReady th [v.gs] →
            queued (.tacct t v) { e (.toTile v) with scale := if v.gs = 0 then 0 else (sourceValue th v.gs).setWidth 32 })))
  ∧ (∀ (s : State) (t : Nat) (o : TileMemOp) (kind : Fin 3) (e₀ : TileEntry),
    let th := threadAt s.m t
    let scales := kind = 1
    let i : Instr := if kind = 0 then .tld t o else if kind = 1 then .tlds t o else .tst t o
    let op : TileOp := if kind = 0 then .load o else if kind = 1 then .scales o else .store o
    let rows := if o.tr = 1 then List.range (o.cols.toNat + 1)
      else (List.range (o.rows.toNat + 1)).drop th.tile.start.toNat
    let span := rowSpan scales o
    MayDispatch s.m t op (tileMemLegal th.tile.lease.toNat scales o) [o.rb, o.rs]
      { newTileEntry th op with base := sourceValue th o.rb, stride := sourceValue th o.rs } e₀ →
    DispatchesRows i s t e₀ (o.tr == 1) rows (fun r =>
      checkRow t (if kind = 2 then .write else .read) span.2 span.1 (e₀.base + BitVec.ofNat 64 r * e₀.stride)))
  ∧ (∀ (s : State) (t : Nat) (v : TileMoveOp) (e₀ : TileEntry),
    let th := threadAt s.m t
    let w := codeWidth v.fmt.toNat / 8
    MayDispatch s.m t (.toMem v) (taccsLegal th.tile.lease.toNat v) [v.rb, v.rs, v.gs]
      { newTileEntry th (.toMem v) with
        base := sourceValue th v.rb, stride := sourceValue th v.rs
        scale := if v.gs = 0 then 0 else (sourceValue th v.gs).setWidth 32 } e₀ →
    DispatchesRows (.taccs t v) s t e₀ false ((List.range (v.rows.toNat + 1)).drop th.tile.start.toNat) (fun r =>
      checkRow t (if v.red = 1 then .update else .write) w (w * if e₀.half then 16 else 32)
        (e₀.base + BitVec.ofNat 64 r * e₀.stride)))
  ∧ (∀ (s : State) (t k : Nat) (e : TileEntry) (o : TmmaOp), tileAt s.m t k = some e → e.op = .mma o →
    tileRuns s.m t = true → mayIssue (threadAt s.m t) e = true → (e.half = true → o.n.toNat < 16) →
    let c := coreAt s.m (t / 2)
    let kk := o.k.toNat + 1
    ∃ m, Becomes (.tileIssue t k) s m ∧ tileAt m t k = none
      ∧ (∀ a j r n, a < 4 → j < 4 → r < 32 → n < (if e.half then 16 else 32) →
        let x := tileRowAt c t e.half (8 + tField o a) a r
        let y := tileRowAt c t e.half o.wt.toNat 0 n
        let old := accElem c t e.half a j r n
        accElem (coreAt m (t / 2)) t e.half a j r n =
          if o.amask.getLsbD a = true ∧ j = o.acct.toNat ∧ r ≤ o.m.toNat ∧ n ≤ o.n.toNat then
            (if o.fa = 5 then intLow 32 ((if o.acc = 1 then natSigned 32 old else 0) + dotInt kk x y)
             else
               let sum := (if e.ref then dotReference (dotProducts o.fa.toNat o.fw.toNat kk x y)
                 else dotNormal (dotProducts o.fa.toNat o.fw.toNat kk x y)).1
               if o.acc = 1 then (Fp.add Fp.fp32 Fp.nearest old sum).1 else sum) % 2 ^ 32
          else old)
      ∧ (coreAt m (t / 2)).wt = c.wt ∧ (coreAt m (t / 2)).act = c.act ∧ (coreAt m (t / 2)).l1d = c.l1d
      ∧ (∀ u, u ≠ t → threadAt m u = threadAt s.m u) ∧ m.mem = s.m.mem)
  ∧ (∀ (s : State) (t k : Nat) (e : TileEntry) (o : TileMemOp) (scales : Bool), tileAt s.m t k = some e →
    e.loads = some (o, scales) →
    (tileRuns s.m t = true → mayIssue (threadAt s.m t) e = true →
      ∃ m, Becomes (.tileIssue t k) s m ∧ tileAt m t k = some { e with issued := true } ∧ m = { s.m with threads := m.threads })
    ∧ (alive s.m = true → e.issued = true →
      (∀ m₁, loadRows t e o scales e.rows s.m = (none, m₁) →
        ∃ m, Becomes (.tileLoadDataReturn t k) s m ∧ tileAt m t k = none ∧ m = { m₁ with threads := m.threads })
      ∧ ∀ row, ∃ m₁ a, Becomes (.tileLoadDataError t k row) s
          (endTask (threadAt m₁ t).task { status := 0x51 } (raiseError 3 0x22 (handleCore (t / 2)) a 0 m₁))))
  ∧ ∀ (t : Nat) (e : TileEntry) (o : TileMemOp) (r : Nat) (bs : List Byte) (c : Core), o.tr = 0 →
    (rowNamed e.half o.tile.toNat r = true →
      (tileRowAt (placeRow t e o false r bs c) t e.half o.tile.toNat o.arr.toNat r).data =
        BitVec.ofNat 512 (ofBytes bs % 2 ^ ((o.cols.toNat + 1) * codeWidth o.fmt.toNat)))
    ∧ (rowNamed e.half o.tile.toNat r = false → placeRow t e o false r bs c = c)

/-! ## LLC slices and memory channels -/

/-- Misses are filled, granted, evicted and prefetched as the slices' rules say (11_memory_caches.md). Prefetches by
command, one line each, and the prefetch distance, run and stride in the slice's own lines are the model's reading
(log 26). -/
def Obligations.LlcServesMisses : Prop :=
  (∀ (s : State) (sl line x w t bytes : Nat) (rd : Reg) (signed : Bool) (p : PendingLoad),
    let k := sliceAt s.m sl
    let r : Request := { ask := .load t rd bytes signed, addr := x }
    alive s.m = true → dramReady s.m line = true → readGranted s.m line = true → lineOf x = line →
    k.miss line = some { line := line, waiters := [r] } → memPoison s.m line = 0 →
    w < 16 → k.usable w = true → k.wayLine (setOf line) w = none → k.find line = none →
    p ∈ (threadAt s.m t).loads → p.rd = rd → p.data = none →
    ∃ m l, Becomes (.llcFill sl line) s m ∧ (sliceAt m sl).find line = some l ∧ l.data = memBytes s.m line 128
      ∧ l.dirty = false ∧ (sliceAt m sl).miss line = none ∧ (sliceAt m sl).evicted = k.evicted
      ∧ m.mem = s.m.mem ∧ m.cores = s.m.cores
      ∧ ∃ q ∈ (threadAt m t).loads, q.rd = rd ∧ q.data = some
          (let v := ofBytes (((memBytes s.m line 128).drop (x % 128)).take bytes)
           if signed then BitVec.ofInt 64 (natSigned (8 * bytes) v) else BitVec.ofNat 64 v))
  ∧ (∀ (s : State) (sl : Nat) (before after : List Request) (r : Request),
    let k := sliceAt s.m sl
    let line := lineOf r.addr
    alive s.m = true → k.queue = before ++ r :: after → (∀ q ∈ before, grantable s.m sl q = false) →
    k.miss line = none → k.find line = none → k.entry line = none → k.underCap line = true →
    k.misses.length < sliceRegisters s.m →
    ∃ m, Becomes (.missRegisterGrant sl) s m ∧ (sliceAt m sl).queue = before ++ after
      ∧ (sliceAt m sl).misses = k.misses ++ [{ line := line, waiters := [r] }] ∧ (sliceAt m sl).lines = k.lines
      ∧ m.mem = s.m.mem ∧ m.threads = s.m.threads)
  ∧ (∀ (s : State) (sl line : Nat) (e : Evicted),
    let k := sliceAt s.m sl
    k.entry line = some e → alive s.m = true → e.sent = false → lineReady s.m line = true →
    (∀ r ∈ k.reds, lineOf r.addr ≠ line) → e.data.length = 128 → Memory.wf s.m.mem = true →
    ∃ m, Becomes (.evictionWriteBack sl line) s m ∧ memBytes m line 128 = e.data
      ∧ (∀ a, (a < line ∨ line + 128 ≤ a) → memGet m.mem a = memGet s.m.mem a) ∧ Memory.wf m.mem = true
      ∧ (sliceAt m sl).entry line = some { e with sent := true, redirty := false }
      ∧ (sliceAt m sl).lines = k.lines ∧ m.threads = s.m.threads ∧ m.cores = s.m.cores)
  ∧ (∀ (s : State) (sl line : Nat) (e : Evicted),
    let k := sliceAt s.m sl
    let later := e.redirty = true ∨ ∃ r ∈ k.reds, lineOf r.addr = line
    -- a line of a Basin stack gives its request register back
    let m₀ := if line < extBase then
      freeRegister (stackOf line) (dramRequest line forWriteBack) s.m else s.m
    k.entry line = some e → e.sent = true →
    (later → ∃ k', Becomes (.writeBackAcknowledge sl line) s (setSlice sl k' m₀)
        ∧ k'.entry line = some { e with sent := false, redirty := false })
    ∧ (¬ later → Becomes (.writeBackAcknowledge sl line) s
        (setSlice sl { k with evicted := k.evicted.filter fun x => x.line != line } m₀)))
  ∧ (∀ (s : State) (sl line : Nat),
    let k := sliceAt s.m sl
    let i := sliceIndex line
    let reach := 2 ^ Nat.min 3 k.pfDepth.toNat
    alive s.m = true → k.pfEn = true → line % 128 = 0 → plainMemory s.m line = true → homeSlice line = sl →
    (∃ r ∈ k.runs, let l := sliceIndex r.last
      (r.descends = some true ∧ i < l ∧ l ≤ i + reach) ∨ (r.descends = some false ∧ l < i ∧ i ≤ l + reach)) →
    k.find line = none → k.entry line = none → k.miss line = none → k.underCap line = true →
    k.misses.length < sliceRegisters s.m → (∀ q ∈ k.queue, k.wantsRegister q = false) →
    ∃ m, Becomes (.llcPrefetch sl line) s m
      ∧ (sliceAt m sl).misses = k.misses ++ [{ line := line, waiters := [{ ask := .prefetch, addr := line }] }]
      ∧ (sliceAt m sl).lines = k.lines ∧ m.mem = s.m.mem ∧ m.threads = s.m.threads)
  ∧ ∀ (s : State) (t va x : Nat) (d : List Byte × BitVec 4) (m₁ : Module), alive s.m = true → t < 384 → va < 2 ^ 48 →
    (threadAt s.m t).run = .running → (threadAt s.m t).priv.level = 2 → locateMachine s.m .read va = some (.mem x) →
    (∃ r, Sparse.find (coreAt s.m (t / 2)).follow t = some r ∧ r.ahead va = true) →
    l1Find (coreAt s.m (t / 2)) (lineOf x) = none → llcReadBy (t + 1) true (lineOf x) 0 s.m = some (d, m₁) →
    l1Victim (coreAt m₁ (t / 2)) (lineOf x) = none →
    ∃ m l, Becomes (.l1Prefetch t va) s m ∧ l1Find (coreAt m (t / 2)) (lineOf x) = some l ∧ l.data = d.1 ∧ l.mask = 0
      ∧ m.mem = m₁.mem ∧ m.threads = m₁.threads

/-- LLC ways power down and up in sequence, and DRAM channels are scrubbed, refreshed and retrained
(11_memory_caches.md, 18_clocks_power_reset.md). That a scrub and a refresh touch only their channel, and that a scrub
takes a request register of its stack, are the model's reading (log 27). -/
def Obligations.WaysAndChannelsFollowTheirSequences : Prop :=
  (∀ (s : State) (sl : Nat) (v : BitVec 32) (down : Bool), sl < 64 →
    let k := sliceAt s.m sl
    let w : BitVec 16 := (if BitVec.ofNat 16 v.toNat = 0 then 1 else BitVec.ofNat 16 v.toNat) &&& ~~~k.retired
    let i : Instr := if down then .wayPowerDown sl v else .wayPowerUp sl v
    (k.goingOff = 0 → k.goingOn = 0 → Becomes i s
      (setSlice sl { k with wayEn := w, goingOff := k.wayOn &&& ~~~w, goingOn := w &&& ~~~k.wayOn } s.m))
    ∧ ((k.goingOff ≠ 0 ∨ k.goingOn ≠ 0) → Becomes i s (setSlice sl { k with nextEn := some w } s.m)))
  ∧ (∀ (s : State) (sl : Nat),
    let k := sliceAt s.m sl
    let off (l : LlcLine) : Bool := k.goingOff.getLsbD l.way
    Memory.wf s.m.mem = true → (k.goingOff ≠ 0 ∨ k.goingOn ≠ 0) → k.nextEn = none →
    (∀ l ∈ k.lines, off l = true → k.busy l.line = false ∧ (l.dirty = true → lineReady s.m l.line = true)) →
    ∃ m, Becomes (.waySequenceComplete sl) s m ∧
      let k' := sliceAt m sl
      k'.lines = k.lines.filter (fun l => !off l) ∧ k'.wayOn = (k.wayOn &&& ~~~k.goingOff ||| k.goingOn)
      ∧ k'.goingOff = 0 ∧ k'.goingOn = 0 ∧ k'.evicted = k.evicted ∧ k'.misses = k.misses
      ∧ (∀ a, (∀ l ∈ k.lines, off l = true → l.dirty = true → a < l.line ∨ l.line + l.data.length ≤ a) →
          memGet m.mem a = memGet s.m.mem a)
      ∧ m.threads = s.m.threads)
  ∧ (∀ (s : State) (line ch bank : Nat),
    (alive s.m = true → lineReady s.m line = true → ∃ m, Becomes (.patrolScrub line) s m
      ∧ dramAt m (dramKey line) = (let d := dramAt s.m (dramKey line)
        let q := scrubRequester line
        { d with selfRefresh := false, lastAccess := s.m.time
                 transfers := Sparse.set d.transfers q (Sparse.get 0 d.transfers q + 1) })
      ∧ (∀ c, c ≠ dramKey line → dramAt m c = dramAt s.m c)
      ∧ m = { s.m with drams := m.drams, basins := m.basins, stats := m.stats, events := m.events }
      ∧ (extBase ≤ line → m = { s.m with drams := m.drams }))
    ∧ (ch < 320 → Becomes (.refresh ch bank) s (setDram ch { dramAt s.m ch with refreshed := bank } s.m))
    ∧ (ch < 320 → s.m.clocks.standby = true → 10000 ≤ (s.m.time - (dramAt s.m ch).lastAccess).toNat →
        Becomes (.selfRefreshEntry ch) s (setDram ch { dramAt s.m ch with selfRefresh := true } s.m)))
  ∧ ∀ (s : State) (ch : Nat), ch < 64 →
    let d := dramAt s.m ch
    (alive s.m = true → d.trained = true → d.blocked = false → d.lost = false →
      Becomes (.wckDriftCheck ch true) s (setDram ch { d with blocked := true, attempts := 0 } s.m)
      ∧ Becomes (.wckDriftCheck ch false) s s.m)
    ∧ (d.blocked = true → d.lost = false →
        Becomes (.retrainComplete ch true) s (setDram ch { d with blocked := false, attempts := 0 } s.m)
        ∧ (d.attempts < 3 → Becomes (.retrainComplete ch false) s (setDram ch { d with attempts := d.attempts + 1 } s.m))
        ∧ (3 ≤ d.attempts → s.m.errors.fatal = none → ∃ m r, Becomes (.retrainComplete ch false) s m
            ∧ (dramAt m ch).lost = true ∧ alive m = false ∧ m.errors.fatal = some r ∧ r.cls = 0xF ∧ r.dcode = 0xF4
            ∧ r.addr = BitVec.ofNat 64 ch ∧ r.info = BitVec.ofNat 48 (d.attempts + 1)))

/-! ## Basin jobs and engines -/

/-- A job is posted, checked, started, run in chunks, cleaned, back-invalidated and completed (12_basin.md). That
JOB_START makes the checks and the start in one command, and the order of chunks and cleans, are the model's reading
(log 38). -/
def Obligations.BasinJobsRunTheirCourse : Prop :=
  (∀ (s : State) (st t : Nat) (v : Word), alive s.m = true → st < 8 → stackPresent s.m.board.part st = true →
    unitGated s.m (handleStack st) = false →
    let k := stackAt s.m st
    let th := threadAt s.m t
    let hostPost : Module := setStack st { k with hostPost := true } s.m
    Becomes (.jobPost none st v) s hostPost
    ∧ (th.priv.level = 2 → Becomes (.jobPost (some t) st v) s hostPost)
    ∧ (th.priv.level ≠ 2 → (k.jobs.filter fun j => j.kind.isNone && !j.started && j.ending.isNone).length < 256 →
        ∃ m j, Becomes (.jobPost (some t) st v) s m ∧ (stackAt m st).jobs = k.jobs ++ [j]
          ∧ j.addr = BitVec.ofNat 64 (v.toNat % 2 ^ 48 / 64 * 64) ∧ j.thread = t ∧ j.task = th.task
          ∧ j.asid = th.priv.asid ∧ j.level = th.priv.level ∧ j.started = false ∧ j.ending = none
          ∧ m.mem = s.m.mem ∧ m.threads = s.m.threads))
  ∧ (∀ (s : State) (st : Nat) (j j' : Job) (why : Option (Nat × Nat)) (m₁ : Module), stackRuns s.m st = true →
    nextOf (stackAt s.m st) false = some j → j.checked = false → j.suspended = [] → j.record ≠ [] → j.order = false →
    (checkJob j (j.reach st)).go s.m = (.ok (why, j'), m₁) → j'.id = j.id → (jobAt m₁ st j.id).isSome = true →
    stackRuns m₁ st = true →
    ∃ m x, Becomes (.jobStart st) s m ∧ jobAt m st j.id = some x ∧ x.record = j'.record
      ∧ (match why with
          | none => x.checked = true ∧ x.total = jobTotal j'
              ∧ ((stackAt m₁ st).jobs.length = 1 → (stackAt m₁ st).engines = [] → j.complete = [] → x.started = true)
          | some (status, off) => x.started = false ∧ x.ending = some (BitVec.ofNat 16 status, off)))
  ∧ (∀ (j : Job) (r : Reach) (m : Module) (off : Nat),
    let fails (x : Nat × Nat) : Prop := (checkJob j r).go m = (.ok (some x, j), m)
    let known := 1 ≤ j.op ∧ j.op ≤ 10
    let version := byteAt j.record 1 / 16 = m.host.select.toNat
    (¬ known → fails (0x40, 0)) ∧ (known → ¬ version → fails (0x41, 0))
    ∧ (known → version → firstNonzero j.record (reservedJob j.op) = some off → fails (0x42, off)))
  ∧ (∀ (s : State) (st e : Nat) (r : Running) (j : Job), stackRuns s.m st = true →
    Sparse.find (stackAt s.m st).engines e = some r → r.done = true → jobAt s.m st r.job = some j → j.started = true →
    ∃ m, Becomes (.chunkComplete st e) s m ∧ jobAt m st r.job = some { j with complete := r.chunk :: j.complete }
      ∧ m.mem = s.m.mem ∧ (waitingPost s.m st = none → m.threads = s.m.threads))
  ∧ (∀ (s : State) (st g : Nat) (e : GatherLine), stackRuns s.m st = true → g < 4 →
    (gatherLines s.m st g).find? (·.open_) = some e → e.stale = false → dramReady s.m e.line = true →
    holdsRegister s.m e.line forGather = true → memPoison s.m e.line = 0 →
    ∃ m, Becomes (.gatherPrefetch st g) s m ∧ m.mem = s.m.mem ∧ gatherLines m st g =
      (gatherLines s.m st g).map fun x =>
        if x.line == e.line then { x with open_ := false, data := memBytes s.m e.line 128 } else x)
  ∧ (∀ (s : State) (st id : Nat) (j : Job) (m₁ : Module), jobAt s.m st id = some j → stackRuns s.m st = true →
    j.started = true → j.kind = none → j.ending = none →
    (j.wantsClean = true → j.cleaned = false → j.suspended = [] → (cleanRanges j (j.reach st)).go s.m = (.ok (), m₁) →
      Becomes (.regionClean st id) s (setJob st { j with cleaned := true } m₁))
    ∧ (j.op = 10 → j.complete = [] → j.suspended = [] → (j.wantsClean = true → j.cleaned = true) →
        (cleanLines j (j.reach st)).go s.m = (.ok (), m₁) →
        Becomes (.clean st id) s (setJob st { j with complete := [0] } m₁)))
  ∧ (∀ (s : State) (st id line : Nat) (j : Job), jobAt s.m st id = some j → stackRuns s.m st = true → j.kind = none →
    jobOver s.m st j = true → j.direct = [line] → lineReady s.m line = true → st < 8 →
    (sliceAt s.m (homeSlice line)).miss line = none →
    ∃ m x, Becomes (.backInvalidate st id) s m ∧ (sliceAt m (homeSlice line)).find line = none
      ∧ jobAt m st id = some x ∧ x.direct = [])
  ∧ (∀ (s : State) (st id : Nat) (j : Job) (m₁ : Module),
    -- the engines have taken what is assigned to them, and left what has ended
    let m₀ := assignAll st s.m
    jobAt m₀ st id = some j → stackRuns m₀ st = true →
    j.kind = none → jobOver m₀ st j = true → j.direct = [] → j.suspended = [] → j.record ≠ [] → j.noDone = false →
    (∀ n, j.ending ≠ some (0x12, n) ∧ j.ending ≠ some (0x51, n)) → id < (stackAt m₁ st).nextId →
    let status := match j.ending with
      | some (x, _) => x.toNat
      | none => 0
    let count := match j.ending with
      | some (_, n) => n
      | none => j.count
    let flags := (if j.conflict then 1 else 0) + (if j.squall || m₀.squall.active then 2 else 0)
    (if j.doneAt = 0 then m₁ = setJob st j m₀ else
      (engineWrite { j.reach st with direct := false } j.doneAt
        (bytesOf 2 status ++ [0] ++ bytesOf 1 flags ++ bytesOf 4 count)).go (setJob st j m₀) = (.ok (), m₁)) →
    ∃ m, Becomes (.jobComplete st id) s m ∧ (∀ x ∈ (stackAt m st).jobs, x.id ≠ id) ∧ m.mem = m₁.mem)
  ∧ ∀ (s : State) (st : Nat) (before after : List DramRequest) (r : DramRequest),
    let k := stackAt s.m st
    let allowed (q : DramRequest) : Prop := (k.held.filter fun h => h.bank == q.bank).length < stackCap k
    alive s.m = true → k.waiting = before ++ r :: after → k.held.length < stackRegisters s.m → allowed r →
    (∀ q ∈ before, ¬ allowed q) →
    Becomes (.requestRegisterGrant st) s
      (setStack st { k with held := k.held ++ [r], waiting := before ++ after } s.m)

/-- Engines perform the job operations' arithmetic, and arbiters grant by tier, priority and turn (12_basin.md,
13_arbiter.md, 14_training_support.md). The arbiter cycle that AGING, QUOTA_WINDOW_WRAP and COMMIT_APPLY belong to
(log 14), and FP32 results without a narrowing step, FILL's copies and a chunk's all-or-nothing write (log 40), are
the model's reading. -/
def Obligations.EnginesAndArbitersAct : Prop :=
  (∀ (s : State) (st e : Nat) (r : Running) (j : Job) (m₁ : Module),
    let m₀ := assignAll st s.m
    stackRuns m₀ st = true → Sparse.find (stackAt m₀ st).engines e = some r → jobAt m₀ st r.job = some j →
    r.done = false → j.kind = none → j.ending = none →
    (j.wantsClean = true → j.cleaned = true) →
    let performs (op : Nat) (i : Instr) (act : Nat → Job → Nat → Reach → Acc Unit) : Prop :=
      j.op = op → (act e j r.chunk (j.reach st)).go m₀ = (.ok (), m₁) →
      Becomes i s (setStack st { stackAt m₁ st with
        engines := Sparse.set (stackAt m₁ st).engines e { r with done := true } } m₁)
    performs 1 (.convert st e) convertChunk ∧ performs 2 (.axpby st e) axpbyChunk ∧ performs 3 (.jobMul st e) mulChunk
    ∧ performs 4 (.reduce st e) reduceAct ∧ performs 5 (.fill st e) fillChunk ∧ performs 6 (.finite st e) finiteChunk
    ∧ performs 7 (.stash st e) stashAct ∧ performs 8 (.unstash st e) unstashAct)
  ∧ (∀ (s : State) (st id row : Nat) (j k : Job) (m₁ : Module), jobAt s.m st id = some j → stackRuns s.m st = true →
    j.op = 9 → gatherJob s.m st j.first = some j → (j.wantsClean = true → j.cleaned = true) → nextRow j = some row →
    (gatherRow j row (j.reach st)).go s.m = (.ok (), m₁) → jobAt m₁ st id = some k →
    Becomes (.gather st id) s (assignAll st (setJob st { k with complete := row :: k.complete } m₁)))
  ∧ (∀ (e rm : Nat) (ovs : Bool) (i a b zf x y : Nat) (g : Sparse Gen), rm ≠ 2 →
    let md : Fp.Mode := { rm := rm, ovs := ovs, draw := 0 }
    let mul (p q : Nat) : Nat := (Fp.mul Fp.fp32 md p q).1
    let out (v : Nat) : Nat := if zf = 0 then v else (Fp.encodeCode zf md (Fp.decode Fp.fp32 v)).1
    (convertElem a zf (stepMode e rm ovs i) x).run g = (out (mul a x), g)
    ∧ (axpbyElem a b zf (stepMode e rm ovs i) x y).run g = (out (Fp.fma Fp.fp32 md (mul b y) a x).1, g)
    ∧ (mulElem a zf (stepMode e rm ovs i) x y).run g = (out (mul a (mul x y)), g)
    ∧ (narrow zf (stepMode e rm ovs i) a).run g = (out a, g))
  -- bytes read from a line, and bytes written into one
  ∧ (∀ (r : Reach) (m : Module) (va a n : Nat) (k : LlcLine), (engineAt r .read va).go m = (.ok a, m) →
    r.straight a = false → a % 128 = va % 128 → va % 128 + n ≤ 128 → LineStands m (lineOf a) k → k.data.length = 128 →
    touchesPoison k.poison (a % 128) n = false → n ≠ 0 →
    ∃ m', (engineRead r va n).go m = (.ok ((k.data.drop (a % 128)).take n), m') ∧ m'.mem = m.mem
      ∧ ∀ line, heldLine line m' = heldLine line m)
  ∧ (∀ (r : Reach) (m : Module) (va a : Nat) (bytes : List Byte), (engineAt r .write va).go m = (.ok a, m) →
    a % 128 = va % 128 → va % 128 + bytes.length ≤ 128 → bytes ≠ [] →
    let within (x base : Nat) : Prop := base ≤ x ∧ x < base + bytes.length
    (∀ k, r.straight a = false → LineStands m (lineOf a) k →
      ∃ m', (engineWrite r va bytes).go m = (.ok (), m') ∧ m'.mem = m.mem
        ∧ (∀ i, i < 128 → (within i (a % 128) → byteAt (heldLine (lineOf a) m').1 i = byteAt bytes (i - a % 128))
          ∧ (¬ within i (a % 128) → byteAt (heldLine (lineOf a) m').1 i = byteAt k.data i))
        ∧ ∀ line, line ≠ lineOf a → heldLine line m' = heldLine line m)
    ∧ (r.straight a = true → lineReady m (lineOf a) = true → Memory.wf m.mem = true →
      ∃ m', (engineWrite r va bytes).go m = (.ok (), m') ∧ Memory.wf m'.mem = true ∧ ∀ x,
        (within x a → (memGet m'.mem x).toNat = byteAt bytes (x - a)) ∧ (¬ within x a → memGet m'.mem x = memGet m.mem x)))
  -- REDUCE
  ∧ (∀ (e c : Nat) (j : Job) (r : Reach) (m m₁ : Module) (xs : List Nat),
    (readElems r j j.x j.xf c).go m = (.ok xs, m₁) → jobAt m₁ r.st j.id = some j →
    let md : Fp.Mode := { rm := if j.rm = 2 then 0 else j.rm, ovs := false, draw := 0 }
    let join (a b : Nat) : Nat × Fp.Flags :=
      if j.sub = 1 then (Fp.maxNanWins Fp.fp32 a b, 0) else Fp.add Fp.fp32 md a b
    let term (x : Nat) : Nat :=
      if j.sub = 1 then (if (Fp.decode Fp.fp32 x).isNan then Fp.canonicalNan Fp.fp32 else x % 2 ^ 31)
      else if j.sub = 2 then (Fp.mul Fp.fp32 md x x).1 else x
    let part := ((orderedSum join 16 (xs.zipIdx.map fun p => (p.2, term (widen j.xf p.1)))).1).getD 0
    let parts := Sparse.set j.partials c (BitVec.ofNat 32 part)
    let z := ((treeFold join 21 (parts.map fun p => some p.2.toNat)).1).getD 0
    (parts.length ≠ j.total → (reduceAct e j c r).go m = (.ok (), setJob r.st { j with partials := parts } m₁))
    ∧ (parts.length = j.total → j.tv = false → ∀ m₂ k, (engineWrite r j.z (bytesOf 4 z)).go m₁ = (.ok (), m₂) →
        jobAt m₂ r.st j.id = some k → (reduceAct e j c r).go m = (.ok (), setJob r.st { k with partials := parts } m₂)))
  -- FINITE
  ∧ (∀ (e c : Nat) (j : Job) (r : Reach) (m m₁ : Module) (xs : List Nat),
    (readElems r j j.x j.xf c).go m = (.ok xs, m₁) →
    let vs := xs.map (widen j.xf)
    let b := stepBank m₁ j.step
    let layer := BitVec.ofNat 12 j.alpha
    let entry (m : Module) : Pend := Sparse.get {} (stackAt m (j.tensor / 512)).pend (4096 * bankIndex j.step + j.tensor)
    ((∀ x ∈ vs, Fp.finite32 x = true) → ∃ m', (finiteChunk e j c r).go m = (.ok (), m') ∧ m'.gate = m₁.gate
      ∧ m'.mem = m₁.mem ∧ (j.tv = false → m' = m₁)
      ∧ (j.tv = true → xs ≠ [] → (entry m').v = true ∧ (entry m').nonfin = (entry m₁).nonfin
          ∧ (entry m').p.toNat = vs.foldl (fun a x => max a (x % 2 ^ 31)) (entry m₁).p.toNat))
    ∧ (j.tv = false → (∃ x ∈ vs, Fp.finite32 x = false) → b.state = .collecting → b.step = j.step →
        ∃ m', (finiteChunk e j c r).go m = (.ok (), m') ∧ m'.mem = m₁.mem ∧ m'.basins = m₁.basins
          ∧ stepBank m' j.step =
            { b with nonfin := true, layer := if b.nonfin = true ∧ b.layer < layer then b.layer else layer }))
  -- STASH, without stochastic rounding
  ∧ (∀ (eng c : Nat) (j : Job) (r : Reach) (m mb m₁ : Module) (sc inv : Nat) (xs : List Nat),
    let e := j.stashEntry
    stashSr e = false →
    (if stashScaled e then ∃ ma, (readScale r m (stashTensor e) 64).go m = (.ok sc, ma)
        ∧ (readScale r m (stashTensor e) 68).go ma = (.ok inv, mb)
     else sc = Fp.one32 ∧ inv = Fp.one32 ∧ mb = m) →
    (readElems r j j.x j.xf c).go mb = (.ok xs, m₁) →
    let src := xs.map (widen j.xf)
    let zero (x : Nat) : Bool := (Fp.decode Fp.fp32 x).isZero
    let vals := (src.filter fun x => !(stashBitmap e && zero x)).map fun x =>
      (Fp.mulVal (Fp.decode Fp.fp32 x) (Fp.decode Fp.fp32 sc)).1
    let md : Fp.Mode := { rm := 0, ovs := stashOvs e, draw := 0 }
    let mx := Fp.isMx (stashFmt e)
    let scale (b : Nat) : Nat :=
      let blk := (vals.drop (32 * b)).take 32
      if blk.any (·.nonFinite) then 0xFF
      else (((blk.filter fun v => !v.isZero).map fun v => Fp.log2Val v - Fp.emaxOf (stashFmt e)).foldl max (-127) + 127).toNat
    let stored (p : Fp.Val × Nat) : Nat :=
      if !mx then (Fp.encodeCode (stashFmt e) md p.1).1
      else if scale (p.2 / 32) = 0xFF then 0
      else (Fp.encodeMx (mxFmt (stashFmt e)) md (p.1.scale (127 - (scale (p.2 / 32) : Int)))).1
    let scales := ((List.range (ceilDiv vals.length 32)).map fun b => bytesOf 1 (scale b)).flatten
    let slot := j.z + 4864 * c
    let head := bytesOf 4 xs.length ++ bytesOf 4 vals.length ++ bytesOf 1 (stashFmt e)
      ++ bytesOf 1 ((if stashBitmap e then 1 else 0) + (if stashScaled e then 4 else 0))
      ++ bytesOf 2 (j.alpha % 4096) ++ bytesOf 4 inv ++ bytesOf 6 j.step.toNat ++ List.replicate 106 0
    (∀ p ∈ slotPieces e vals.length, (engineProbe r .write (slot + p.1) p.2).go m₁ = (.ok (), m₁)) →
    ∃ bits : List Byte, bits.length = 512
      ∧ (∀ i, i < 4096 → natBit (byteAt bits (i / 8)) (i % 8) = (decide (i < src.length) && !zero (src.getD i 0)))
      ∧ (stashChunk eng j c r).go m = (do
          engineWrite r slot head
          if stashBitmap e then engineWrite r (slot + 128) bits else pure ()
          if mx then engineWrite r (slot + 640) scales else pure ()
          engineWrite r (slot + 768) ((vals.zipIdx.map fun p => bytesOf 1 (stored p)).flatten)
          if stashTv e then modify (foldMagnitudes j.step (stashTensor e) true src) else pure () : Acc Unit).go
            (setStack r.st (stackAt m₁ r.st) m₁))
  -- UNSTASH
  ∧ (∀ (e c : Nat) (j : Job) (r : Reach) (m m₁ : Module) (h : List Byte),
    (engineRead r (j.x + 4864 * c) 22).go m = (.ok h, m₁) →
    let n := (j.span c).2
    let slot := j.x + 4864 * c
    let code := stashFmt j.stashEntry
    let sound := field h 0 4 = n ∧ field h 10 2 = j.alpha % 4096 ∧ byteAt h 8 = code
    (¬ sound → ∀ k, jobAt m₁ r.st j.id = some k →
      (unstashAct e j c r).go m = (.ok (), setJob r.st { k with ending := some (0x43, 24), suspended := [] } m₁))
    ∧ (sound → ∀ (bits scales data : List Byte) (m₂ m₃ m₄ : Module),
      let bitmap := natBit (byteAt h 9) 0
      let keep (i : Nat) : Bool := !bitmap || natBit (byteAt bits (i / 8)) (i % 8)
      let rank (i : Nat) : Nat := ((List.range i).filter keep).length
      let mx := Fp.isMx code
      (if bitmap then (engineRead r (slot + 128) 512).go m₁ = (.ok bits, m₂) else m₂ = m₁) →
      (if mx then (engineRead r (slot + 640) (ceilDiv (rank n) 32)).go m₂ = (.ok scales, m₃) else m₃ = m₂) →
      (engineRead r (slot + 768) (rank n)).go m₃ = (.ok data, m₄) → data.length = rank n →
      let md : Fp.Mode := { rm := j.rm, ovs := false, draw := 0 }
      let value (k : Nat) : Nat :=
        let s := if mx then byteAt scales (k / 32) else 127
        let v := (Fp.decode (mxFmt code) (byteAt data k)).scale ((s : Int) - 127)
        if s = 0xFF then Fp.canonicalNan (mxFmt j.zf)
        else (Fp.encodeCode j.zf md (Fp.mulVal v (Fp.decode Fp.fp32 (field h 12 4))).1).1
      let w := codeBytes j.zf
      (unstashAct e j c r).go m = (engineWrite r (j.z + w * (4096 * c))
        (((List.range n).map fun i => bytesOf w (if keep i then value (rank i) else 0)).flatten)).go m₄))
  -- GATHER
  ∧ (∀ (j : Job) (row i : Nat) (r : Reach) (m ma m₁ : Module) (bs : List Byte),
    let w := codeBytes j.xf
    let put (c : Nat) : Nat := j.z + (if natBit j.sub 0 then c * j.count + row else row * j.alpha + c) * w
    (if natBit j.sub 1 then ∃ b, (engineRead r (j.y + 4 * row) 4).go m = (.ok b, ma) ∧ i = ofBytes b
     else i = row ∧ ma = m) → j.op = 9 →
    (streamRead r j.first (intLow 64 (j.x + (i : Int) * natSigned 32 j.beta)) (j.alpha * w)).go ma = (.ok bs, m₁) →
    bs.length = j.alpha * w →
    (natBit j.sub 0 = true → (∀ c, c < j.alpha → (engineProbe r .write (put c) w).go m₁ = (.ok (), m₁)) →
      (gatherRow j row r).go m =
        ((List.range j.alpha).forM fun c => engineWrite r (put c) ((bs.drop (c * w)).take w)).go m₁)
    ∧ (natBit j.sub 0 = false → (engineProbe r .write (put 0) (j.alpha * w)).go m₁ = (.ok (), m₁) →
      (gatherRow j row r).go m = (engineWrite r (put 0) bs).go m₁))
  ∧ (∀ (x : Arbiter) (a : Nat) (l : List Nat), (∀ q ∈ l, q < 8) → l ≠ [] → x.holder a = none →
    ∃ w ∈ l, x.choose a l = some w ∧ ∀ q ∈ l, (x.req a w).tier ≤ (x.req a q).tier
      ∧ ((x.req a w).tier = (x.req a q).tier → (x.req a q).prio.toNat ≤ (x.req a w).prio.toNat))
  ∧ (∀ (s : State) (a : Nat) (arr : List (Nat × Nat)), arbRuns s.m a = true →
    let d := dataPhase a arr s.m
    let x := (arbAt d a).applyCommit a
    let w := x.choose a (x.pendingReqs a)
    let wraps : Bool := decide (1023 ≤ x.window)
    knob d 1 = false →
    ∃ m, Becomes (.arbiterCycle a arr) s m ∧ (arbAt m a).owner =
          (if w = none ∧ x.hold = true ∧ (x.holder a).isSome = true then x.owner else w)
      ∧ (arbAt m a).window = (if wraps then 0 else x.window + 1)
      ∧ (∀ q, arbListed a q = true → q < 8 →
          let r := x.req a q
          let r' := (arbAt m a).req a q
          r'.prio = r.prio ∧ r'.quota = r.quota
          ∧ (w = some q → r'.age = 0 ∧ r'.left = 0 ∧ r'.backoff = 4
              ∧ r'.used = if wraps then 0 else Nat.min (r.used + 1) 1024)
          ∧ (w ≠ some q → r'.age = (if r.pending then Nat.min (r.age + 1) 1024 else r.age)
              ∧ (r.pending = true → r.tier = 1 → r'.left = r.backoff ∧ r'.backoff = Nat.min (2 * r.backoff) 4096)
              ∧ (¬ (r.pending = true ∧ r.tier = 1) → r'.left = r.left - 1 ∧ r'.backoff = r.backoff)
              ∧ r'.used = if wraps then 0 else r.used)))
  ∧ ∀ (s : State) (a : Nat) (v : BitVec 32),
    (arbRuns s.m a = true → (arbAt s.m a).window = 1023 → (arbAt s.m a).commit ≠ some true →
      ∃ m, Becomes (.quotaWindowWrap a) s m ∧ (arbAt m a).window = 0
        ∧ ∀ q, arbListed a q = true → q < 8 → ((arbAt m a).req a q).used = 0)
    ∧ (arbRuns s.m a = true → agingDue a s.m = true → ∃ m q, Becomes (.aging a) s m ∧ arbListed a q = true
        ∧ ((arbAt s.m a).req a q).age = 1023 ∧ ((arbAt m a).req a q).age = 1024)
    ∧ (arbReached s.m a = true → v.getLsbD 0 = true → Becomes (.arbCommit a v) s (setArb a { arbAt s.m a with
        commit := some (v.getLsbD 1 || (arbAt s.m a).commit.getD false) } s.m))
    ∧ (∀ h, a < 324 → arbUnit s.m a = some h → unitGated s.m h = true →
        Becomes (.arbCommit a v) s (touchGated h s.m))
    ∧ (arbRuns s.m a = true → (arbAt s.m a).commit.isSome = true → ∃ m, Becomes (.commitApply a) s m
        ∧ (arbAt m a).commit = none ∧ ∀ q, arbListed a q = true → q < 8 →
          ((arbAt m a).req a q).prio = ((arbAt s.m a).req a q).shadowPrio
          ∧ ((arbAt m a).req a q).quota = ((arbAt s.m a).req a q).shadowQuota)

/-! ## The Step Gate -/

/-- The Step Gate takes folds, votes and results, resolves once, and commits the step (14_training_support.md,
10_formats_scaling.md). That a VOTE from no child is discarded, and how long a first copy is remembered, are the
model's choices (log 42). -/
def Obligations.StepGateActs : Prop :=
  (∀ (s : State) (who : Option Nat) (v : BitVec 32), alive s.m = true →
    (∀ t, who = some t → (threadAt s.m t).priv.level = 2 ∨ roleStep s.m t = none) →
    Becomes (.gpFold who v) s (edgeAll 244 { s.m with gate := { s.m.gate with noRole := true } }))
  ∧ (∀ (s : State) (t : Nat) (v : BitVec 32) (step : BitVec 48), alive s.m = true →
    (threadAt s.m t).priv.level ≠ 2 → roleStep s.m t = some step →
    let b := stepBank s.m step
    let other := bankAt s.m.gate (1 - bankIndex step)
    let layer := BitVec.ofNat 12 (v.toNat % 4096)
    let free := b.state = .idle ∨ b.state = .refused
    let e : GateEvent := .fold t step (v.getLsbD 31) layer
    let fresh : Bank := { state := .collecting, step := step, since := some s.m.time }
    ∃ m, Becomes (.gpFold (some t) v) s m ∧ bankAt m.gate (1 - bankIndex step) = other
      ∧ m.gate.stepCount = s.m.gate.stepCount ∧ m.mem = s.m.mem ∧ m.threads = s.m.threads ∧ m.basins = s.m.basins
      ∧ (free → stepBank m step = (if v.getLsbD 31 = true then { fresh with nonfin := true, layer := layer } else fresh))
      ∧ (b.state = .collecting → b.step = step → v.getLsbD 31 = false → stepBank m step = b)
      ∧ (b.state = .collecting → b.step = step → v.getLsbD 31 = true → stepBank m step =
          { b with nonfin := true, layer := if b.nonfin = true ∧ b.layer < layer then b.layer else layer })
      ∧ (¬ free → b.step ≠ step → stepBank m step = b ∧ m.gate.late = s.m.gate.late
          ∧ m.gate.waiting = s.m.gate.waiting ++ [e])
      ∧ (b.state = .sent ∨ b.state = .opened → b.step = step → stepBank m step = b ∧ m.gate.late = true))
  ∧ (∀ (s : State) (b t : Nat) (v : BitVec 32), b < 2 → t < 4096 → stackPresent s.m.board.part (t / 512) = true →
    let entry (m : Module) (k : Nat) : Pend := Sparse.get {} (stackAt m (t / 512)).pend k
    let p := entry s.m (4096 * b + t)
    (unitGated s.m (handleStack (t / 512)) = true → Becomes (.scAmax b t v) s (touchGated (handleStack (t / 512)) s.m))
    ∧ (unitGated s.m (handleStack (t / 512)) = false → ∃ m, Becomes (.scAmax b t v) s m
        ∧ m.mem = s.m.mem ∧ m.threads = s.m.threads ∧ m.gate = s.m.gate
        ∧ (∀ k, k ≠ 4096 * b + t → entry m k = entry s.m k) ∧ (∀ u, u ≠ t / 512 → stackAt m u = stackAt s.m u)
        ∧ let q := entry m (4096 * b + t)
          if v.toNat / 2 ^ 23 % 256 = 255 then q = { p with nonfin := true }
          else q.v = true ∧ q.nonfin = p.nonfin ∧ q.p.toNat = max p.p.toNat (v.toNat % 2 ^ 31)))
  ∧ (∀ (s : State) (v : Word),
    let n := v.toNat % 2 ^ 48
    Becomes (.gvStepcntLoad v) s
      (if s.m.gate.stepCount = 0 ∧ 1 ≤ n ∧ n ≤ 2 ^ 48 - 2
       then { s.m with gate := { s.m.gate with stepCount := BitVec.ofNat 48 n } }
       else { s.m with gate := { s.m.gate with loadRej := true } }))
  ∧ (∀ (s : State) (src : BitVec 12) (p : List Byte) (x : Option Msg) (m₁ : Module), alive s.m = true →
    takeMsg (fun y => y.type == 0x30 && y.src == src && y.payload == padSlots p) s.m = some (x, m₁) →
    let step := BitVec.ofNat 48 (field p 4 6)
    (controlReserved 0x30 p = false → Becomes (.vote src p) s
      (if firstCopy m₁ src 0x30 step = true
       then receiveVote src (readVote p) (noteCopy src 0x30 step (sendAck 0x30 src step m₁))
       else sendAck 0x30 src step m₁))
    ∧ (controlReserved 0x30 p = true →
        Becomes (.vote src p) s (refuseMsg none { type := 0x30, dst := m₁.fabric.node, src := src } m₁)))
  ∧ (∀ (src : BitVec 12) (v : Vote) (m : Module), src ∉ m.gate.children → receiveVote src v m = discardEvent false m)
  ∧ (∀ (s : State) (p : List Byte) (x : Option Msg) (m₁ : Module), alive s.m = true →
    takeMsg (fun y => y.type == 0x31 && y.payload == padSlots p) s.m = some (x, m₁) →
    (x.isSome = true ∨ m₁.gate.root = false) →
    let step := BitVec.ofNat 48 (field p 4 6)
    let src := match x with
      | some y => y.src
      | none => m₁.gate.parent
    (controlReserved 0x31 p = false → Becomes (.result p) s
      (if firstCopy m₁ src 0x31 step = true
       then receiveResult p (noteCopy src 0x31 step (sendAck 0x31 src step m₁))
       else sendAck 0x31 src step m₁))
    ∧ (controlReserved 0x31 p = true →
        Becomes (.result p) s (refuseMsg none { type := 0x31, dst := m₁.fabric.node, src := src } m₁)))
  ∧ (∀ (step : BitVec 48) (r : Report) (m : Module),
    let b := stepBank m step
    let busy := b.state = .collecting ∨ b.state = .sent ∨ b.state = .opened
    (busy → b.step ≠ step → applyResult step r m = discardEvent false m)
    ∧ ((busy → b.step = step) → r.reason = 0 →
        let m' := applyResult step r m
        (stepBank m' step).state = .opened ∧ (stepBank m' step).step = step ∧ (stepBank m' step).report = r
        ∧ m'.gate.stepCount = m.gate.stepCount ∧ m'.mem = m.mem ∧ m'.threads = m.threads
        ∧ ∀ st k, k / 4096 = bankIndex step →
            Sparse.find (stackAt m' st).pend k = none
            ∧ match Sparse.find (stackAt m' st).took k with
              | some v => (k, v) ∈ (stackAt m st).pend
              | none => ∀ v, (k, v) ∉ (stackAt m st).pend))
  ∧ (∀ (step : BitVec 48) (own : Vote) (kids : List Vote) (m : Module),
    let all := own :: kids
    let v := (combineVotes step own kids m).1
    v.step = step ∧ (v.finite = true ↔ ∀ x ∈ all, x.finite = true)
    ∧ (∀ x ∈ all, v.min ≤ x.min ∧ x.max ≤ v.max) ∧ (∃ x ∈ all, v.min = x.min) ∧ (∃ x ∈ all, v.max = x.max)
    ∧ v.members = all.foldr (fun x n => x.members + n) 0
    ∧ (v.finite = false → ∃ x ∈ all, x.finite = false ∧ v.node = x.node ∧ v.layer = x.layer
        ∧ ∀ y ∈ all, y.finite = false → x.node ≤ y.node))
  ∧ (∀ (n : BitVec 11) (v : Vote),
    (v.members ≠ n ∨ v.min ≠ v.max → reasonOf n v = 2)
    ∧ (v.members = n → v.min = v.max → reasonOf n v =
        (if v.max.toNat = 2 ^ 48 - 1 then 3 else if v.finite = true then 0 else 1)))
  ∧ (∀ (s : State) (b : Nat) (own : Vote) (t : Word),
    let k := bankAt s.m.gate b
    b < 2 → alive s.m = true → s.m.gate.root = true → k.state = .collecting → k.cast = some own → k.since = some t →
    s.m.gate.timeout ≠ 0 → millis s.m.gate.timeout.toNat ≤ (s.m.time - t).toNat →
    Becomes (.gateTimeout b) s (timedOutBank k.step own s.m))
  ∧ (∀ (step : BitVec 48) (own : Vote) (m : Module), missingKids m.gate (stepBank m step) ≠ [] →
    let kids := (stepBank m step).kids.map (·.2) ++ (missingKids m.gate (stepBank m step)).map fun _ => missingVote
    (combineVotes step own kids m).1.min = 0)
  ∧ (∀ (s : State) (k : Nat) (e : GateEvent), s.m.gate.waiting[k]? = some e → alive s.m = true → waitEnds s.m e = true →
    let m₁ : Module := { s.m with gate := { s.m.gate with waiting := s.m.gate.waiting.eraseIdx k } }
    Becomes (.gateEventWaitEnd k) s (match e with
      | .opening p _ => retireTask p m₁
      | .cast p _ => retireTask p m₁
      | .fold t step nonfin layer => completeAperture t (gateEvent step (applyFold step nonfin layer) e m₁).2
      | .child c v => (gateEvent v.step (applyChild v.step c v) e m₁).2))
  ∧ (∀ (s : State) (b : Nat) (c : BitVec 48 × BitVec 32 × Nat),
    let k := bankAt s.m.gate b
    b < 2 → working s.m = true → k.state = .opened → bankIndex k.step = b →
    s.m.gate.commits.find? (fun x => x.1 == k.step) = some c → updateRuns s.m k.step = false →
    scaleSuspended s.m b = false → s.m.haze.scaleBase = 0 → s.m.haze.ctoken = none →
    (∀ e ∈ s.m.hg.pool, opcodeOf e ≠ 3) →
    ∃ m, Becomes (.gateCommit b) s m ∧ m.gate.stepCount = k.step + 1 ∧ (bankAt m.gate b).state = .idle
      ∧ bankAt m.gate (1 - b) = bankAt s.m.gate (1 - b) ∧ m.mem = s.m.mem ∧ m.threads = s.m.threads)
  ∧ (∀ (s : State) (b : Nat) (c : BitVec 48 × BitVec 32 × Nat),
    let k := bankAt s.m.gate b
    let m₁ := commitTensors 4097 k.step c.2 s.m
    b < 2 → working s.m = true → k.state = .opened →
    s.m.gate.commits.find? (fun x => x.1 == k.step) = some c → updateRuns s.m k.step = false →
    scaleSuspended s.m b = false →
    Becomes (.gateCommit b) s (if 4096 ≤ (bankAt m₁.gate b).tensor then endCommit k.step m₁ else m₁))
  ∧ (∀ (s : State) (bytes rest : List Byte) (x : Msg), alive s.m = true → decodeMsg bytes = some (x, rest) →
    x.type = 0x32 → x.dst = s.m.fabric.node → x.unsound = true → Becomes (.ctlAck bytes) s (refuseMsg none x s.m))
  ∧ (∀ (s : State) (bytes rest : List Byte) (x : Msg) (y : Option Msg) (m₁ : Module), alive s.m = true →
    decodeMsg bytes = some (x, rest) → x.type = 0x32 → x.dst = s.m.fabric.node → x.unsound = false →
    takeMsg (fun z => z == x) s.m = some (y, m₁) →
    ∃ m, Becomes (.ctlAck bytes) s m ∧ m.gate = s.m.gate ∧ m.mem = s.m.mem ∧ m.threads = s.m.threads
      ∧ (∀ h, h ∈ m.fabric.heldMsgs ↔ h ∈ m₁.fabric.heldMsgs ∧
          ¬ (h.msg.type = x.op ∧ h.msg.dst = x.src ∧ field h.msg.payload 4 6 = (ackStep x).toNat))
      -- no first copy is forgotten but where a refused step is answered or a vote of this module is received
      ∧ ((∀ h ∈ m₁.fabric.heldMsgs, ackNames x.src x.op (ackStep x) h = true →
          h.msg.type = 0x31 ∧ byteAt h.msg.payload 1 % 4 = 0) → m.fabric.seen = m₁.fabric.seen))
  ∧ (∀ (s : State) (k : Nat) (h : HeldMsg), s.m.fabric.heldMsgs[k]? = some h → alive s.m = true →
    millis 1 ≤ (s.m.time - h.last).toNat →
    let held := s.m.fabric.heldMsgs.set k { h with last := s.m.time }
    Becomes (.gateMessageResend k) s
      (inject h.msg (count .fabric 0 5 1 { s.m with fabric := { s.m.fabric with heldMsgs := held } })))

/-! ## Haze and parameter update -/

/-- Haze offers sample at their rate, samples report, and layer updates follow the gate, the freeze table and their
rule (14_training_support.md, 15_parameter_update.md). Ignored offers, the counting order and BAD for accepted offers
only (log 43), and the checks of the record, the held element and the kept pages (log 45), are the model's reading. -/
def Obligations.HazeAndUpdatesAct : Prop :=
  (∀ (s : State) (v : Word), alive s.m = true → Becomes (.hzOffer none v) s s.m)
  ∧ (∀ (s : State) (t : Nat) (v : Word), alive s.m = true →
    (threadAt s.m t).priv.level = 2 ∨ s.m.haze.enabled = false → Becomes (.hzOffer (some t) v) s s.m)
  ∧ (∀ (s : State) (t : Nat) (v : Word) (b e : List Byte) (m₁ : Module), alive s.m = true →
    (threadAt s.m t).priv.level ≠ 2 → s.m.haze.enabled = true →
    let st := 2 * (t / 96)
    (readOffer st t (v.toNat % 2 ^ 48 / 64 * 64)).go s.m = (.ok (some (b, e)), m₁) →
    let n : BitVec 32 := Sparse.get 0 m₁.haze.offers (hzLayer b)
    let m₂ : Module := { m₁ with haze := { m₁.haze with offers := Sparse.set m₁.haze.offers (hzLayer b) (n + 1) } }
    let isSample (j : Job) : Bool := match j.kind with
      | some (.haze _ _ _) => true
      | _ => false
    let waiting := (stackAt m₁ st).jobs.filter fun j => !j.started && isSample j
    let taken := n.toNat % 2 ^ hzRate e = 0
    let level := if (threadAt m₁ t).priv.level = 0 then 0 else 1
    let k := stackAt m₁ st
    (¬ taken → Becomes (.hzOffer (some t) v) s m₂)
    ∧ (∀ m, taken → offerSound b = false → flagReport st level (hzLayer b) 4 m₂ = some m →
        Becomes (.hzOffer (some t) v) s m)
    ∧ (∀ m, taken → offerSound b = true → 64 ≤ waiting.length → flagReport st level (hzLayer b) 2 m₂ = some m →
        Becomes (.hzOffer (some t) v) s (edgeAll 246 m))
    ∧ (taken → offerSound b = true → waiting.length < 64 → ∃ j step front rest, k.jobs = front ++ rest
        ∧ Becomes (.hzOffer (some t) v) s
          (assignAll st (setStack st { k with jobs := front ++ j :: rest, nextId := k.nextId + 1 } m₂))
        ∧ (∀ x ∈ front, x.started = true ∨ x.kind.isSome = true ∨ x.ending.isSome = true)
        ∧ (∀ x, rest.head? = some x → x.started = false ∧ x.kind = none)
        ∧ j.id = k.nextId ∧ j.started = false ∧ j.checked = true ∧ j.thread = t ∧ j.total = 4
        ∧ j.record = b ++ e ∧ j.kind = some (.haze (hzLayer b) step (n + 1))))
  ∧ (∀ (s : State) (st id layer : Nat) (step : BitVec 48) (n : BitVec 32) (j : Job) (above : Bool) (m₁ : Module),
    let m₀ := assignAll st s.m
    stackRuns m₀ st = true → jobAt m₀ st id = some j → j.kind = some (.haze layer step n) → j.ending = none →
    4 ≤ enginesOn (stackAt m₀ st) id → (sampleTile j layer step n st).go m₀ = (.ok above, m₁) →
    let m₂ := setStack st { stackAt m₁ st with jobs := (stackAt m₁ st).jobs.filter fun x => x.id != id } m₁
    jobAt m₂ st id = none
    ∧ Becomes (.hazeSampleComplete st id) s (if above = true then edgeAll 245 (assignAll st m₂) else assignAll st m₂))
  ∧ (∀ (old : List Byte) (errs : List Nat) (thresh : Nat) (n : BitVec 32) (step : BitVec 48),
    let r := newReport old errs thresh n step
    let worst := errs.foldl Nat.max 0
    worst < 2 ^ 32 →
    r.1.length = 128 ∧ (r.2 = true ↔ Fp.lt32 thresh worst = true)
    ∧ field r.1 64 4 = max (field old 64 4) worst ∧ field r.1 68 4 = min (field old 68 4 + 1) (2 ^ 32 - 1)
    ∧ field r.1 72 4 = n.toNat ∧ field r.1 80 6 = step.toNat
    ∧ field r.1 76 4 = min (field old 76 4 + (if r.2 = true then 1 else 0)) (2 ^ 32 - 1)
    ∧ ∀ i, i < 16 → field r.1 (4 * i) 4
        = min (field old (4 * i) 4 + (errs.filter fun e => errorBin e == i).length) (2 ^ 32 - 1))
  ∧ (∀ (s : State) (p : Nat) (e : Entry), Sound s.m p 3 e → (∀ r, e.work ≠ .update r) →
    let b := stepBank s.m (updateStep e)
    let open_ := b.step = updateStep e ∧ b.state = .opened
    let st := updateStack e
    let m₀ := consumeInputs e s.m
    let id := (stackAt m₀ st).nextId
    let admitted (r : UpdateRun) : Module := admitEntry e (.update r) m₀
    let now (m : Module) : Entry := (entryAt m e.id).getD e
    (b.step = updateStep e → b.state = .refused →
      Becomes (.layerUpdate p) s (count .update 0 4 1 (completeEntry e 0x20 b.report.reason.toNat 0 0 s.m)))
    ∧ (¬ (b.step = updateStep e ∧ b.state = .refused) → ¬ (open_ ∧ ready s.m e = true) →
        Becomes (.layerUpdate p) s (setEntry { e with stage := .waiting } s.m))
    ∧ (open_ → ready s.m e = true → frozenUpdate m₀ e = true → strictUpdate e = true →
        let m := admitted { stack := st }
        Becomes (.layerUpdate p) s (count .update 0 2 1 (retireUpdate (now m) { status := 0x21 } m)))
    ∧ (open_ → ready s.m e = true → frozenUpdate m₀ e = true → strictUpdate e = false →
        let r : UpdateRun := { stack := st, frozen := true }
        Becomes (.layerUpdate p) s (prepareUpdate (now (admitted r)) r (admitted r)))
    ∧ (open_ → ready s.m e = true → frozenUpdate m₀ e = false →
        let r : UpdateRun := { stack := st, job := some id }
        let m := queueModuleJob st (updateModuleJob e id) (admitted r)
        Becomes (.layerUpdate p) s (prepareUpdate (now m) r m)))
  ∧ (∀ (e : Entry) (r : UpdateRun) (m m₁ : Module) (par : List Byte), r.record = [] →
    (updateRecord e).go m = (.ok par, m₁) →
    let u : UpdateJob := { e := e, par := par }
    (r.frozen = true →
      prepareUpdate e r m = count .update 0 2 1 (retireUpdate e { status := 1, count2 := u.elems } m₁))
    ∧ (r.frozen = false → ∀ off, off ∈ u.failures → (∀ x ∈ u.failures, off ≤ x) →
        prepareUpdate e r m = retireUpdate e { status := 0x43, count0 := 0x100 + off } (dropUpdateJob e r m₁))
    ∧ (r.frozen = false → u.failures = [] → prepareUpdate e r m =
        translateUpdate e { r with record := par } (setUpdate e { r with record := par } m₁)))
  ∧ (∀ (e : Entry) (r : UpdateRun) (m m₁ : Module), r.record ≠ [] →
    let st := updateStack e
    let u : UpdateJob := { e := e, par := r.record }
    prepareUpdate e r m = translateUpdate e r m
    ∧ (∀ x, (probeArrays u (updateReach e 0 [])).go m = (.error x, m₁) → x.waits = false →
        translateUpdate e r m = stopUpdate e r 0 x m₁)
    ∧ (∀ pages id j, (probeArrays u (updateReach e 0 [])).go m = (.ok pages, m₁) → r.job = some id →
        jobAt m₁ st id = some j → translateUpdate e r m = assignAll st
          (setJob st { j with record := r.record, checked := true, total := (u.rows * u.cols + 4095) / 4096 }
            (setUpdate e { r with pages := pages, translated := true } m₁))))
  ∧ (∀ (s : State) (p : Nat) (e : Entry) (r : UpdateRun), entryAt s.m p = some e → e.work = .update r →
    working s.m = true → r.waiting = false → r.ending = none →
    let st := updateStack e
    let m₀ := assignAll st s.m
    (r.translated = false → Becomes (.layerUpdate p) s (prepareUpdate e r s.m))
    ∧ (∀ id j, r.translated = true → r.job = some id → jobAt m₀ st id = some j → j.started = true →
        stackRuns m₀ st = true → Becomes (.layerUpdate p) s (runUpdate e r j m₀)))
  ∧ (∀ (e : Entry) (r : UpdateRun) (j : Job) (m m₁ : Module),
    let st := updateStack e
    let u : UpdateJob := { e := e, par := r.record }
    let reach := updateReach e j.id r.pages
    (j.cleaned = false → (cleanArrays u reach).go m = (.ok (), m₁) →
      runUpdate e r j m = setJob st { j with cleaned := true } m₁)
    ∧ (∀ gs, j.cleaned = true → r.gs = none → (gradScale e reach).go m = (.ok gs, m₁) →
        runUpdate e r j m = setUpdate e { r with gs := some gs } m₁)
    ∧ (∀ gs x, j.cleaned = true → r.gs = some gs → u.rule = 2 → r.pass1 = false →
        (firstPass u gs reach).go m = (.ok x, m₁) →
        runUpdate e r j m = setUpdate e (match x with
          | some y => { r with pass1 := true, stats := some (statTable y) }
          | none => { r with pass1 := true, held := u.rows * u.cols }) m₁)
    ∧ (∀ gs eng c x y, j.cleaned = true → r.gs = some gs →
        (u.rule = 2 → r.pass1 = true ∧ r.stats.isSome = true) → heldChunk (stackAt m st) j.id = some (eng, c) →
        (updateChunk u gs (r.stats.getD []) c reach).go m = (.ok (x, y), m₁) →
        let m₂ := setUpdate e { r with updated := r.updated + x, held := r.held + y } m₁
        ∀ k, jobAt m₂ st j.id = some k →
          runUpdate e r j m = assignAll st (dropEngine st eng (setJob st { k with complete := c :: k.complete } m₂))))
  ∧ (∀ (k : Shared) (g w m v : Nat),
    let x := ruleStep k g m v
    let w' := Fp.sub32 w (Fp.mul32 k.lr (Fp.add32 x.1 (Fp.mul32 k.wd w)))
    let finite := Fp.finite32 w' = true ∧ Fp.finite32 x.2.1 = true ∧ Fp.finite32 x.2.2 = true
    stepElem k g w m v = (if finite then some (w', x.2.1, x.2.2) else none)
    ∧ (k.rule = 0 → x = (Fp.add32 (Fp.mul32 k.beta1 m) g, Fp.add32 (Fp.mul32 k.beta1 m) g, 0))
    ∧ (let m' := Fp.add32 (Fp.mul32 k.beta1 m) (Fp.mul32 k.c1 g)
       let toward (second : Nat) : Nat := Fp.div32 (Fp.div32 m' k.bc1) (Fp.add32 (Fp.sqrt32 second) k.eps)
       (k.rule = 1 →
         let v' := Fp.add32 (Fp.mul32 k.beta2 v) (Fp.mul32 k.c2 (Fp.mul32 g g))
         x = (toward (Fp.div32 v' k.bc2), m', v'))
       -- the last argument of rule 2 is vh
       ∧ (k.rule = 2 → x = (toward v, m', 0))
       ∧ (k.rule = 3 → x = (if Fp.lt32 0 m' then 0x3F800000 else if Fp.lt32 m' 0 then 0xBF800000 else 0,
           Fp.add32 (Fp.mul32 k.beta2 m) (Fp.mul32 k.c2 g), 0))))
  -- pass 1 of rule 2, vh, and what the elements share
  ∧ (∀ (k : Shared) (rows cols : Nat) (q v c : List Nat),
    v.length = rows → c.length = cols → q.length = rows * cols →
    let sum (n : Nat) (f : Nat → Nat) : Nat :=
      ((orderedSum (fun a b => Fp.add Fp.fp32 Fp.nearest a b) 16 ((List.range n).map fun i => (i, f i))).1).getD 0
    let stat (old total n : Nat) : Nat :=
      Fp.add32 (Fp.mul32 k.beta2 old) (Fp.mul32 k.c2 (Fp.div32 total (Fp.ofNat32 n)))
    let vr (r : Nat) : Nat := stat (v.getD r 0) (sum cols fun i => q.getD (cols * r + i) 0) cols
    let vc (i : Nat) : Nat := stat (c.getD i 0) (sum rows fun r => q.getD (cols * r + i) 0) rows
    let mr := Fp.div32 (sum rows vr) (Fp.ofNat32 rows)
    let finite := Fp.finite32 mr = true ∧ (∀ r, r < rows → Fp.finite32 (vr r) = true) ∧ ∀ i, i < cols → Fp.finite32 (vc i) = true
    (finite → newStats k rows cols q v c = some ((List.range rows).map vr, (List.range cols).map vc))
    ∧ (¬ finite → newStats k rows cols q v c = none))
  ∧ (∀ (k : Shared) (mr vr vc : Nat), factored k mr vr vc =
    if mr % 2 ^ 31 = 0 then 0 else Fp.div32 (Fp.div32 (Fp.mul32 vr vc) mr) k.bc2)
  ∧ (∀ (u : UpdateJob) (gs : Nat),
    let k := sharedOf u gs
    let t := (updateStep u.e).toNat - u.bcBase + 1
    let power (b : Nat) : Nat := (List.range 48).reverse.foldl (fun r i =>
      if natBit t i then Fp.mul32 (Fp.mul32 r r) b else Fp.mul32 r r) 0x3F800000
    k.c1 = Fp.sub32 0x3F800000 u.beta1 ∧ k.c2 = Fp.sub32 0x3F800000 u.beta2
    ∧ k.bc1 = (if u.bc1 then Fp.sub32 0x3F800000 (power u.beta1) else 0x3F800000)
    ∧ k.bc2 = (if u.bc2 then Fp.sub32 0x3F800000 (power u.beta2) else 0x3F800000))
  -- the error of an element and its bin
  ∧ (∀ (gs : Nat) (x w : List Fp.Val) (o : Fp.Val),
    let product (p : Fp.Val × Fp.Val) : Nat := (Fp.encodeVal Fp.fp32 Fp.nearest (Fp.mulVal p.1 p.2).1).1
    let sum := ((orderedSum (fun a b => Fp.add Fp.fp32 Fp.nearest a b) 16
      ((x.zip w).zipIdx.map fun p => (p.2, product p.1))).1).getD 0
    let ref := Fp.decode Fp.fp32 (Fp.mul32 gs sum)
    let e := elementError gs x w o
    (o.nonFinite = true ∨ ref.nonFinite = true → e = 0x7F800000)
    ∧ (o.nonFinite = false → ref.nonFinite = false → ref.isZero = true → e = if o.isZero then 0 else 0x7F800000)
    ∧ (o.nonFinite = false → ref.nonFinite = false → ref.isZero = false →
        e = ratio32 (Fp.addVal o ref.neg).1 ref % 2 ^ 31 ∧ (o = ref → e = 0)))
  ∧ (∀ e : Nat, e < 2 ^ 31 → errorBin e =
    -- below 2^-16, from 2^-2 on, and floor(log2 e) + 17 between
    if e < (127 - 16) * 2 ^ 23 then 0 else if (127 - 2) * 2 ^ 23 ≤ e then 15 else e / 2 ^ 23 + 17 - 127)
  ∧ ∀ (s : State) (p id : Nat) (e : Entry) (r : UpdateRun) (j j' : Job) (high : List Nat) (x : Bool × Module)
      (m₁ : Module),
    entryAt s.m p = some e → e.work = .update r → working s.m = true → r.waiting = false → r.translated = true →
    r.job = some id → jobAt s.m (updateStack e) id = some j → stackRuns s.m (updateStack e) = true →
    let u : UpdateJob := { e := e, par := r.record }
    let reach := updateReach e j.id r.pages
    let ends : Acc (List Nat) := do
      writeStats u r reach
      highLines u reach
    updateOver u r j = true → ends.go s.m = (.ok high, m₁) → jobAt m₁ (updateStack e) j.id = some j' →
    updateBack (updateStack e) high j' m₁ = some x →
    Becomes (.updateComplete p) s (retireUpdate e (updateClosing r x.1) (countUpdate r (dropJob (updateStack e) j.id x.2)))

/-! ## Sluiceway ports, ways and flits -/

/-- Ports train state by state, ways come up and go down, and flits are taken once and in order (16_sluiceway.md).
That a LINK mismatch on an ACTIVE port fails every matched port (log 49), and that one NAK is sent and the ACK and
credits of a refused flit are taken (log 48), are the model's reading. -/
def Obligations.PortsAndFlitsFollowTheLink : Prop :=
  let changes (c : Instr) (s : State) (w i : Nat) (p : Port) : Prop :=
    ∃ m, Becomes c s m ∧ portAt m w i = p ∧ (∀ v k, (v, k) ≠ (w, i) → portAt m v k = portAt s.m v k)
      ∧ (∀ v, (wayAt m v).up = (wayAt s.m v).up) ∧ m.mem = s.m.mem ∧ m.threads = s.m.threads
  let since (s : State) (w i : Nat) : Nat := (s.m.time - (portAt s.m w i).since).toNat
  (∀ (s : State) (w i : Nat), slOut s.m w = true → portPresent s.m.board.part w i = true →
    (portAt s.m w i).enable = true → (portAt s.m w i).state = .disabled →
    changes (.portTrainingEntry w i) s w i { portAt s.m w i with state := .loopback, since := s.m.time, passed := false })
  ∧ (∀ (s : State) (w i : Nat), alive s.m = true → (portAt s.m w i).state = .loopback → millis 1 ≤ since s w i →
    (portAt s.m w i).passed = false →
    let p := portAt s.m w i
    changes (.loopbackComplete w i false) s w i
      { p with state := .failed, since := s.m.time, reason := 1, matched := false, lock := 0, linkDue := false }
    ∧ Becomes (.loopbackComplete w i true) s (assertHold (w % 2 == 0) (setPort w i { p with passed := true } s.m)))
  ∧ (∀ (dim : Bool) (m : Module),
    let ws := dimWays dim
    let held := ∀ w ∈ ws, (wayAt m w).hold = true
    let passed := ∀ w ∈ ws, (wayAt m w).retryAt = none
      ∧ ∃ i, i < 4 ∧ (portAt m w i).passed = true ∧ (portAt m w i).enable = true
    let m' := assertHold dim m
    (¬ held → ¬ passed → m' = m)
    ∧ (held ∨ passed → ∀ w ∈ ws, (wayAt m' w).hold = true ∧ ∀ i, i < 4 → portAt m' w i =
        if (portAt m w i).state = .loopback ∧ (portAt m w i).passed = true
        then { portAt m w i with state := .wait, since := m.time } else portAt m w i)
    ∧ (¬ held → passed → ∀ w ∈ ws, (wayAt m' w).holdSince = m.time ∧ (wayAt m' w).holdDue = true))
  ∧ (∀ (s : State) (w i : Nat), alive s.m = true →
    let p := portAt s.m w i
    (p.state = .wait → changes (.signalDetected w i) s w i { p with state := .train, since := s.m.time, lock := 0 })
    ∧ (p.state = .train → changes (.trainingComplete w i) s w i { p with state := .align, since := s.m.time, lock := 0 })
    ∧ (p.state = .align →
        changes (.alignComplete w i) s w i { p with state := .handshake, since := s.m.time, lock := 0xFF, linkDue := true })
    ∧ ∀ n r, ((p.state = .wait ∧ n = 1000 ∧ r = 2) ∨ (p.state = .train ∧ n = 500 ∧ r = 2)
        ∨ (p.state = .align ∧ n = 10 ∧ r = 3) ∨ (p.state = .handshake ∧ n = 1 ∧ r = 4)) →
        millis n ≤ since s w i → changes (.trainingStateTimeout w i) s w i
          { p with state := .failed, since := s.m.time, reason := r, matched := false, lock := 0, linkDue := false })
  ∧ (∀ (s : State) (w i n : Nat), alive s.m = true → (portAt s.m w i).state = .active →
    let m₁ := count .port (4 * w + i) 2 n s.m
    let max := (portAt s.m w i).errMax.toNat
    Becomes (.lockLoss w i) s (failPort w i 3 s.m)
    ∧ Becomes (.errmaxExceeded w i n) s (if max ≠ 0 ∧ max < n then failPort w i 5 m₁ else m₁)
    ∧ (micros 100 ≤ (s.m.time - (portAt s.m w i).heard).toNat → Becomes (.receiveIdleTimeout w i) s (failPort w i 6 s.m)))
  ∧ (∀ (w i k : Nat) (reason : BitVec 3) (m : Module), k < 4 → k ≠ i → (portAt m w k).matched = true →
    (portAt m w i).state = .active → (portAt m w i).matched = true →
    let m' := failPort w i reason m
    (portAt m' w i).state = .failed ∧ (portAt m' w i).reason = reason ∧ (portAt m' w i).matched = false
    ∧ (∀ v j, (v, j) ≠ (w, i) → portAt m' v j = portAt m v j) ∧ (wayAt m' w).up = (wayAt m w).up
    ∧ (wayAt m' w).retry.length = (wayAt m w).retry.length ∧ (i < 4 → ∀ x ∈ (wayAt m' w).retry, x.port ≠ i))
  ∧ (∀ (s : State) (w i : Nat), alive s.m = true → (portAt s.m w i).state = .failed → millis 100 ≤ since s w i →
    ((wayAt s.m w).hold = true →
      changes (.failedTimeout w i) s w i { portAt s.m w i with state := .wait, since := s.m.time })
    ∧ ((wayAt s.m w).hold = false → changes (.failedTimeout w i) s w i
        { portAt s.m w i with state := .loopback, since := s.m.time, passed := false, matched := false, lock := 0,
                               linkDue := false }))
  ∧ (∀ (s : State) (dim : Bool), alive s.m = true →
    let ws := dimWays dim
    let up := ∀ w ∈ ws, ∃ i, i < 4 ∧ (portAt s.m w i).state = .active
    (∀ w ∈ ws, (wayAt s.m w).hold = true ∧ (wayAt s.m w).holdDue = true
      ∧ millis 2000 ≤ (s.m.time - (wayAt s.m w).holdSince).toNat) →
    ∃ m, Becomes (.ringHoldTimeout dim) s m
      ∧ (up → ∀ w ∈ ws, wayAt m w = { wayAt s.m w with holdDue := false })
      ∧ (¬ up → ∀ w ∈ ws, (wayAt m w).retryAt.isSome = true)
      ∧ ((∀ w ∈ ws, ∀ i, i < 4 → (portAt s.m w i).state ≠ .active) → ∀ w ∈ ws, (wayAt m w).hold = false
          ∧ (wayAt m w).retryAt = some (s.m.time + BitVec.ofNat 64 (millis 10000))
          ∧ ∀ i, i < 4 → (portAt m w i).state = if (portAt s.m w i).state = .disabled then .disabled else .loopback))
  ∧ (∀ (s : State) (dim : Bool), alive s.m = true →
    (∀ w ∈ dimWays dim, ∃ t, (wayAt s.m w).retryAt = some t ∧ t.toNat ≤ s.m.time.toNat) →
    Becomes (.ringHoldRetry dim) s (assertHold dim
      ((dimWays dim).foldl (fun m w => setWay w { wayAt m w with retryAt := none } m) s.m)))
  ∧ (∀ (f : Fabric) (w i : Nat) (node : BitVec 12) (valid : Bool) (way port : Nat) (nx ny : BitVec 6),
    let d := dimOf w
    linkMatches f w i node valid way port nx ny = true ↔ way = (w + 2) % 4 ∧ port = i
      ∧ (valid = true → f.valid = true → nx = f.nx ∧ ny = f.ny
          ∧ coord node.toNat (1 - d) = coord f.node.toNat (1 - d) ∧ coord node.toNat d ≠ coord f.node.toNat d))
  ∧ (∀ (s : State) (w i : Nat) (node : BitVec 12) (valid : Bool) (way port : Nat) (nx ny : BitVec 6), alive s.m = true →
    let p := portAt s.m w i
    let ok := linkMatches s.m.fabric w i node valid way port nx ny = true
    let link : Instr := .linkMessage w i node valid way port nx ny
    (p.state = .handshake → ok → ∃ m, Becomes link s m ∧ (wayAt m w).up = true ∧ (wayAt m w).neigh = node
        ∧ portAt m w i = { p with state := .active, since := s.m.time, matched := true, heard := s.m.time }
        ∧ (∀ v j, (v, j) ≠ (w, i) → portAt m v j = portAt s.m v j)
        ∧ ((wayAt s.m w).up = false → (wayAt m w).seq = 0 ∧ (wayAt m w).ack = 0xFFFF ∧ (wayAt m w).retry = []
            ∧ ∀ v, (wayAt m w).credit v = vcSlots v))
    ∧ (p.state = .handshake → ¬ ok → Becomes link s (failPort w i 4 (misWired w s.m)))
    ∧ (p.state = .active → ok → ∃ m, Becomes link s m ∧ (wayAt m w).neigh = node
        ∧ portAt m w i = { p with heard := s.m.time } ∧ m.mem = s.m.mem)
    ∧ (p.state = .active → ¬ ok → Becomes link s
        ((activePorts (wayAt (misWired w s.m) w)).foldl (fun m k => failPort w k 4 m) (misWired w s.m)))
    ∧ (p.state ≠ .handshake → p.state ≠ .active → Becomes link s s.m))
  ∧ (∀ (s : State) (w i : Nat) (f : List Byte), alive s.m = true → (portAt s.m w i).matched = true →
    let bad := flitSound f = false
    let m₁ := takeReturns w f (setPort w i { portAt s.m w i with heard := s.m.time } s.m)
    (bad → ∃ m, Becomes (.flit w i f) s m ∧ m.mem = s.m.mem
      ∧ let y := wayAt s.m w
        let y' := wayAt m w
        (y.discarding = true → y' = y)
        ∧ (y.discarding = false → y' = { y with discarding := true, wire := y'.wire, freed := y'.freed,
                                                heldBack := y'.heldBack }
            ∧ y'.wire.map (fun x => (x.1, x.2.kind, x.2.ack)) = ((activePorts y).take 1).map fun p => (p, 2, y.ack)))
    ∧ (¬ bad → byteAt f 0 % 4 = 0 → Becomes (.flit w i f) s (takeData_ w f m₁))
    ∧ (¬ bad → byteAt f 0 % 4 = 2 →
        Becomes (.nak w i f) s (resendFlits w m₁) ∧ Becomes (.flit w i f) s (resendFlits w m₁))
    ∧ (¬ bad → byteAt f 0 % 4 = 1 ∨ byteAt f 0 % 4 = 3 → Becomes (.flit w i f) s m₁))
  ∧ (∀ (w : Nat) (f : List Byte) (m : Module),
    let y := wayAt m w
    let z := wayAt (takeReturns w f m) w
    let seq := BitVec.ofNat 16 (field f 2 2)
    let ahead := (seq - y.ack).toNat
    let msgs := decodeMsgs 63 ((f.drop 16).take (16 * (byteAt f 1 % 64)))
    (∀ x, x ∈ z.retry ↔ x ∈ y.retry ∧ 32768 ≤ (BitVec.ofNat 16 (field f 4 2) - x.seq).toNat)
    ∧ (∀ v, v < 4 → z.credit v = min (vcSlots v) (y.credit v + field f 6 6 / 2 ^ (12 * v) % 4096))
    ∧ (ahead = 0 ∨ 32768 ≤ ahead → takeData_ w f m = m)
    ∧ (ahead = 1 → takeData_ w f m =
        takeEarly 64 w (takeMessages w msgs (setWay w { y with ack := seq, discarding := false } m)))
    ∧ (2 ≤ ahead → ahead ≤ 64 → y.discarding = false →
        takeData_ w f m = setWay w { y with early := Sparse.set y.early seq.toNat msgs } m)
    ∧ (64 < ahead → ahead < 32768 → (wayAt (takeData_ w f m) w).discarding = true))
  ∧ (∀ (w : Nat) (x : Msg) (m : Module), x.unsound = true →
    let m' := takeMessages w [x] m
    m'.fabric.inbox = m.fabric.inbox ∧ m'.mem = m.mem ∧ m'.threads = m.threads
    ∧ ∀ v, (wayAt m' v).queues = (wayAt m v).queues)
  ∧ (∀ f : Flit, (f.msgs.map Msg.size).sum ≤ 63 →
    f.bytes.length = 1024 ∧ flitSound f.bytes = true ∧ byteAt f.bytes 0 % 4 = f.kind.toNat
    ∧ BitVec.ofNat 16 (field f.bytes 2 2) = f.seq ∧ BitVec.ofNat 16 (field f.bytes 4 2) = f.ack)
  ∧ ∀ (s : State) (w : Nat), alive s.m = true → (wayAt s.m w).up = true → (wayAt s.m w).retry ≠ [] →
    micros 4 ≤ (s.m.time - (wayAt s.m w).retrySince).toNat →
    ∃ m, Becomes (.resendTimeout w) s m ∧ m.mem = s.m.mem
      ∧ let y := wayAt s.m w
        let y' := wayAt m w
        y' = { y with retrySince := s.m.time, wire := y'.wire, freed := y'.freed, heldBack := y'.heldBack }
        ∧ y'.wire.map (fun x => (x.1, x.2.kind, x.2.seq, x.2.ack, x.2.msgs)) =
            y.retry.map fun r => (r.port, 0, r.seq, y.ack, r.msgs)

/-! ## Fabric requests, responses and tags -/

/-- Requests are performed once at their home and answered; responses free their tag and reach their requester
(16_sluiceway.md, 11_memory_caches.md). That a request timeout logs LINK 0x33 at the I/O die, and that a tag's
quarantine ends by its own command, are the model's choices (log 50). -/
def Obligations.FabricRequestsAreAnswered : Prop :=
  (∀ (s : State) (bytes : List Byte) (x : Msg) (m₁ : Module),
    let off := x.addr % 128
    let line := lineOf x.addr
    let n := 2 ^ (x.op.toNat % 8)
    let kept : Module := if s.m.fabric.inbox.any (fun a => a.msg == x) = true then s.m else keepHere none [x] s.m
    (Arrives s 0x01 bytes x m₁ →
      (plainMemory m₁ x.addr = false → Becomes (.fabricRead bytes) s (responseTo x 0x13 1 [] m₁))
      ∧ (plainMemory m₁ x.addr = true → llcRead line 0 m₁ = none →
          Becomes (.fabricRead bytes) s (waitMiss 0 line true kept))
      ∧ (∀ d m₂, plainMemory m₁ x.addr = true → llcRead line 0 m₁ = some (d, m₂) →
          Becomes (.fabricRead bytes) s
            (if touchesPoison d.2 off n = true
             then responseTo x 0x13 2 [] (raiseError 3 0x24 (handleSlice (homeSlice x.addr)) x.addr 0 m₂)
             else responseTo x 0x10 0 ((d.1.drop (off / 16 * 16)).take ((off % 16 + n + 15) / 16 * 16)) m₂)))
    ∧ (Arrives s 0x02 bytes x m₁ →
        let mask := field x.payload 0 16
        let first := off / 16 * 16
        let data := List.replicate first 0 ++ (x.payload.drop 16).take (128 - first)
        (plainMemory m₁ x.addr = false → Becomes (.fabricWrite bytes) s (responseTo x 0x13 1 [] m₁))
        ∧ (plainMemory m₁ x.addr = true → ∀ m₂, llcWrite line 0 data (fun i => mask.testBit i) 0 m₁ = some m₂ →
            Becomes (.fabricWrite bytes) s (responseTo x 0x11 0 [] m₂))
        ∧ (plainMemory m₁ x.addr = true → llcWrite line 0 data (fun i => mask.testBit i) 0 m₁ = none →
            Becomes (.fabricWrite bytes) s (waitMiss 0 line false kept)))
    ∧ (Arrives s 0x03 bytes x m₁ →
        let w := if x.op.getLsbD 4 then 8 else 4
        let run := llcAtomic (x.op.setWidth 4) w x.addr (field x.payload 0 w) (field x.payload 8 w) m₁
        (plainMemory m₁ x.addr = false → Becomes (.fabricAtom bytes) s (responseTo x 0x13 1 [] m₁))
        ∧ (∀ old m₂, plainMemory m₁ x.addr = true → run = some (some old, m₂) →
            Becomes (.fabricAtom bytes) s (responseTo x 0x12 0 (padSlots (bytesOf w old)) m₂))
        ∧ (∀ m₂, plainMemory m₁ x.addr = true → run = some (none, m₂) → Becomes (.fabricAtom bytes) s
            (responseTo x 0x13 2 [] (raiseError 3 0x26 (handleSlice (homeSlice x.addr)) x.addr 0 m₂)))
        ∧ (plainMemory m₁ x.addr = true → run = none → Becomes (.fabricAtom bytes) s (waitMiss 0 line false kept)))
    ∧ (∀ c type, ((c = Instr.fabricRead bytes ∧ type = 0x01) ∨ (c = Instr.fabricWrite bytes ∧ type = 0x02)
        ∨ (c = Instr.fabricAtom bytes ∧ type = 0x03) ∨ (c = Instr.fabricRed bytes ∧ type = 0x04)) →
      (∃ rest, decodeMsg bytes = some (x, rest)) → x.type = type → x.dst = s.m.fabric.node → alive s.m = true →
      x.unsound = true → Becomes c s (count .way (tableWay s.m.fabric x.src.toNat 0) 8 1 s.m)))
  ∧ (∀ (s : State) (bytes : List Byte) (x : Msg) (m₁ m₂ : Module), Arrives s 0x04 bytes x m₁ →
    let acknowledge (type op : Nat) (m : Module) : Module :=
      (redOrigins x).foldl (fun m o => responseTo { x with src := o.1, tid := o.2 } type op [] m) m
    let apply (m : Option Module) (e : Nat × Nat) : Option Module := match m with
      | some m => llcReduce (BitVec.ofNat 3 x.op.toNat) e.1 e.2 m
      | none => none
    (plainMemory m₁ x.addr = false → Becomes (.fabricRed bytes) s (acknowledge 0x13 1 m₁))
    ∧ (plainMemory m₁ x.addr = true → (redElements x).foldl apply (some m₁) = none → Becomes (.fabricRed bytes) s
        (waitMiss 0 (lineOf x.addr) false
          (if s.m.fabric.inbox.any (fun a => a.msg == x) = true then s.m else keepHere none [x] s.m)))
    ∧ (plainMemory m₁ x.addr = true → (redElements x).foldl apply (some m₁) = some m₂ →
        Becomes (.fabricRed bytes) s (acknowledge 0x11 0 m₂)))
  ∧ (∀ (x : Msg) (a v : Nat),
    let w := redBytes x.op.toNat
    let d := lineData x 1
    (a, v) ∈ redElements x ↔ ∃ i, i < 128 / w ∧ d.1.testBit (w * i) = true ∧ a = lineOf x.addr + w * i
      ∧ v = field d.2 (w * i) w)
  ∧ (∀ (s : State) (bytes : List Byte) (x : Msg) (m₁ : Module),
    let tag := m₁.fabric.tags.find? fun h => h.tid == x.tid
    let late := ∃ g, tag = some g ∧ g.quarantined = true
    ∀ c type, ((c = Instr.readData bytes ∧ type = 0x10) ∨ (c = Instr.fabricAck bytes ∧ type = 0x11)
        ∨ (c = Instr.atomReturn bytes ∧ type = 0x12) ∨ (c = Instr.fabricErr bytes ∧ type = 0x13)) →
      Arrives s type bytes x m₁ →
      (late → Becomes c s (count .fabric 0 2 1 m₁)) ∧ (tag = none → Becomes c s m₁))
  ∧ (∀ (s : State) (bytes : List Byte) (x : Msg) (g : Tag) (m₂ : Module),
    (Answers s 0x10 bytes x g m₂ →
      (∀ t rd n sgn hint, g.who = .load t rd n sgn hint → ∃ m, Becomes (.readData bytes) s m
        ∧ (∀ u, u ≠ t → threadAt m u = threadAt m₂ u) ∧ m.mem = m₂.mem
        ∧ (threadAt m t).loads = (threadAt m₂ t).loads.map fun p =>
            if p.rd = rd ∧ p.data = none then
              { p with
                data := some (extendLoad (lineValue x.payload (g.va.toNat % 128) n) n sgn)
                fill := if hint = 3 then none else some (remoteKey g, x.payload, 0, hint) }
            else p)
      ∧ (∀ o, g.who = .line o → ∃ m, Becomes (.readData bytes) s m ∧ (remoteKey g, x.payload, false) ∈ m.fabric.remote))
    ∧ (Answers s 0x11 bytes x g m₂ → Becomes (.fabricAck bytes) s m₂)
    ∧ (Answers s 0x12 bytes x g m₂ → ∀ t rd n, g.who = .atomic t rd n → ∃ m, Becomes (.atomReturn bytes) s m
        ∧ (∀ u, u ≠ t → threadAt m u = threadAt m₂ u)
        ∧ (threadAt m t).loads = (threadAt m₂ t).loads.map fun p =>
            if p.rd = rd ∧ p.data = none then
              { p with data := some (extendLoad (field x.payload 0 n) n (n == 4)), fill := none }
            else p)
    ∧ (Answers s 0x13 bytes x g m₂ →
        (x.op = 1 → Becomes (.fabricErr bytes) s (failAccess 0x05 g m₂))
        ∧ (x.op = 3 → Becomes (.fabricErr bytes) s (failAccess 0x08 g (edgeAll 269 (count .fabric 0 3 1 m₂))))
        ∧ (x.op = 2 → ∀ t rd n sgn hint, g.who = .load t rd n sgn hint →
            Becomes (.fabricErr bytes) s (deliverPoison t rd 0x21 g.addr m₂))
        ∧ (x.op = 2 → ∀ t rd n, g.who = .atomic t rd n →
            Becomes (.fabricErr bytes) s (deliverPoison t rd 0x26 g.addr m₂))
        ∧ (x.op = 2 → ∀ o, g.who = .line o → ∃ m d, Becomes (.fabricErr bytes) s m
            ∧ (remoteKey g, d, true) ∈ m.fabric.remote)))
  ∧ (∀ (t : Nat) (rd : Reg) (dcode : BitVec 8) (a : Nat) (p : PendingLoad) (m : Module),
    let old := threadAt m t
    let th := threadAt (deliverPoison t rd dcode a m) t
    old.loads.find? (fun q => q.rd == rd && q.data.isNone) = some p →
    (p.squashed = true → th = { old with loads := old.loads.filter fun q => q != p })
    ∧ (p.squashed = false → th.latch = p.latch ∧ th.loops = p.loops ∧ th.pc = old.pc ∧ th.priv = old.priv ∧ th.vec = old.vec
        ∧ th.loads.length + 1 = old.loads.length
        ∧ th.exc = some { cause := 0x0B, fval := BitVec.ofNat 64 p.addr, rpc := p.pc, target := old.priv.level }
        ∧ ∀ r, th.reg r = match p.undo with
            | some (b, v, _) => if r = b ∧ r ≠ 0 then v else old.reg r
            | none => old.reg r))
  ∧ ∀ (s : State) (tid : BitVec 16) (g : Tag), (s.m.fabric.tags.find? fun h => h.tid == tid) = some g →
    millis (max s.m.fabric.rto.toNat 1) ≤ (s.m.time - g.sent).toNat →
    let die := if tid.toNat < 4096 then handleIodW else handleIodE
    let late (h : Tag) : Tag := if h.tid = tid then { h with quarantined := true, sent := s.m.time } else h
    let m₁ : Module := { s.m with fabric := { s.m.fabric with tags := s.m.fabric.tags.map late } }
    (alive s.m = true → g.quarantined = false → Becomes (.requestTimeout tid) s
      (failRequest g (edgeAll 270 (raiseError 4 0x33 die g.addr 0 (count .fabric 0 1 1 m₁)))))
    ∧ (g.quarantined = true → Becomes (.tagQuarantineEnd tid) s
        { s.m with fabric := { s.m.fabric with tags := s.m.fabric.tags.filter fun h => h.tid != tid } })

/-! ## The Weir -/

/-- Batches post, start and dispatch; homes grant, take data, close and return; sources stage, drop or lose each
choice (17_weir.md). Choices of a draining batch freed uncounted and a DISPATCH timeout counted in WR_STAT 4 (log 51),
and an END for the next round that starts no timer (log 52), are the model's reading. -/
def Obligations.WeirMovesTokens : Prop :=
  (∀ (s : State) (v : Word), alive s.m = true →
    let refused : Module := { s.m with weir := { s.m.weir with hostPost := true } }
    (weirPresent s.m.board.part = false → ∀ who, Becomes (.wpPost who v) s s.m ∧ Becomes (.wpReturn who v) s s.m)
    ∧ (weirRuns s.m = true → Becomes (.wpPost none v) s refused)
    ∧ (weirRuns s.m = true → ∀ t,
        ((threadAt s.m t).priv.level = 2 → Becomes (.wpPost (some t) v) s refused)
        ∧ ((threadAt s.m t).priv.level ≠ 2 → 64 ≤ s.m.weir.batches.length → Becomes (.wpPost (some t) v) s s.m)
        ∧ ((threadAt s.m t).priv.level ≠ 2 → s.m.weir.batches.length < 64 → ∃ m b, Becomes (.wpPost (some t) v) s m
            ∧ m.weir.batches = s.m.weir.batches ++ [b] ∧ b.addr = BitVec.ofNat 64 (v.toNat % 2 ^ 48 / 64 * 64)
            ∧ b.thread = t ∧ b.task = (threadAt s.m t).task ∧ b.asid = (threadAt s.m t).priv.asid
            ∧ b.started = false ∧ b.ending = none ∧ m.mem = s.m.mem ∧ m.threads = s.m.threads)))
  ∧ (∀ (s : State) (bytes : List Byte) (x : Msg) (m₁ : Module), weirRuns s.m = true →
    ∀ c type act, ((c = Instr.dispatch bytes ∧ type = 0x20 ∧ act = takeDispatch)
        ∨ (c = Instr.grant bytes ∧ type = 0x21 ∧ act = takeGrant) ∨ (c = Instr.tdata bytes ∧ type = 0x22 ∧ act = takeTdata)
        ∨ (c = Instr.endMessage bytes ∧ type = 0x23 ∧ act = takeEnd)
        ∨ (c = Instr.rdata bytes ∧ type = 0x24 ∧ act = takeRdata)) →
      Comes s type bytes x m₁ →
      (weirSound x = false → Becomes c s (weirProgress (badMsg m₁)))
      ∧ (weirSound x = true → ∀ m₂, act x m₁ = .ok m₂ → Becomes c s (weirProgress m₂))
      ∧ (weirSound x = true → ∀ asks, act x m₁ = .error asks →
          let m₂ := asks s.m
          Becomes c s (weirProgress (if m₂.fabric.inbox.any (fun a => a.msg == x) = true then m₂ else keepHere none [x] m₂))))
  ∧ (∀ (x : Msg) (m : Module),
    let e := x.addr % 4096
    let q := BitVec.ofNat 16 (x.addr / 2 ^ 12)
    let n := 16 * (x.addr / 2 ^ 28 % 4096 + 1)
    let k := expertAt m e
    let fits := hosted m k = true ∧ n ≤ k.slotBytes
    let here := k.state = .opened ∧ q = k.round
    let k' := k.touch m.time
    let m' := setExpert e k' m
    let later := 1 ≤ (q - k.round).toNat ∧ (q - k.round).toNat ≤ 32767
    (¬ fits → takeDispatch x m = .ok (answer x 2 { m with weir := { m.weir with badMsg := true } }))
    ∧ (fits → here → ∀ i, slotFree k 0 k.intake = some i → takeDispatch x m = grantSlot x e i 0 k' n m')
    ∧ (fits → here → slotFree k 0 k.intake = none → k.spill = true → ∀ i, slotFree k k.intake k.ovSlots = some i →
        takeDispatch x m = grantSlot x e i 1 k' n m')
    ∧ (fits → here → slotFree k 0 k.intake = none → (k.spill = true → slotFree k k.intake k.ovSlots = none) →
        takeDispatch x m = .ok (answer x 2 (count .erefuse e 0 1 m')))
    ∧ (fits → ¬ here → later → takeDispatch x m = .ok (answer x 3 m))
    ∧ (fits → ¬ here → ¬ later → takeDispatch x m = .ok (answer x 2 (count .erefuse e 0 1 m))))
  ∧ (∀ (k : Expert) (lo n i : Nat), slotFree k lo n = some i ↔
    lo ≤ i ∧ i < lo + n ∧ Sparse.find k.slots i = none ∧ ∀ j, lo ≤ j → j < i → (Sparse.find k.slots j).isSome = true)
  ∧ (∀ (x : Msg) (e i code n : Nat) (k : Expert) (m m₁ : Module),
    let g : Granted := { src := x.src, entry := entryOf x, vbytes := n }
    (writeLocal (tagAt k i) (tagBytes g false)).go m = (.ok (), m₁) → code < 2 →
    let m₂ := count .weir 0 (2 + code) 1 (setExpert e { k with slots := Sparse.set k.slots i g } m₁)
    grantSlot x e i code k n m = .ok (sendEntry 0x21 (2 * code) x.src.toNat (entryOf x) i []
      (if code = 1 then count .espill e 0 1 m₂ else m₂)))
  ∧ (∀ (x : Msg) (m m₁ : Module) (g : Granted),
    let e := x.addr / 4096 % 4096
    let off := 16 * (x.addr % 4096)
    let k := expertAt m e
    (Sparse.find k.slots x.tid.toNat = none → takeTdata x m = .ok (badMsg m))
    ∧ (Sparse.find k.slots x.tid.toNat = some g →
        (k.state ≠ .opened ∨ g.src ≠ x.src ∨ g.vbytes < off + x.payload.length → takeTdata x m = .ok (badMsg m))
        ∧ (k.state = .opened → g.src = x.src → off + x.payload.length ≤ g.vbytes →
            (writeLocal (k.slotAt x.tid.toNat + off) x.payload).go m = (.ok (), m₁) →
            takeTdata x m = .ok (setExpert e { expertAt m₁ e with
              slots := Sparse.set (expertAt m₁ e).slots x.tid.toNat { g with arrived := g.arrived + x.payload.length } } m₁))))
  ∧ (∀ (q : BitVec 16) (m : Module) (e : Nat), hosted m (expertAt m e) = true →
    let k := expertAt m e
    (q = k.round → endAt q m e = (true, setExpert e { k.touch m.time with ends := k.ends + 1 } m))
    ∧ (q = k.round + 1 → endAt q m e = (true, setExpert e { k with nextEnds := k.nextEnds + 1 } m))
    ∧ (q ≠ k.round → q ≠ k.round + 1 → endAt q m e = (false, m)))
  ∧ (∀ (s : State) (x : Nat) (m₁ : Module), weirRuns s.m = true →
    let k := expertAt s.m x
    hosted s.m k = true → k.state = .opened → (writeClose k).go s.m = (.ok (), m₁) →
    let m₂ := count .weir 0 9 1 (setExpert x { expertAt m₁ x with state := .closed, since := none } m₁)
    (k.expect ≤ k.ends → (∀ p ∈ k.slots, p.2.whole = true) → Becomes (.expertClose x) s (edgeAll 289 m₂))
    ∧ (∀ t, k.since = some t → millis (max s.m.weir.cto.toNat 1) ≤ (s.m.time - t).toNat →
        Becomes (.closeTimeout x) s (edgeAll 290 (count .weir 0 10 1 m₂))))
  ∧ (∀ (s : State) (who : Option Nat) (v : Word), weirRuns s.m = true →
    let x := v.toNat % 4096
    let k := expertAt s.m x
    let mine := hosted s.m k = true ∧ k.state = .closed ∧ k.round.toNat = v.toNat / 4096 % 65536
    (mine → Becomes (.wpReturn who v) s (weirProgress (setExpert x { k with state := .returning, writer := who } s.m)))
    ∧ (¬ mine → Becomes (.wpReturn who v) s
        (edgeAll 294 { s.m with weir := { s.m.weir with badReturn := true } })))
  ∧ (∀ (m m₁ : Module) (x : Nat),
    let k := expertAt m x
    k.state = .returning → sendResults k k.slots m = (true, m₁) →
    let k' := expertAt (finishReturn m x) x
    k'.state = .opened ∧ k'.round = k.round + 1 ∧ k'.slots = [] ∧ k'.ends = k.nextEnds ∧ k'.body = k.body)
  ∧ (∀ s : State, weirRuns s.m = true → Becomes .batchStart s (weirProgress (startBatch s.m)))
  ∧ (∀ (b : Batch) (m m₁ : Module) (pages : Sparse Nat) (routes : List Byte),
    let b' : Batch := { b with pages := pages }
    let act : Acc (Sparse Nat × List Byte) := do
      let pages ← if b.pages.isEmpty then batchPages b else pure b.pages
      let routes ← batchRead { b with pages := pages } b.route (8 * (b.count * b.k))
      pure (pages, routes)
    let all := m₁.weir.entries.length + b.count * b.k
    (∀ st off, checkBatch m b = some (st, off) →
      launchBatch b m = failBatch b st off (tall b.doneAt || b.doneAt % 8 != 0) m)
    ∧ (checkBatch m b = none → act.go m = (.ok (pages, routes), m₁) →
        launchBatch b m = (if 131072 < all then edgeAll 292 (count .weir 0 7 1 (setBatch b' m₁))
          else reserveChoices { b' with started := true } routes (setBatch { b' with started := true } m₁))))
  ∧ (∀ (x : Msg) (m : Module) (c : Choice) (b : Batch) (t : Word),
    let e := entryOf x
    Sparse.find m.weir.entries e = some c → batchAt m c.batch = some b → c.phase = .awaiting x.src t →
    (x.op.toNat / 2 = 2 → takeGrant x m = .ok (count .weir 0 4 1 (setChoice e { c with phase := .fresh } m)))
    ∧ (x.op.toNat / 2 = 3 → takeGrant x m = .ok (setChoice e { c with phase := .retry x.src m.time } m))
    ∧ (∀ row m₁, x.op.toNat / 2 < 2 → (batchRead b (b.x + b.vbytes * c.token) b.vbytes).go m = (.ok row, m₁) →
        takeGrant x m = .ok (sendTdata b c x.src.toNat x.addr row (setChoice e { c with phase := .granted m₁.time } m₁))))
  ∧ (∀ (x : Msg) (m m₁ : Module) (c : Choice) (b : Batch) (t : Word),
    let e := entryOf x
    let off := 16 * x.addr
    let c' : Choice := { c with arrived := c.arrived + x.payload.length }
    Sparse.find m.weir.entries e = some c →
    (c.phase = .lost t → takeRdata x m = .ok (count .weir 0 11 1 m))
    ∧ (c.phase = .granted t → batchAt m c.batch = some b → off + x.payload.length ≤ b.vbytes → b.draining = false →
        (batchWrite b (b.staging (b.k * c.token + c.choice) + off) x.payload).go m = (.ok (), m₁) →
        takeRdata x m = .ok (if b.vbytes ≤ c'.arrived then settleChoice c' 1 (freeEntry e m₁) else setChoice e c' m₁)))
  ∧ (∀ (s : State) (e : Nat) (c : Choice) (b : Batch) (home : BitVec 12) (t : Word), weirRuns s.m = true →
    Sparse.find s.m.weir.entries e = some c → batchAt s.m c.batch = some b → b.waiting = false →
    let waited := (s.m.time - t).toNat
    let tto := millis (max s.m.weir.tto.toNat 1)
    (c.phase = .retry home t → micros (max s.m.weir.retry.toNat 1) ≤ waited → b.draining = false →
      Becomes (.notYetRetry e) s (weirProgress (count .weir 0 8 1 (sendDispatch b e c home.toNat s.m))))
    ∧ (c.phase = .awaiting home t → tto ≤ waited → Becomes (.dispatchTimeout e) s
        (weirProgress (count .weir 0 4 1 (setChoice e { c with phase := .fresh } s.m))))
    ∧ (c.phase = .granted t → tto ≤ waited → b.draining = false →
        Becomes (.choiceLost e) s (weirProgress (edgeAll 293 (count .weir 0 6 1
          (settleChoice c 3 (setChoice e { c with phase := .lost s.m.time } s.m))))))
    ∧ (c.phase = .granted t → tto ≤ waited → b.draining = true →
        Becomes (.choiceLost e) s (weirProgress (settleChoice c 3 (freeEntry e s.m)))))
  ∧ (∀ (s : State) (e : Nat) (c : Choice) (t : Word), weirRuns s.m = true → Sparse.find s.m.weir.entries e = some c →
    c.phase = .lost t → millis (max s.m.weir.tto.toNat 1) ≤ (s.m.time - t).toNat →
    Becomes (.entryQuarantineEnd e) s (weirProgress (freeEntry e s.m)))
  ∧ (∀ (id t : Nat) (b : Batch) (row : List Byte) (m m₁ : Module), batchAt m id = some b → b.draining = false →
    b.waiting = false → tokenReady b t = true → (combineToken b t).go m = (.ok row, m₁) →
    (∀ m₂, (writeToken b t row).go m₁ = (.ok (), m₂) →
      combineReady id m t = setBatch { b with combined := b.combined ++ [t] } m₂)
    ∧ ∀ kind access va m₂, kind ≠ 8 → (writeToken b t row).go m₁ = (.error (.fault kind access va), m₂) →
      combineReady id m t = suspendBatch b kind access va m₁)
  ∧ ∀ (l : List (Nat × Nat)) (w r : Nat), combineElem [] = 0
    ∧ combineElem (l ++ [(w, r)]) = Fp.add32 (combineElem l) (Fp.mul32 w r)

/-! ## Clocks, power states and resets -/

/-- Dividers step, loops relock and coast, units gate only when idle, and each reset clears what its kind clears
(18_clocks_power_reset.md). That a core loop coasts after STANDBY on a failed source (log 54), that kept core loops
are restarted by a reset (log 55), and that a boot step reports only codes that fit it (log 56) are the model's
reading. -/
def Obligations.ClocksAndResetsAct : Prop :=
  let cleared (m : Module) : Prop :=
    m.time = 0 ∧ m.faults = {} ∧ m.hg = {} ∧ m.threads = [] ∧ m.cores = [] ∧ m.events = [] ∧ m.slices = []
    ∧ m.basins = [] ∧ m.arbs = [] ∧ m.gate = {} ∧ m.haze = {} ∧ m.freezeTab = 0 ∧ m.freezeGen = 0 ∧ m.fabric = {}
    ∧ m.weir = {} ∧ m.squall = {} ∧ m.tlbs = [] ∧ m.host.rings = [] ∧ m.host.select = 0 ∧ m.clocks.gated = 0
    ∧ m.clocks.standby = false
  let idle (s : State) : Prop := s.m.clocks.booting = none ∧ s.m.errors.stopped = false
  (∀ (s : State) (n : Nat), s.m.board.input = true → n < 10 →
    let l := loopAt s.m n
    (∀ hi, l.phase = .down hi →
      (l.div + 1 < hi → Becomes (.dividerStep n) s (setLoop n { l with div := l.div + 1 } s.m))
      ∧ (hi ≤ l.div + 1 → sourceGood s.m 0 = true →
          Becomes (.dividerStep n) s (setLoop n { l with div := hi, phase := .relock, lock := false } s.m))
      ∧ (hi ≤ l.div + 1 → sourceGood s.m 0 = false → Becomes (.dividerStep n) s s.m))
    ∧ (l.phase = .up → l.target.2.2 + 1 < l.div →
        Becomes (.dividerStep n) s (setLoop n { l with div := l.div - 1 } s.m))
    ∧ (l.phase = .up → l.div ≤ l.target.2.2 + 1 →
        Becomes (.dividerStep n) s (endSwitch n (setLoop n { l with div := l.target.2.2 } s.m)))
    ∧ (l.phase = .relock → sourceGood s.m 0 = true → sourceGood s.m l.target.1.toNat = true →
        let hi := slowDivider (productOf l.target.1.toNat l.target.2.1.toNat) l.target.2.2
        let m₁ := setLoop n { l with lock := true, coast := false, src := l.target.1, mult := l.target.2.1, div := hi,
                                     phase := .up } s.m
        Becomes (.loopRelock n) s (if l.target.2.2 < hi then m₁ else endSwitch n m₁)))
  ∧ (∀ f d e : Nat, 1 ≤ d → d ≤ e → e ≤ 64 → f ≤ e * khz 125000 →
    d ≤ slowDivider f d ∧ slowDivider f d ≤ e ∧ f ≤ slowDivider f d * khz 125000)
  ∧ (∀ (s : State) (c : Nat), c < 4 →
    let bit : BitVec 4 := BitVec.ofNat 4 (2 ^ c)
    let m₁ : Module := { s.m with clocks := { s.m.clocks with srcGood := s.m.clocks.srcGood &&& ~~~bit,
                                                              srcFail := s.m.clocks.srcFail ||| bit } }
    (sourceGood s.m c = true →
      Becomes (.sourceFail c) s ((List.range 10).foldl (coastLoop c) (raiseError 7 0x61 handleClocks 0 c m₁)))
    ∧ (sourceGood s.m c = false → Becomes (.sourceFail c) s s.m)
    ∧ (sourceGood s.m c = true → (loopAt s.m 6).src.toNat ≠ c → (loopAt s.m 7).src.toNat ≠ c →
        ∃ m, Becomes (.sourceFail c) s m ∧ sourceGood m c = false ∧ m.clocks.srcFail.getLsbD c = true
          ∧ ∀ n, n < 10 → loopAt m n =
              (let l := loopAt s.m n
               if l.lock = true ∧ l.stopped = false ∧ l.src.toNat = c
               then { l with lock := false, coast := true, coasted := true } else l))
    ∧ let m₂ : Module := { s.m with clocks := { s.m.clocks with srcGood := s.m.clocks.srcGood ||| bit } }
      (c ≠ 2 → Becomes (.sourceRecovery c) s m₂)
      ∧ (c = 2 → ∃ m, Becomes (.sourceRecovery c) s m
          ∧ m = { m₂ with clocks := { m₂.clocks with loops := m.clocks.loops } }
          ∧ ∀ n, n < 10 → loopAt m n =
              (let l := loopAt s.m n
               if (n = 6 ∨ n = 7) ∧ l.stopped = true ∧ wayPresent s.m.board.part 0 = true
               then l.restart (sourceGood m₂ l.src.toNat) else l)))
  ∧ (∀ (s : State) (w : Nat) (v : Word), w < 6 →
    ∃ m, Becomes (.ckEnWrite w v) s m ∧ m.mem = s.m.mem ∧ m.threads = s.m.threads
      ∧ (∀ h, h / 64 ≠ w → m.clocks.gated.getLsbD h = s.m.clocks.gated.getLsbD h)
      ∧ ∀ i, i < 64 → ∀ u, unitOf (64 * w + i) = some u →
        let now := m.clocks.gated.getLsbD (64 * w + i)
        let before := s.m.clocks.gated.getLsbD (64 * w + i)
        let real := clockEnabled u = true ∧ unitPresent s.m.board.part u = true
        (¬ real → now = before) ∧ (real → v.getLsbD i = true → now = false)
        ∧ (real → v.getLsbD i = false → now = (before || unitIdle s.m u))
        ∧ (real → v.getLsbD i = false → now = false → m.clocks.gateRej = true))
  ∧ (∀ (s : State) (h : Nat), handlePresent s.m.board.part h = true → unitGated s.m h = true → h < 384 →
    ∃ m, Becomes (.gatedTouch h) s m ∧ m.clocks.touched.getLsbD h = true ∧ m.clocks.gtouchAny = true
      ∧ (∀ k, k ≠ h → m.clocks.touched.getLsbD k = s.m.clocks.touched.getLsbD k)
      ∧ m = { s.m with clocks := m.clocks })
  ∧ (∀ (s : State) (v : BitVec 32), ∃ m, Becomes (.ckMonWrite v) s m ∧ m.clocks.monDiv.toNat = v.toNat / 2 ^ 16
    ∧ m.clocks.monSel.toNat = v.toNat % 64 ∧ m = { s.m with clocks := { s.m.clocks with
        monDiv := m.clocks.monDiv, monSel := m.clocks.monSel } }
    ∧ let sel := v.toNat % 64
      let n := v.toNat / 2 ^ 16 + 1
      (sel = 0 ∨ sel = 6 ∨ sel = 7 ∨ 28 ≤ sel ∨ inReset s.m = true → clkmon m = none)
      ∧ (1 ≤ sel → sel ≤ 4 → inReset s.m = false → clkmon m =
          if sourceKhz (sel - 1) ≤ 250000 * n then some (khz (sourceKhz (sel - 1)), n) else none))
  ∧ (∀ s : State, alive s.m = true →
    (standbyAllowed s.m = true → ∃ m, Becomes .standbyEntry s m ∧ m.clocks.standby = true
      ∧ m.clocks.standbyReq = true ∧ m.mem = s.m.mem ∧ m.threads = s.m.threads
      ∧ (∀ n, n < 4 → (loopAt m n).stopped = true ∧ (loopAt m n).lock = false)
      ∧ ∀ n, 4 ≤ n → loopAt m n = loopAt s.m n)
    ∧ (standbyAllowed s.m = false → ¬ (s.m.clocks.standby = true ∧ s.m.clocks.moving = false) →
        Becomes .standbyEntry s { s.m with clocks := { s.m.clocks with rej := true } })
    ∧ (s.m.clocks.standby = true → s.m.clocks.moving = false → Becomes .standbyEntry s s.m
        ∧ ∃ m, Becomes .standbyExit s m ∧ m.clocks.standbyReq = false ∧ m.mem = s.m.mem
          ∧ (∀ n, n < 4 → loopAt m n =
              (let l := loopAt s.m n
               if sourceGood s.m l.src.toNat = true
               then { l with stopped := false, lock := false, coast := false, phase := .relock,
                             target := (l.src, l.mult, l.div) }
               else { l with stopped := false, lock := false, coast := true, coasted := true }))
          ∧ ((∃ n, n < 4 ∧ sourceGood s.m (loopAt s.m n).src.toNat = true) →
              m.clocks.standby = true ∧ m.clocks.moving = true))
    ∧ (s.m.clocks.standby = false → Becomes .standbyExit s s.m))
  ∧ (∀ s : State,
    ∃ m, Becomes .powerOnReset s m ∧ cleared m ∧ m.clocks.booting = some (.powerOn, 1) ∧ m.mem = [] ∧ m.poison = []
      ∧ m.stats = [] ∧ m.errors = {} ∧ m.clocks.seed = 0 ∧ m.clocks.srcFail = 0 ∧ m.clocks.loops = []
      ∧ m.board.bank0 = s.m.board.bank0 ∧ m.board.bank1 = s.m.board.bank1 ∧ m.board.active = s.m.board.active)
  ∧ (∀ s : State, s.m.board.input = true → idle s →
    (∃ m, Becomes .fundamentalReset s m ∧ cleared m ∧ m.host.perst = true ∧ m.clocks.loops = []
      ∧ m.clocks.booting = some (.fundamental, if s.m.board.rails = railsUp then 2 else 1)
      ∧ m.clocks.seed = s.m.clocks.seed ∧ m.clocks.srcFail = 0
      ∧ ∀ x, x ∈ m.stats ↔ x ∈ s.m.stats ∧ x.1 / 65536 = Stat.auth.block)
    ∧ (s.m.clocks.bootFail = false → ∃ m, Becomes .hostLinkReset s m ∧ cleared m
      ∧ m.clocks.booting = some (.hostLink, 5) ∧ m.host.linkUp = false ∧ m.mem = (flushLlc (beginStop s.m)).mem
      ∧ m.clocks.seed = s.m.clocks.seed ∧ m.clocks.srcFail = s.m.clocks.srcFail
      ∧ m.clocks.loops = s.m.clocks.loops.map (fun l => (l.1, keepLoop s.m.clocks.srcGood l.1 l.2))))
  ∧ (∀ (s : State) (t : Word) (seed : Option Word) (clear : Bool) (rest : List (Word × Option Word × Bool)), s.m.board.input = true → idle s → s.m.clocks.bootFail = false →
    s.m.pendingReset.warm = (t, seed, clear) :: rest → micros 10 ≤ (s.m.time - t).toNat →
    ∃ m, Becomes .warmReset s m ∧ cleared m ∧ m.clocks.booting = some (.warm, 5) ∧ m.host.linkUp = s.m.host.linkUp
      ∧ m.host.msix = s.m.host.msix ∧ m.pendingReset.warm = rest.map (fun w => (w.1 - s.m.time, w.2))
      ∧ m.clocks.seed = seed.getD s.m.clocks.seed
      ∧ m.mem = (flushLlc (beginStop s.m)).mem
      ∧ m.clocks.loops = s.m.clocks.loops.map (fun l => (l.1, keepLoop s.m.clocks.srcGood l.1 l.2)))
  ∧ (∀ (good : BitVec 4) (n : Nat) (l : Loop),
    (n < 4 → l.stopped = true → keepLoop good n l =
      ({ l with command := none } : Loop).restart (good.getLsbD l.src.toNat))
    ∧ (4 ≤ n ∨ l.stopped = false → keepLoop good n l = { l with command := none }))
  ∧ (∀ s : State, s.m.board.input = false →
    Becomes .fundamentalReset s { s.m with host := { s.m.host with perst := true } })
  ∧ (∀ s : State, Becomes .perstDeassert s { s.m with host := { s.m.host with perst := false } }
    ∧ (s.m.board.input = true → s.m.board.rails.getLsbD 1 = true → inPerst s.m = false →
        Becomes .hostLinkUp s { s.m with host := { s.m.host with linkUp := true } }))
  ∧ (∀ (k : ResetKind) (clear : Bool) (n : Nat), 1 ≤ n → n ≤ 10 →
    let runs (i : Nat) : Prop := (i = 6 → k = .powerOn ∨ k = .fundamental ∨ clear = true)
      ∧ (i = 8 → k = .powerOn)
    match nextStep k clear n with
    | some i => n < i ∧ i ≤ 10 ∧ runs i ∧ ∀ j, n < j → j < i → ¬ runs j
    | none => ∀ j, n < j → j ≤ 10 → ¬ runs j)
  ∧ ∀ (s : State) (k : ResetKind) (n : Nat) (bad : Bool), s.m.clocks.booting = some (k, n) → bootRuns s.m n = true →
    (stepFailure k n none bad s.m = none → ∃ t, exec (.bootStepComplete none bad) s = .next t ∧ t.pending = s.pending
      ∧ t.m.clocks.step = n
      ∧ t.m.clocks.booting = (nextStep k s.m.pendingReset.clearMem n).map fun i => (k, i))
    ∧ ∀ f, codeFits n f.1.toNat = true → ∃ m, Becomes (.bootStepComplete (some f) bad) s m
        ∧ m.clocks.bootFail = true ∧ m.clocks.code = f.1 ∧ m.clocks.booting = none ∧ m.mem = s.m.mem

/-! ## Errors, inputs, the management bus and register accesses -/

/-- Errors are logged, merged or lost; a FATAL one stops the module; inputs, bus reads and register writes act as
stated (19_ras_squall.md, 20_module_hardware.md, 00_scope.md). An access that needs link or running module (log 22), a
FATAL record in the log (log 23), ER_CNTCLR clearing at once (log 57), the packet error code (log 58), and the lone
high half and swallowed accesses (log 59) are the model's reading. -/
def Obligations.ErrorsInputsAndRegisters : Prop :=
  (∀ (s : State) (cls : BitVec 4) (d : BitVec 8) (u : BitVec 15) (a : Word) (i : BitVec 48),
    let c : Instr := .errorDetected cls d u a i
    (1 ≤ cls.toNat → cls.toNat ≤ 8 → cls ≠ 5 → Becomes c s (errorAction cls.toNat d.toNat u.toNat a.toNat i.toNat
      (raiseError cls d u.toNat a.toNat i.toNat s.m)))
    ∧ (cls = 0xF → Becomes c s (raiseFatal d u.toNat a.toNat i.toNat s.m))
    ∧ (cls.toNat = 0 ∨ (9 ≤ cls.toNat ∧ cls.toNat ≤ 14) → Becomes c s s.m)
    ∧ (cls = 5 → ∀ sl, handleSlice 0 ≤ u.toNat → unitOf u.toNat = some (.slice sl) →
        Becomes c s (retireWay sl (i.toNat % 16) s.m)))
  ∧ (∀ (r : ErrorRecord) (m : Module),
    let e := m.errors
    let e' := (writeRecord r m).errors
    let merges := ∃ o, newestUnread e = some o ∧ o.cls = r.cls ∧ o.dcode = r.dcode ∧ o.unit = r.unit ∧ o.addr = r.addr
    (∀ o, newestUnread e = some o → merges → e'.tail = e.tail ∧ e'.seq = e.seq
      ∧ Sparse.find e'.log ((e.tail - 1).toNat % 64) = some { o with rep := if o.rep = 0xFFFF then o.rep else o.rep + 1 })
    ∧ (¬ merges → 64 ≤ (e.tail - e.head).toNat → e' = { e with lost := true })
    ∧ (¬ merges → (e.tail - e.head).toNat < 64 → e'.tail = e.tail + 1 ∧ e'.seq = e.seq + 1 ∧ e'.lost = e.lost
        ∧ Sparse.find e'.log (e.tail.toNat % 64) = some r))
  ∧ (∀ (d : BitVec 8) (u a i : Nat) (m : Module),
    let m' := raiseFatal d u a i m
    m'.errors.stopped = true ∧ alive m' = false ∧ m'.hg.pool = [] ∧ m'.mem = m.mem
    ∧ (∀ t, (threadAt m' t).run = .idle) ∧ (∀ w, (wayAt m' w).up = false ∧ (wayAt m' w).hold = false)
    ∧ (let first := m.errors.stopped = true ∧ ∃ f, m.errors.fatal = some f
          ∧ ((f.dcode = 0xF1 ∧ d = 0xF2) ∨ (f.dcode = 0xF2 ∧ d = 0xF1))
       (first → m'.errors.fatal = m.errors.fatal) ∧ (¬ first → m'.errors.fatal = some (newRecord m 0xF d u a i))))
  ∧ (∀ (s : State) (v : BitVec 32),
    let e := s.m.errors
    let n := BitVec.ofNat 7 v.toNat
    Becomes (.erPtrHeadWrite v) s { s.m with errors :=
      if (n - e.head).toNat ≤ (e.tail - e.head).toNat then { e with head := n } else { e with badHead := true } })
  ∧ (∀ (s : State) (v : BitVec 32),
    let h := v.toNat % 2 ^ 15
    (s.m.errors.clearing.isSome = true → Becomes (.erCntclr v) s s.m)
    ∧ (s.m.errors.clearing = none → ∃ m, Becomes (.erCntclr v) s m ∧ m.errors.clearing = some (BitVec.ofNat 15 h)
        ∧ m = { s.m with stats := m.stats, errors := m.errors }
        ∧ (∀ x, x ∈ m.stats ↔ x ∈ s.m.stats ∧ ∀ u, counterUnit x.1 = some u → below h u = false)
        ∧ ∀ x ∈ s.m.stats, x.1 / 65536 = Stat.auth.block → x ∈ m.stats)
    ∧ Becomes .clearComplete s { s.m with errors := { s.m.errors with clearing := none } })
  ∧ (∀ s : State,
    let b := s.m.board
    (b.input = true → b.excursion = false → Becomes .inputExcursion s
      (raiseError 8 0x72 handleClocks 0 0 { s.m with board := { b with excursion := true } }))
    ∧ (b.input = false ∨ b.excursion = true → Becomes .inputExcursion s s.m)
    ∧ Becomes .inputExcursionEnd s { s.m with board := { b with excursion := false } }
    ∧ (∃ m, Becomes .inputLoss s m ∧ m.board.input = false ∧ m.board.rails = 0 ∧ m.mem = [] ∧ m.threads = []
        ∧ m.stats = [] ∧ alive m = false ∧ m.board.bank0 = b.bank0 ∧ m.board.bank1 = b.bank1)
    ∧ (b.input = true → ∃ m, Becomes .regulatorFault s m ∧ m.errors.stopped = true ∧ m.errors.fatal.isSome = true
        ∧ m.board = { b with rails := 3 }))
  ∧ (∀ (s : State) (d : Nat) (r : BitVec 16), d < 14 → diePowered s.m d = true ∨ meetsFault s.m d = true →
    let b := s.m.board
    let hot := decide (95 * 256 < r.toInt)
    let m₁ : Module := { s.m with board := { b with temp := Sparse.set b.temp d r, hot := Sparse.set b.hot d hot } }
    let m₂ := if hot = true ∧ Sparse.get false b.hot d = false then raiseError 8 0x71 (dieUnit d) 0 0 m₁ else m₁
    (r.toInt ≤ 110 * 256 → Becomes (.thermalReading d r) s m₂)
    ∧ (110 * 256 < r.toInt → ∃ m, Becomes (.thermalReading d r) s m ∧ m.board.thermTrip = true
        ∧ m.board.rails = 3 ∧ m.errors.stopped = true ∧ m.errors.fatal.isSome = true))
  ∧ (∀ (s : State) (n : Nat) (k : BitVec 8),
    let b := s.m.board
    let answer (code : Nat) (l : List Byte) : Module :=
      let read := bytesOf 1 l.length ++ l
      let sent := bytesOf 1 (2 * b.busAddr.toNat) ++ bytesOf 1 code ++ bytesOf 1 (2 * b.busAddr.toNat + 1) ++ read
      { s.m with board := { b with
          smbus := if b.input = true ∧ 2 ≤ s.m.clocks.step ∧ b.busAddr.toNat = 0x58 + b.smbAddr.toNat
            then some (if b.busPec = true then read ++ bytesOf 1 (packetError sent) else read) else none } }
    Becomes .partNumber s (answer 1 (partName s.m.board.part))
    ∧ Becomes .serialNumber s (answer 2 ((List.range 16).map fun i => s.m.board.serial.getD i 0))
    ∧ Becomes .smbusAuthUid s (answer 3 (bytesOf 8 s.m.board.uid.toNat))
    ∧ Becomes .firmwareVersion s (answer 4 (bytesOf 4 s.m.board.running.toNat))
    ∧ (n < 4 → Becomes (.computeDieTemperature n) s (answer (0x11 + n) (bytesOf 2 (dieTemp s.m n).toNat)))
    ∧ (n < 2 → Becomes (.ioDieTemperature n) s (answer (0x15 + n) (bytesOf 2 (dieTemp s.m (4 + n)).toNat)))
    ∧ Becomes .moduleTemperature s (answer 0x10 (hottest s.m (List.range 14)))
    ∧ Becomes .basinStackTemperature s (answer 0x17 (hottest s.m [6, 7, 8, 9, 10, 11, 12, 13]))
    ∧ Becomes (.smbusNack k) s { s.m with board := { b with smbus := none } })
  ∧ (∀ (m : Module) (dies : List Nat), ∃ r : BitVec 16, hottest m dies = bytesOf 2 r.toNat
    ∧ (∀ d ∈ dies, (dieTemp m d).toInt ≤ r.toInt) ∧ (r = 0x8000 ∨ ∃ d ∈ dies, r = dieTemp m d))
  ∧ (∀ (s : State) (who : Option Nat) (o w : Nat) (v : Word),
    let c : Instr := .registerWrite who o w v
    let n := v.toNat % 2 ^ 32
    let half (l : Sparse (BitVec 32)) : Module := { s.m with host := { s.m.host with lowHalf := l } }
    let arrives := (who = none ∧ s.m.host.linkUp = true) ∨ ∃ t, who = some t ∧ t < 384 ∧ alive s.m = true
      ∧ ((threadAt s.m t).priv.level = 2 ∨ apertureOpen o = true)
    (¬ arrives → Becomes c s s.m ∧ Becomes (.badWidthAccess who o w) s s.m)
    ∧ (arrives → 0xFF000 ≤ o → o < 0x8000000 →
        (∀ m', shut o s.m = some m' → Becomes c s m')
        ∧ (shut o s.m = none → meetsAt o w = .bad → Becomes c s (logAccess who o w s.m)
            ∧ Becomes (.badWidthAccess who o w) s (logAccess who o w s.m))
        ∧ (shut o s.m = none → ∀ r d, meetsAt o w = .reg r d false → Becomes c s (writeReg who true r n s.m).2)
        ∧ (shut o s.m = none → ∀ r d, meetsAt o w = .reg r d true →
            (w = 8 → Becomes c s (writeReg who true r v.toNat (half (Sparse.del s.m.host.lowHalf o))).2)
            ∧ (w ≠ 8 → d = 0 → Becomes c s (half (Sparse.set s.m.host.lowHalf o (BitVec.ofNat 32 v.toNat))))
            ∧ (∀ l, w ≠ 8 → d ≠ 0 → Sparse.find s.m.host.lowHalf (o - 4) = some l → Becomes c s
                (writeReg who true r (n * 2 ^ 32 + l.toNat) (half (Sparse.del s.m.host.lowHalf (o - 4)))).2)
            ∧ (w ≠ 8 → d ≠ 0 → Sparse.find s.m.host.lowHalf (o - 4) = none → Becomes c s (writeReg who false r
                (n * 2 ^ 32 + (if bitwise r then 0 else regValue s.auth s.m r % 2 ^ 32)) s.m).2)))
    ∧ (arrives → o < 0xFF000 → Becomes c s s.m))
  ∧ (∀ o w : Nat, ((w ≠ 4 ∧ w ≠ 8) ∨ o % w ≠ 0 → meetsAt o w = .bad)
    ∧ ∀ r d, regAt o = some (r, d, false) → meetsAt o 8 = .bad)
  ∧ ∀ (m : Module) (v : Nat) (low : Bool) (who : Option Nat),
    (writeReg who low .erStatus v m).2 = { m with errors := { m.errors with
        badHead := m.errors.badHead && !v.testBit 1, lost := m.errors.lost && !v.testBit 0 } }
    ∧ (writeReg who low .gvCtrl v m).2 = { m with gate := { m.gate with
        timeout := BitVec.ofNat 16 (v / 2 ^ 16), force := v.testBit 0 } }
end

