-- ==== Sys2Proof/Laws/Sparse.lean ====
section
/-! SUPPORT. Tables: a key set reads back, and every other key reads as before. -/

namespace Sys2Proof.Machine

variable {α : Type}

theorem Sparse.get_set_same (d : α) (l : Sparse α) (i : Nat) (v : α) : Sparse.get d (Sparse.set l i v) i = v := by
  induction l with
  | nil => simp [Sparse.set, Sparse.get]
  | cons p l ih =>
    obtain ⟨k, w⟩ := p
    by_cases h : i < k
    · simp [Sparse.set, Sparse.get, h]
    · by_cases e : i = k
      · simp [Sparse.set, Sparse.get, e]
      · simp [Sparse.set, Sparse.get, h, e, ih]

theorem Sparse.get_set_other (d : α) (l : Sparse α) {i j : Nat} (v : α) (h : j ≠ i) :
    Sparse.get d (Sparse.set l i v) j = Sparse.get d l j := by
  induction l with
  | nil => simp [Sparse.set, Sparse.get, h]
  | cons p l ih =>
    obtain ⟨k, w⟩ := p
    by_cases hik : i < k
    · simp only [Sparse.set, hik, if_true, Sparse.get]
      by_cases hj : j < i
      · have : j < k := by omega
        simp [hj, this]
      · simp [hj, h]
    · by_cases e : i = k
      · subst e
        simp [Sparse.set, Sparse.get, h]
      · simp only [Sparse.set, hik, e, if_false, Sparse.get, ih]

theorem Sparse.find_set_same (l : Sparse α) (i : Nat) (v : α) : Sparse.find (Sparse.set l i v) i = some v := by
  induction l with
  | nil => simp [Sparse.set, Sparse.find]
  | cons p l ih =>
    obtain ⟨k, w⟩ := p
    by_cases h : i < k
    · simp [Sparse.set, Sparse.find, h]
    · by_cases e : i = k
      · simp [Sparse.set, Sparse.find, e]
      · simp [Sparse.set, Sparse.find, h, e, ih]

end Sys2Proof.Machine
end

