-- ==== Sys2Proof/Laws/State.lean ====
section
/-! SUPPORT. Each update of the module and each field it leaves alone, so that no later proof unfolds an update. -/

namespace Sys2Proof.Machine

/-! ## setThread -/

@[simp] theorem setThread_time (t : Nat) (x : Thread) (m : Module) : (setThread t x m).time = m.time := rfl
@[simp] theorem setThread_freeCount (t : Nat) (x : Thread) (m : Module) : (setThread t x m).freeCount = m.freeCount := rfl
@[simp] theorem setThread_host (t : Nat) (x : Thread) (m : Module) : (setThread t x m).host = m.host := rfl
@[simp] theorem setThread_faults (t : Nat) (x : Thread) (m : Module) : (setThread t x m).faults = m.faults := rfl
@[simp] theorem setThread_hg (t : Nat) (x : Thread) (m : Module) : (setThread t x m).hg = m.hg := rfl
@[simp] theorem setThread_cores (t : Nat) (x : Thread) (m : Module) : (setThread t x m).cores = m.cores := rfl
@[simp] theorem setThread_events (t : Nat) (x : Thread) (m : Module) : (setThread t x m).events = m.events := rfl
@[simp] theorem setThread_mem (t : Nat) (x : Thread) (m : Module) : (setThread t x m).mem = m.mem := rfl
@[simp] theorem setThread_poison (t : Nat) (x : Thread) (m : Module) : (setThread t x m).poison = m.poison := rfl
@[simp] theorem setThread_slices (t : Nat) (x : Thread) (m : Module) : (setThread t x m).slices = m.slices := rfl
@[simp] theorem setThread_drams (t : Nat) (x : Thread) (m : Module) : (setThread t x m).drams = m.drams := rfl
@[simp] theorem setThread_basins (t : Nat) (x : Thread) (m : Module) : (setThread t x m).basins = m.basins := rfl
@[simp] theorem setThread_arbs (t : Nat) (x : Thread) (m : Module) : (setThread t x m).arbs = m.arbs := rfl
@[simp] theorem setThread_gate (t : Nat) (x : Thread) (m : Module) : (setThread t x m).gate = m.gate := rfl
@[simp] theorem setThread_haze (t : Nat) (x : Thread) (m : Module) : (setThread t x m).haze = m.haze := rfl
@[simp] theorem setThread_freezeTab (t : Nat) (x : Thread) (m : Module) : (setThread t x m).freezeTab = m.freezeTab := rfl
@[simp] theorem setThread_freezeGen (t : Nat) (x : Thread) (m : Module) : (setThread t x m).freezeGen = m.freezeGen := rfl
@[simp] theorem setThread_fabric (t : Nat) (x : Thread) (m : Module) : (setThread t x m).fabric = m.fabric := rfl
@[simp] theorem setThread_weir (t : Nat) (x : Thread) (m : Module) : (setThread t x m).weir = m.weir := rfl
@[simp] theorem setThread_clocks (t : Nat) (x : Thread) (m : Module) : (setThread t x m).clocks = m.clocks := rfl
@[simp] theorem setThread_pendingReset (t : Nat) (x : Thread) (m : Module) : (setThread t x m).pendingReset = m.pendingReset := rfl
@[simp] theorem setThread_errors (t : Nat) (x : Thread) (m : Module) : (setThread t x m).errors = m.errors := rfl
@[simp] theorem setThread_squall (t : Nat) (x : Thread) (m : Module) : (setThread t x m).squall = m.squall := rfl
@[simp] theorem setThread_board (t : Nat) (x : Thread) (m : Module) : (setThread t x m).board = m.board := rfl
@[simp] theorem setThread_tlbs (t : Nat) (x : Thread) (m : Module) : (setThread t x m).tlbs = m.tlbs := rfl
@[simp] theorem setThread_walks (t : Nat) (x : Thread) (m : Module) : (setThread t x m).walks = m.walks := rfl
@[simp] theorem setThread_stats (t : Nat) (x : Thread) (m : Module) : (setThread t x m).stats = m.stats := rfl

/-! ## setCore -/

@[simp] theorem setCore_time (c : Nat) (x : Core) (m : Module) : (setCore c x m).time = m.time := rfl
@[simp] theorem setCore_freeCount (c : Nat) (x : Core) (m : Module) : (setCore c x m).freeCount = m.freeCount := rfl
@[simp] theorem setCore_host (c : Nat) (x : Core) (m : Module) : (setCore c x m).host = m.host := rfl
@[simp] theorem setCore_faults (c : Nat) (x : Core) (m : Module) : (setCore c x m).faults = m.faults := rfl
@[simp] theorem setCore_hg (c : Nat) (x : Core) (m : Module) : (setCore c x m).hg = m.hg := rfl
@[simp] theorem setCore_threads (c : Nat) (x : Core) (m : Module) : (setCore c x m).threads = m.threads := rfl
@[simp] theorem setCore_events (c : Nat) (x : Core) (m : Module) : (setCore c x m).events = m.events := rfl
@[simp] theorem setCore_mem (c : Nat) (x : Core) (m : Module) : (setCore c x m).mem = m.mem := rfl
@[simp] theorem setCore_poison (c : Nat) (x : Core) (m : Module) : (setCore c x m).poison = m.poison := rfl
@[simp] theorem setCore_slices (c : Nat) (x : Core) (m : Module) : (setCore c x m).slices = m.slices := rfl
@[simp] theorem setCore_drams (c : Nat) (x : Core) (m : Module) : (setCore c x m).drams = m.drams := rfl
@[simp] theorem setCore_basins (c : Nat) (x : Core) (m : Module) : (setCore c x m).basins = m.basins := rfl
@[simp] theorem setCore_arbs (c : Nat) (x : Core) (m : Module) : (setCore c x m).arbs = m.arbs := rfl
@[simp] theorem setCore_gate (c : Nat) (x : Core) (m : Module) : (setCore c x m).gate = m.gate := rfl
@[simp] theorem setCore_haze (c : Nat) (x : Core) (m : Module) : (setCore c x m).haze = m.haze := rfl
@[simp] theorem setCore_freezeTab (c : Nat) (x : Core) (m : Module) : (setCore c x m).freezeTab = m.freezeTab := rfl
@[simp] theorem setCore_freezeGen (c : Nat) (x : Core) (m : Module) : (setCore c x m).freezeGen = m.freezeGen := rfl
@[simp] theorem setCore_fabric (c : Nat) (x : Core) (m : Module) : (setCore c x m).fabric = m.fabric := rfl
@[simp] theorem setCore_weir (c : Nat) (x : Core) (m : Module) : (setCore c x m).weir = m.weir := rfl
@[simp] theorem setCore_clocks (c : Nat) (x : Core) (m : Module) : (setCore c x m).clocks = m.clocks := rfl
@[simp] theorem setCore_pendingReset (c : Nat) (x : Core) (m : Module) : (setCore c x m).pendingReset = m.pendingReset := rfl
@[simp] theorem setCore_errors (c : Nat) (x : Core) (m : Module) : (setCore c x m).errors = m.errors := rfl
@[simp] theorem setCore_squall (c : Nat) (x : Core) (m : Module) : (setCore c x m).squall = m.squall := rfl
@[simp] theorem setCore_board (c : Nat) (x : Core) (m : Module) : (setCore c x m).board = m.board := rfl
@[simp] theorem setCore_tlbs (c : Nat) (x : Core) (m : Module) : (setCore c x m).tlbs = m.tlbs := rfl
@[simp] theorem setCore_walks (c : Nat) (x : Core) (m : Module) : (setCore c x m).walks = m.walks := rfl
@[simp] theorem setCore_stats (c : Nat) (x : Core) (m : Module) : (setCore c x m).stats = m.stats := rfl

/-! ## setEvents -/

@[simp] theorem setEvents_time (d : Nat) (x : Events) (m : Module) : (setEvents d x m).time = m.time := rfl
@[simp] theorem setEvents_freeCount (d : Nat) (x : Events) (m : Module) : (setEvents d x m).freeCount = m.freeCount := rfl
@[simp] theorem setEvents_host (d : Nat) (x : Events) (m : Module) : (setEvents d x m).host = m.host := rfl
@[simp] theorem setEvents_faults (d : Nat) (x : Events) (m : Module) : (setEvents d x m).faults = m.faults := rfl
@[simp] theorem setEvents_hg (d : Nat) (x : Events) (m : Module) : (setEvents d x m).hg = m.hg := rfl
@[simp] theorem setEvents_threads (d : Nat) (x : Events) (m : Module) : (setEvents d x m).threads = m.threads := rfl
@[simp] theorem setEvents_cores (d : Nat) (x : Events) (m : Module) : (setEvents d x m).cores = m.cores := rfl
@[simp] theorem setEvents_mem (d : Nat) (x : Events) (m : Module) : (setEvents d x m).mem = m.mem := rfl
@[simp] theorem setEvents_poison (d : Nat) (x : Events) (m : Module) : (setEvents d x m).poison = m.poison := rfl
@[simp] theorem setEvents_slices (d : Nat) (x : Events) (m : Module) : (setEvents d x m).slices = m.slices := rfl
@[simp] theorem setEvents_drams (d : Nat) (x : Events) (m : Module) : (setEvents d x m).drams = m.drams := rfl
@[simp] theorem setEvents_basins (d : Nat) (x : Events) (m : Module) : (setEvents d x m).basins = m.basins := rfl
@[simp] theorem setEvents_arbs (d : Nat) (x : Events) (m : Module) : (setEvents d x m).arbs = m.arbs := rfl
@[simp] theorem setEvents_gate (d : Nat) (x : Events) (m : Module) : (setEvents d x m).gate = m.gate := rfl
@[simp] theorem setEvents_haze (d : Nat) (x : Events) (m : Module) : (setEvents d x m).haze = m.haze := rfl
@[simp] theorem setEvents_freezeTab (d : Nat) (x : Events) (m : Module) : (setEvents d x m).freezeTab = m.freezeTab := rfl
@[simp] theorem setEvents_freezeGen (d : Nat) (x : Events) (m : Module) : (setEvents d x m).freezeGen = m.freezeGen := rfl
@[simp] theorem setEvents_fabric (d : Nat) (x : Events) (m : Module) : (setEvents d x m).fabric = m.fabric := rfl
@[simp] theorem setEvents_weir (d : Nat) (x : Events) (m : Module) : (setEvents d x m).weir = m.weir := rfl
@[simp] theorem setEvents_clocks (d : Nat) (x : Events) (m : Module) : (setEvents d x m).clocks = m.clocks := rfl
@[simp] theorem setEvents_pendingReset (d : Nat) (x : Events) (m : Module) : (setEvents d x m).pendingReset = m.pendingReset := rfl
@[simp] theorem setEvents_errors (d : Nat) (x : Events) (m : Module) : (setEvents d x m).errors = m.errors := rfl
@[simp] theorem setEvents_squall (d : Nat) (x : Events) (m : Module) : (setEvents d x m).squall = m.squall := rfl
@[simp] theorem setEvents_board (d : Nat) (x : Events) (m : Module) : (setEvents d x m).board = m.board := rfl
@[simp] theorem setEvents_tlbs (d : Nat) (x : Events) (m : Module) : (setEvents d x m).tlbs = m.tlbs := rfl
@[simp] theorem setEvents_walks (d : Nat) (x : Events) (m : Module) : (setEvents d x m).walks = m.walks := rfl
@[simp] theorem setEvents_stats (d : Nat) (x : Events) (m : Module) : (setEvents d x m).stats = m.stats := rfl

/-! ## setSlice -/

@[simp] theorem setSlice_time (k : Nat) (x : Slice) (m : Module) : (setSlice k x m).time = m.time := rfl
@[simp] theorem setSlice_freeCount (k : Nat) (x : Slice) (m : Module) : (setSlice k x m).freeCount = m.freeCount := rfl
@[simp] theorem setSlice_host (k : Nat) (x : Slice) (m : Module) : (setSlice k x m).host = m.host := rfl
@[simp] theorem setSlice_faults (k : Nat) (x : Slice) (m : Module) : (setSlice k x m).faults = m.faults := rfl
@[simp] theorem setSlice_hg (k : Nat) (x : Slice) (m : Module) : (setSlice k x m).hg = m.hg := rfl
@[simp] theorem setSlice_threads (k : Nat) (x : Slice) (m : Module) : (setSlice k x m).threads = m.threads := rfl
@[simp] theorem setSlice_cores (k : Nat) (x : Slice) (m : Module) : (setSlice k x m).cores = m.cores := rfl
@[simp] theorem setSlice_events (k : Nat) (x : Slice) (m : Module) : (setSlice k x m).events = m.events := rfl
@[simp] theorem setSlice_mem (k : Nat) (x : Slice) (m : Module) : (setSlice k x m).mem = m.mem := rfl
@[simp] theorem setSlice_poison (k : Nat) (x : Slice) (m : Module) : (setSlice k x m).poison = m.poison := rfl
@[simp] theorem setSlice_drams (k : Nat) (x : Slice) (m : Module) : (setSlice k x m).drams = m.drams := rfl
@[simp] theorem setSlice_basins (k : Nat) (x : Slice) (m : Module) : (setSlice k x m).basins = m.basins := rfl
@[simp] theorem setSlice_arbs (k : Nat) (x : Slice) (m : Module) : (setSlice k x m).arbs = m.arbs := rfl
@[simp] theorem setSlice_gate (k : Nat) (x : Slice) (m : Module) : (setSlice k x m).gate = m.gate := rfl
@[simp] theorem setSlice_haze (k : Nat) (x : Slice) (m : Module) : (setSlice k x m).haze = m.haze := rfl
@[simp] theorem setSlice_freezeTab (k : Nat) (x : Slice) (m : Module) : (setSlice k x m).freezeTab = m.freezeTab := rfl
@[simp] theorem setSlice_freezeGen (k : Nat) (x : Slice) (m : Module) : (setSlice k x m).freezeGen = m.freezeGen := rfl
@[simp] theorem setSlice_fabric (k : Nat) (x : Slice) (m : Module) : (setSlice k x m).fabric = m.fabric := rfl
@[simp] theorem setSlice_weir (k : Nat) (x : Slice) (m : Module) : (setSlice k x m).weir = m.weir := rfl
@[simp] theorem setSlice_clocks (k : Nat) (x : Slice) (m : Module) : (setSlice k x m).clocks = m.clocks := rfl
@[simp] theorem setSlice_pendingReset (k : Nat) (x : Slice) (m : Module) : (setSlice k x m).pendingReset = m.pendingReset := rfl
@[simp] theorem setSlice_errors (k : Nat) (x : Slice) (m : Module) : (setSlice k x m).errors = m.errors := rfl
@[simp] theorem setSlice_squall (k : Nat) (x : Slice) (m : Module) : (setSlice k x m).squall = m.squall := rfl
@[simp] theorem setSlice_board (k : Nat) (x : Slice) (m : Module) : (setSlice k x m).board = m.board := rfl
@[simp] theorem setSlice_tlbs (k : Nat) (x : Slice) (m : Module) : (setSlice k x m).tlbs = m.tlbs := rfl
@[simp] theorem setSlice_walks (k : Nat) (x : Slice) (m : Module) : (setSlice k x m).walks = m.walks := rfl
@[simp] theorem setSlice_stats (k : Nat) (x : Slice) (m : Module) : (setSlice k x m).stats = m.stats := rfl

/-! ## setDram -/

@[simp] theorem setDram_time (k : Nat) (x : DramChannel) (m : Module) : (setDram k x m).time = m.time := rfl
@[simp] theorem setDram_freeCount (k : Nat) (x : DramChannel) (m : Module) : (setDram k x m).freeCount = m.freeCount := rfl
@[simp] theorem setDram_host (k : Nat) (x : DramChannel) (m : Module) : (setDram k x m).host = m.host := rfl
@[simp] theorem setDram_faults (k : Nat) (x : DramChannel) (m : Module) : (setDram k x m).faults = m.faults := rfl
@[simp] theorem setDram_hg (k : Nat) (x : DramChannel) (m : Module) : (setDram k x m).hg = m.hg := rfl
@[simp] theorem setDram_threads (k : Nat) (x : DramChannel) (m : Module) : (setDram k x m).threads = m.threads := rfl
@[simp] theorem setDram_cores (k : Nat) (x : DramChannel) (m : Module) : (setDram k x m).cores = m.cores := rfl
@[simp] theorem setDram_events (k : Nat) (x : DramChannel) (m : Module) : (setDram k x m).events = m.events := rfl
@[simp] theorem setDram_mem (k : Nat) (x : DramChannel) (m : Module) : (setDram k x m).mem = m.mem := rfl
@[simp] theorem setDram_poison (k : Nat) (x : DramChannel) (m : Module) : (setDram k x m).poison = m.poison := rfl
@[simp] theorem setDram_slices (k : Nat) (x : DramChannel) (m : Module) : (setDram k x m).slices = m.slices := rfl
@[simp] theorem setDram_basins (k : Nat) (x : DramChannel) (m : Module) : (setDram k x m).basins = m.basins := rfl
@[simp] theorem setDram_arbs (k : Nat) (x : DramChannel) (m : Module) : (setDram k x m).arbs = m.arbs := rfl
@[simp] theorem setDram_gate (k : Nat) (x : DramChannel) (m : Module) : (setDram k x m).gate = m.gate := rfl
@[simp] theorem setDram_haze (k : Nat) (x : DramChannel) (m : Module) : (setDram k x m).haze = m.haze := rfl
@[simp] theorem setDram_freezeTab (k : Nat) (x : DramChannel) (m : Module) : (setDram k x m).freezeTab = m.freezeTab := rfl
@[simp] theorem setDram_freezeGen (k : Nat) (x : DramChannel) (m : Module) : (setDram k x m).freezeGen = m.freezeGen := rfl
@[simp] theorem setDram_fabric (k : Nat) (x : DramChannel) (m : Module) : (setDram k x m).fabric = m.fabric := rfl
@[simp] theorem setDram_weir (k : Nat) (x : DramChannel) (m : Module) : (setDram k x m).weir = m.weir := rfl
@[simp] theorem setDram_clocks (k : Nat) (x : DramChannel) (m : Module) : (setDram k x m).clocks = m.clocks := rfl
@[simp] theorem setDram_pendingReset (k : Nat) (x : DramChannel) (m : Module) : (setDram k x m).pendingReset = m.pendingReset := rfl
@[simp] theorem setDram_errors (k : Nat) (x : DramChannel) (m : Module) : (setDram k x m).errors = m.errors := rfl
@[simp] theorem setDram_squall (k : Nat) (x : DramChannel) (m : Module) : (setDram k x m).squall = m.squall := rfl
@[simp] theorem setDram_board (k : Nat) (x : DramChannel) (m : Module) : (setDram k x m).board = m.board := rfl
@[simp] theorem setDram_tlbs (k : Nat) (x : DramChannel) (m : Module) : (setDram k x m).tlbs = m.tlbs := rfl
@[simp] theorem setDram_walks (k : Nat) (x : DramChannel) (m : Module) : (setDram k x m).walks = m.walks := rfl
@[simp] theorem setDram_stats (k : Nat) (x : DramChannel) (m : Module) : (setDram k x m).stats = m.stats := rfl

/-! ## setStack -/

@[simp] theorem setStack_time (k : Nat) (x : Stack) (m : Module) : (setStack k x m).time = m.time := rfl
@[simp] theorem setStack_freeCount (k : Nat) (x : Stack) (m : Module) : (setStack k x m).freeCount = m.freeCount := rfl
@[simp] theorem setStack_host (k : Nat) (x : Stack) (m : Module) : (setStack k x m).host = m.host := rfl
@[simp] theorem setStack_faults (k : Nat) (x : Stack) (m : Module) : (setStack k x m).faults = m.faults := rfl
@[simp] theorem setStack_hg (k : Nat) (x : Stack) (m : Module) : (setStack k x m).hg = m.hg := rfl
@[simp] theorem setStack_threads (k : Nat) (x : Stack) (m : Module) : (setStack k x m).threads = m.threads := rfl
@[simp] theorem setStack_cores (k : Nat) (x : Stack) (m : Module) : (setStack k x m).cores = m.cores := rfl
@[simp] theorem setStack_events (k : Nat) (x : Stack) (m : Module) : (setStack k x m).events = m.events := rfl
@[simp] theorem setStack_mem (k : Nat) (x : Stack) (m : Module) : (setStack k x m).mem = m.mem := rfl
@[simp] theorem setStack_poison (k : Nat) (x : Stack) (m : Module) : (setStack k x m).poison = m.poison := rfl
@[simp] theorem setStack_slices (k : Nat) (x : Stack) (m : Module) : (setStack k x m).slices = m.slices := rfl
@[simp] theorem setStack_drams (k : Nat) (x : Stack) (m : Module) : (setStack k x m).drams = m.drams := rfl
@[simp] theorem setStack_arbs (k : Nat) (x : Stack) (m : Module) : (setStack k x m).arbs = m.arbs := rfl
@[simp] theorem setStack_gate (k : Nat) (x : Stack) (m : Module) : (setStack k x m).gate = m.gate := rfl
@[simp] theorem setStack_haze (k : Nat) (x : Stack) (m : Module) : (setStack k x m).haze = m.haze := rfl
@[simp] theorem setStack_freezeTab (k : Nat) (x : Stack) (m : Module) : (setStack k x m).freezeTab = m.freezeTab := rfl
@[simp] theorem setStack_freezeGen (k : Nat) (x : Stack) (m : Module) : (setStack k x m).freezeGen = m.freezeGen := rfl
@[simp] theorem setStack_fabric (k : Nat) (x : Stack) (m : Module) : (setStack k x m).fabric = m.fabric := rfl
@[simp] theorem setStack_weir (k : Nat) (x : Stack) (m : Module) : (setStack k x m).weir = m.weir := rfl
@[simp] theorem setStack_clocks (k : Nat) (x : Stack) (m : Module) : (setStack k x m).clocks = m.clocks := rfl
@[simp] theorem setStack_pendingReset (k : Nat) (x : Stack) (m : Module) : (setStack k x m).pendingReset = m.pendingReset := rfl
@[simp] theorem setStack_errors (k : Nat) (x : Stack) (m : Module) : (setStack k x m).errors = m.errors := rfl
@[simp] theorem setStack_squall (k : Nat) (x : Stack) (m : Module) : (setStack k x m).squall = m.squall := rfl
@[simp] theorem setStack_board (k : Nat) (x : Stack) (m : Module) : (setStack k x m).board = m.board := rfl
@[simp] theorem setStack_tlbs (k : Nat) (x : Stack) (m : Module) : (setStack k x m).tlbs = m.tlbs := rfl
@[simp] theorem setStack_walks (k : Nat) (x : Stack) (m : Module) : (setStack k x m).walks = m.walks := rfl
@[simp] theorem setStack_stats (k : Nat) (x : Stack) (m : Module) : (setStack k x m).stats = m.stats := rfl

/-! ## setArb -/

@[simp] theorem setArb_time (a : Nat) (x : Arbiter) (m : Module) : (setArb a x m).time = m.time := rfl
@[simp] theorem setArb_freeCount (a : Nat) (x : Arbiter) (m : Module) : (setArb a x m).freeCount = m.freeCount := rfl
@[simp] theorem setArb_host (a : Nat) (x : Arbiter) (m : Module) : (setArb a x m).host = m.host := rfl
@[simp] theorem setArb_faults (a : Nat) (x : Arbiter) (m : Module) : (setArb a x m).faults = m.faults := rfl
@[simp] theorem setArb_hg (a : Nat) (x : Arbiter) (m : Module) : (setArb a x m).hg = m.hg := rfl
@[simp] theorem setArb_threads (a : Nat) (x : Arbiter) (m : Module) : (setArb a x m).threads = m.threads := rfl
@[simp] theorem setArb_cores (a : Nat) (x : Arbiter) (m : Module) : (setArb a x m).cores = m.cores := rfl
@[simp] theorem setArb_events (a : Nat) (x : Arbiter) (m : Module) : (setArb a x m).events = m.events := rfl
@[simp] theorem setArb_mem (a : Nat) (x : Arbiter) (m : Module) : (setArb a x m).mem = m.mem := rfl
@[simp] theorem setArb_poison (a : Nat) (x : Arbiter) (m : Module) : (setArb a x m).poison = m.poison := rfl
@[simp] theorem setArb_slices (a : Nat) (x : Arbiter) (m : Module) : (setArb a x m).slices = m.slices := rfl
@[simp] theorem setArb_drams (a : Nat) (x : Arbiter) (m : Module) : (setArb a x m).drams = m.drams := rfl
@[simp] theorem setArb_basins (a : Nat) (x : Arbiter) (m : Module) : (setArb a x m).basins = m.basins := rfl
@[simp] theorem setArb_gate (a : Nat) (x : Arbiter) (m : Module) : (setArb a x m).gate = m.gate := rfl
@[simp] theorem setArb_haze (a : Nat) (x : Arbiter) (m : Module) : (setArb a x m).haze = m.haze := rfl
@[simp] theorem setArb_freezeTab (a : Nat) (x : Arbiter) (m : Module) : (setArb a x m).freezeTab = m.freezeTab := rfl
@[simp] theorem setArb_freezeGen (a : Nat) (x : Arbiter) (m : Module) : (setArb a x m).freezeGen = m.freezeGen := rfl
@[simp] theorem setArb_fabric (a : Nat) (x : Arbiter) (m : Module) : (setArb a x m).fabric = m.fabric := rfl
@[simp] theorem setArb_weir (a : Nat) (x : Arbiter) (m : Module) : (setArb a x m).weir = m.weir := rfl
@[simp] theorem setArb_clocks (a : Nat) (x : Arbiter) (m : Module) : (setArb a x m).clocks = m.clocks := rfl
@[simp] theorem setArb_pendingReset (a : Nat) (x : Arbiter) (m : Module) : (setArb a x m).pendingReset = m.pendingReset := rfl
@[simp] theorem setArb_errors (a : Nat) (x : Arbiter) (m : Module) : (setArb a x m).errors = m.errors := rfl
@[simp] theorem setArb_squall (a : Nat) (x : Arbiter) (m : Module) : (setArb a x m).squall = m.squall := rfl
@[simp] theorem setArb_board (a : Nat) (x : Arbiter) (m : Module) : (setArb a x m).board = m.board := rfl
@[simp] theorem setArb_tlbs (a : Nat) (x : Arbiter) (m : Module) : (setArb a x m).tlbs = m.tlbs := rfl
@[simp] theorem setArb_walks (a : Nat) (x : Arbiter) (m : Module) : (setArb a x m).walks = m.walks := rfl
@[simp] theorem setArb_stats (a : Nat) (x : Arbiter) (m : Module) : (setArb a x m).stats = m.stats := rfl

/-! ## setPool -/

@[simp] theorem setPool_time (l : List Entry) (m : Module) : (setPool l m).time = m.time := rfl
@[simp] theorem setPool_freeCount (l : List Entry) (m : Module) : (setPool l m).freeCount = m.freeCount := rfl
@[simp] theorem setPool_host (l : List Entry) (m : Module) : (setPool l m).host = m.host := rfl
@[simp] theorem setPool_faults (l : List Entry) (m : Module) : (setPool l m).faults = m.faults := rfl
@[simp] theorem setPool_threads (l : List Entry) (m : Module) : (setPool l m).threads = m.threads := rfl
@[simp] theorem setPool_cores (l : List Entry) (m : Module) : (setPool l m).cores = m.cores := rfl
@[simp] theorem setPool_events (l : List Entry) (m : Module) : (setPool l m).events = m.events := rfl
@[simp] theorem setPool_mem (l : List Entry) (m : Module) : (setPool l m).mem = m.mem := rfl
@[simp] theorem setPool_poison (l : List Entry) (m : Module) : (setPool l m).poison = m.poison := rfl
@[simp] theorem setPool_slices (l : List Entry) (m : Module) : (setPool l m).slices = m.slices := rfl
@[simp] theorem setPool_drams (l : List Entry) (m : Module) : (setPool l m).drams = m.drams := rfl
@[simp] theorem setPool_basins (l : List Entry) (m : Module) : (setPool l m).basins = m.basins := rfl
@[simp] theorem setPool_arbs (l : List Entry) (m : Module) : (setPool l m).arbs = m.arbs := rfl
@[simp] theorem setPool_gate (l : List Entry) (m : Module) : (setPool l m).gate = m.gate := rfl
@[simp] theorem setPool_haze (l : List Entry) (m : Module) : (setPool l m).haze = m.haze := rfl
@[simp] theorem setPool_freezeTab (l : List Entry) (m : Module) : (setPool l m).freezeTab = m.freezeTab := rfl
@[simp] theorem setPool_freezeGen (l : List Entry) (m : Module) : (setPool l m).freezeGen = m.freezeGen := rfl
@[simp] theorem setPool_fabric (l : List Entry) (m : Module) : (setPool l m).fabric = m.fabric := rfl
@[simp] theorem setPool_weir (l : List Entry) (m : Module) : (setPool l m).weir = m.weir := rfl
@[simp] theorem setPool_clocks (l : List Entry) (m : Module) : (setPool l m).clocks = m.clocks := rfl
@[simp] theorem setPool_pendingReset (l : List Entry) (m : Module) : (setPool l m).pendingReset = m.pendingReset := rfl
@[simp] theorem setPool_errors (l : List Entry) (m : Module) : (setPool l m).errors = m.errors := rfl
@[simp] theorem setPool_squall (l : List Entry) (m : Module) : (setPool l m).squall = m.squall := rfl
@[simp] theorem setPool_board (l : List Entry) (m : Module) : (setPool l m).board = m.board := rfl
@[simp] theorem setPool_tlbs (l : List Entry) (m : Module) : (setPool l m).tlbs = m.tlbs := rfl
@[simp] theorem setPool_walks (l : List Entry) (m : Module) : (setPool l m).walks = m.walks := rfl
@[simp] theorem setPool_stats (l : List Entry) (m : Module) : (setPool l m).stats = m.stats := rfl

/-! ## setEntry -/

@[simp] theorem setEntry_time (e : Entry) (m : Module) : (setEntry e m).time = m.time := rfl
@[simp] theorem setEntry_freeCount (e : Entry) (m : Module) : (setEntry e m).freeCount = m.freeCount := rfl
@[simp] theorem setEntry_host (e : Entry) (m : Module) : (setEntry e m).host = m.host := rfl
@[simp] theorem setEntry_faults (e : Entry) (m : Module) : (setEntry e m).faults = m.faults := rfl
@[simp] theorem setEntry_threads (e : Entry) (m : Module) : (setEntry e m).threads = m.threads := rfl
@[simp] theorem setEntry_cores (e : Entry) (m : Module) : (setEntry e m).cores = m.cores := rfl
@[simp] theorem setEntry_events (e : Entry) (m : Module) : (setEntry e m).events = m.events := rfl
@[simp] theorem setEntry_mem (e : Entry) (m : Module) : (setEntry e m).mem = m.mem := rfl
@[simp] theorem setEntry_poison (e : Entry) (m : Module) : (setEntry e m).poison = m.poison := rfl
@[simp] theorem setEntry_slices (e : Entry) (m : Module) : (setEntry e m).slices = m.slices := rfl
@[simp] theorem setEntry_drams (e : Entry) (m : Module) : (setEntry e m).drams = m.drams := rfl
@[simp] theorem setEntry_basins (e : Entry) (m : Module) : (setEntry e m).basins = m.basins := rfl
@[simp] theorem setEntry_arbs (e : Entry) (m : Module) : (setEntry e m).arbs = m.arbs := rfl
@[simp] theorem setEntry_gate (e : Entry) (m : Module) : (setEntry e m).gate = m.gate := rfl
@[simp] theorem setEntry_haze (e : Entry) (m : Module) : (setEntry e m).haze = m.haze := rfl
@[simp] theorem setEntry_freezeTab (e : Entry) (m : Module) : (setEntry e m).freezeTab = m.freezeTab := rfl
@[simp] theorem setEntry_freezeGen (e : Entry) (m : Module) : (setEntry e m).freezeGen = m.freezeGen := rfl
@[simp] theorem setEntry_fabric (e : Entry) (m : Module) : (setEntry e m).fabric = m.fabric := rfl
@[simp] theorem setEntry_weir (e : Entry) (m : Module) : (setEntry e m).weir = m.weir := rfl
@[simp] theorem setEntry_clocks (e : Entry) (m : Module) : (setEntry e m).clocks = m.clocks := rfl
@[simp] theorem setEntry_pendingReset (e : Entry) (m : Module) : (setEntry e m).pendingReset = m.pendingReset := rfl
@[simp] theorem setEntry_errors (e : Entry) (m : Module) : (setEntry e m).errors = m.errors := rfl
@[simp] theorem setEntry_squall (e : Entry) (m : Module) : (setEntry e m).squall = m.squall := rfl
@[simp] theorem setEntry_board (e : Entry) (m : Module) : (setEntry e m).board = m.board := rfl
@[simp] theorem setEntry_tlbs (e : Entry) (m : Module) : (setEntry e m).tlbs = m.tlbs := rfl
@[simp] theorem setEntry_walks (e : Entry) (m : Module) : (setEntry e m).walks = m.walks := rfl
@[simp] theorem setEntry_stats (e : Entry) (m : Module) : (setEntry e m).stats = m.stats := rfl

/-! ## setRing -/

@[simp] theorem setRing_time (r : Nat) (x : Ring) (m : Module) : (setRing r x m).time = m.time := rfl
@[simp] theorem setRing_freeCount (r : Nat) (x : Ring) (m : Module) : (setRing r x m).freeCount = m.freeCount := rfl
@[simp] theorem setRing_faults (r : Nat) (x : Ring) (m : Module) : (setRing r x m).faults = m.faults := rfl
@[simp] theorem setRing_hg (r : Nat) (x : Ring) (m : Module) : (setRing r x m).hg = m.hg := rfl
@[simp] theorem setRing_threads (r : Nat) (x : Ring) (m : Module) : (setRing r x m).threads = m.threads := rfl
@[simp] theorem setRing_cores (r : Nat) (x : Ring) (m : Module) : (setRing r x m).cores = m.cores := rfl
@[simp] theorem setRing_events (r : Nat) (x : Ring) (m : Module) : (setRing r x m).events = m.events := rfl
@[simp] theorem setRing_mem (r : Nat) (x : Ring) (m : Module) : (setRing r x m).mem = m.mem := rfl
@[simp] theorem setRing_poison (r : Nat) (x : Ring) (m : Module) : (setRing r x m).poison = m.poison := rfl
@[simp] theorem setRing_slices (r : Nat) (x : Ring) (m : Module) : (setRing r x m).slices = m.slices := rfl
@[simp] theorem setRing_drams (r : Nat) (x : Ring) (m : Module) : (setRing r x m).drams = m.drams := rfl
@[simp] theorem setRing_basins (r : Nat) (x : Ring) (m : Module) : (setRing r x m).basins = m.basins := rfl
@[simp] theorem setRing_arbs (r : Nat) (x : Ring) (m : Module) : (setRing r x m).arbs = m.arbs := rfl
@[simp] theorem setRing_gate (r : Nat) (x : Ring) (m : Module) : (setRing r x m).gate = m.gate := rfl
@[simp] theorem setRing_haze (r : Nat) (x : Ring) (m : Module) : (setRing r x m).haze = m.haze := rfl
@[simp] theorem setRing_freezeTab (r : Nat) (x : Ring) (m : Module) : (setRing r x m).freezeTab = m.freezeTab := rfl
@[simp] theorem setRing_freezeGen (r : Nat) (x : Ring) (m : Module) : (setRing r x m).freezeGen = m.freezeGen := rfl
@[simp] theorem setRing_fabric (r : Nat) (x : Ring) (m : Module) : (setRing r x m).fabric = m.fabric := rfl
@[simp] theorem setRing_weir (r : Nat) (x : Ring) (m : Module) : (setRing r x m).weir = m.weir := rfl
@[simp] theorem setRing_clocks (r : Nat) (x : Ring) (m : Module) : (setRing r x m).clocks = m.clocks := rfl
@[simp] theorem setRing_pendingReset (r : Nat) (x : Ring) (m : Module) : (setRing r x m).pendingReset = m.pendingReset := rfl
@[simp] theorem setRing_errors (r : Nat) (x : Ring) (m : Module) : (setRing r x m).errors = m.errors := rfl
@[simp] theorem setRing_squall (r : Nat) (x : Ring) (m : Module) : (setRing r x m).squall = m.squall := rfl
@[simp] theorem setRing_board (r : Nat) (x : Ring) (m : Module) : (setRing r x m).board = m.board := rfl
@[simp] theorem setRing_tlbs (r : Nat) (x : Ring) (m : Module) : (setRing r x m).tlbs = m.tlbs := rfl
@[simp] theorem setRing_walks (r : Nat) (x : Ring) (m : Module) : (setRing r x m).walks = m.walks := rfl
@[simp] theorem setRing_stats (r : Nat) (x : Ring) (m : Module) : (setRing r x m).stats = m.stats := rfl

/-! ## setLoop -/

@[simp] theorem setLoop_time (n : Nat) (x : Loop) (m : Module) : (setLoop n x m).time = m.time := rfl
@[simp] theorem setLoop_freeCount (n : Nat) (x : Loop) (m : Module) : (setLoop n x m).freeCount = m.freeCount := rfl
@[simp] theorem setLoop_host (n : Nat) (x : Loop) (m : Module) : (setLoop n x m).host = m.host := rfl
@[simp] theorem setLoop_faults (n : Nat) (x : Loop) (m : Module) : (setLoop n x m).faults = m.faults := rfl
@[simp] theorem setLoop_hg (n : Nat) (x : Loop) (m : Module) : (setLoop n x m).hg = m.hg := rfl
@[simp] theorem setLoop_threads (n : Nat) (x : Loop) (m : Module) : (setLoop n x m).threads = m.threads := rfl
@[simp] theorem setLoop_cores (n : Nat) (x : Loop) (m : Module) : (setLoop n x m).cores = m.cores := rfl
@[simp] theorem setLoop_events (n : Nat) (x : Loop) (m : Module) : (setLoop n x m).events = m.events := rfl
@[simp] theorem setLoop_mem (n : Nat) (x : Loop) (m : Module) : (setLoop n x m).mem = m.mem := rfl
@[simp] theorem setLoop_poison (n : Nat) (x : Loop) (m : Module) : (setLoop n x m).poison = m.poison := rfl
@[simp] theorem setLoop_slices (n : Nat) (x : Loop) (m : Module) : (setLoop n x m).slices = m.slices := rfl
@[simp] theorem setLoop_drams (n : Nat) (x : Loop) (m : Module) : (setLoop n x m).drams = m.drams := rfl
@[simp] theorem setLoop_basins (n : Nat) (x : Loop) (m : Module) : (setLoop n x m).basins = m.basins := rfl
@[simp] theorem setLoop_arbs (n : Nat) (x : Loop) (m : Module) : (setLoop n x m).arbs = m.arbs := rfl
@[simp] theorem setLoop_gate (n : Nat) (x : Loop) (m : Module) : (setLoop n x m).gate = m.gate := rfl
@[simp] theorem setLoop_haze (n : Nat) (x : Loop) (m : Module) : (setLoop n x m).haze = m.haze := rfl
@[simp] theorem setLoop_freezeTab (n : Nat) (x : Loop) (m : Module) : (setLoop n x m).freezeTab = m.freezeTab := rfl
@[simp] theorem setLoop_freezeGen (n : Nat) (x : Loop) (m : Module) : (setLoop n x m).freezeGen = m.freezeGen := rfl
@[simp] theorem setLoop_fabric (n : Nat) (x : Loop) (m : Module) : (setLoop n x m).fabric = m.fabric := rfl
@[simp] theorem setLoop_weir (n : Nat) (x : Loop) (m : Module) : (setLoop n x m).weir = m.weir := rfl
@[simp] theorem setLoop_pendingReset (n : Nat) (x : Loop) (m : Module) : (setLoop n x m).pendingReset = m.pendingReset := rfl
@[simp] theorem setLoop_errors (n : Nat) (x : Loop) (m : Module) : (setLoop n x m).errors = m.errors := rfl
@[simp] theorem setLoop_squall (n : Nat) (x : Loop) (m : Module) : (setLoop n x m).squall = m.squall := rfl
@[simp] theorem setLoop_board (n : Nat) (x : Loop) (m : Module) : (setLoop n x m).board = m.board := rfl
@[simp] theorem setLoop_tlbs (n : Nat) (x : Loop) (m : Module) : (setLoop n x m).tlbs = m.tlbs := rfl
@[simp] theorem setLoop_walks (n : Nat) (x : Loop) (m : Module) : (setLoop n x m).walks = m.walks := rfl
@[simp] theorem setLoop_stats (n : Nat) (x : Loop) (m : Module) : (setLoop n x m).stats = m.stats := rfl

/-! ## setWay -/

@[simp] theorem setWay_time (w : Nat) (x : Way) (m : Module) : (setWay w x m).time = m.time := rfl
@[simp] theorem setWay_freeCount (w : Nat) (x : Way) (m : Module) : (setWay w x m).freeCount = m.freeCount := rfl
@[simp] theorem setWay_host (w : Nat) (x : Way) (m : Module) : (setWay w x m).host = m.host := rfl
@[simp] theorem setWay_faults (w : Nat) (x : Way) (m : Module) : (setWay w x m).faults = m.faults := rfl
@[simp] theorem setWay_hg (w : Nat) (x : Way) (m : Module) : (setWay w x m).hg = m.hg := rfl
@[simp] theorem setWay_threads (w : Nat) (x : Way) (m : Module) : (setWay w x m).threads = m.threads := rfl
@[simp] theorem setWay_cores (w : Nat) (x : Way) (m : Module) : (setWay w x m).cores = m.cores := rfl
@[simp] theorem setWay_events (w : Nat) (x : Way) (m : Module) : (setWay w x m).events = m.events := rfl
@[simp] theorem setWay_mem (w : Nat) (x : Way) (m : Module) : (setWay w x m).mem = m.mem := rfl
@[simp] theorem setWay_poison (w : Nat) (x : Way) (m : Module) : (setWay w x m).poison = m.poison := rfl
@[simp] theorem setWay_slices (w : Nat) (x : Way) (m : Module) : (setWay w x m).slices = m.slices := rfl
@[simp] theorem setWay_drams (w : Nat) (x : Way) (m : Module) : (setWay w x m).drams = m.drams := rfl
@[simp] theorem setWay_basins (w : Nat) (x : Way) (m : Module) : (setWay w x m).basins = m.basins := rfl
@[simp] theorem setWay_arbs (w : Nat) (x : Way) (m : Module) : (setWay w x m).arbs = m.arbs := rfl
@[simp] theorem setWay_gate (w : Nat) (x : Way) (m : Module) : (setWay w x m).gate = m.gate := rfl
@[simp] theorem setWay_haze (w : Nat) (x : Way) (m : Module) : (setWay w x m).haze = m.haze := rfl
@[simp] theorem setWay_freezeTab (w : Nat) (x : Way) (m : Module) : (setWay w x m).freezeTab = m.freezeTab := rfl
@[simp] theorem setWay_freezeGen (w : Nat) (x : Way) (m : Module) : (setWay w x m).freezeGen = m.freezeGen := rfl
@[simp] theorem setWay_weir (w : Nat) (x : Way) (m : Module) : (setWay w x m).weir = m.weir := rfl
@[simp] theorem setWay_clocks (w : Nat) (x : Way) (m : Module) : (setWay w x m).clocks = m.clocks := rfl
@[simp] theorem setWay_pendingReset (w : Nat) (x : Way) (m : Module) : (setWay w x m).pendingReset = m.pendingReset := rfl
@[simp] theorem setWay_errors (w : Nat) (x : Way) (m : Module) : (setWay w x m).errors = m.errors := rfl
@[simp] theorem setWay_squall (w : Nat) (x : Way) (m : Module) : (setWay w x m).squall = m.squall := rfl
@[simp] theorem setWay_board (w : Nat) (x : Way) (m : Module) : (setWay w x m).board = m.board := rfl
@[simp] theorem setWay_tlbs (w : Nat) (x : Way) (m : Module) : (setWay w x m).tlbs = m.tlbs := rfl
@[simp] theorem setWay_walks (w : Nat) (x : Way) (m : Module) : (setWay w x m).walks = m.walks := rfl
@[simp] theorem setWay_stats (w : Nat) (x : Way) (m : Module) : (setWay w x m).stats = m.stats := rfl

/-! ## setPort -/

@[simp] theorem setPort_time (w i : Nat) (x : Port) (m : Module) : (setPort w i x m).time = m.time := rfl
@[simp] theorem setPort_freeCount (w i : Nat) (x : Port) (m : Module) : (setPort w i x m).freeCount = m.freeCount := rfl
@[simp] theorem setPort_host (w i : Nat) (x : Port) (m : Module) : (setPort w i x m).host = m.host := rfl
@[simp] theorem setPort_faults (w i : Nat) (x : Port) (m : Module) : (setPort w i x m).faults = m.faults := rfl
@[simp] theorem setPort_hg (w i : Nat) (x : Port) (m : Module) : (setPort w i x m).hg = m.hg := rfl
@[simp] theorem setPort_threads (w i : Nat) (x : Port) (m : Module) : (setPort w i x m).threads = m.threads := rfl
@[simp] theorem setPort_cores (w i : Nat) (x : Port) (m : Module) : (setPort w i x m).cores = m.cores := rfl
@[simp] theorem setPort_events (w i : Nat) (x : Port) (m : Module) : (setPort w i x m).events = m.events := rfl
@[simp] theorem setPort_mem (w i : Nat) (x : Port) (m : Module) : (setPort w i x m).mem = m.mem := rfl
@[simp] theorem setPort_poison (w i : Nat) (x : Port) (m : Module) : (setPort w i x m).poison = m.poison := rfl
@[simp] theorem setPort_slices (w i : Nat) (x : Port) (m : Module) : (setPort w i x m).slices = m.slices := rfl
@[simp] theorem setPort_drams (w i : Nat) (x : Port) (m : Module) : (setPort w i x m).drams = m.drams := rfl
@[simp] theorem setPort_basins (w i : Nat) (x : Port) (m : Module) : (setPort w i x m).basins = m.basins := rfl
@[simp] theorem setPort_arbs (w i : Nat) (x : Port) (m : Module) : (setPort w i x m).arbs = m.arbs := rfl
@[simp] theorem setPort_gate (w i : Nat) (x : Port) (m : Module) : (setPort w i x m).gate = m.gate := rfl
@[simp] theorem setPort_haze (w i : Nat) (x : Port) (m : Module) : (setPort w i x m).haze = m.haze := rfl
@[simp] theorem setPort_freezeTab (w i : Nat) (x : Port) (m : Module) : (setPort w i x m).freezeTab = m.freezeTab := rfl
@[simp] theorem setPort_freezeGen (w i : Nat) (x : Port) (m : Module) : (setPort w i x m).freezeGen = m.freezeGen := rfl
@[simp] theorem setPort_weir (w i : Nat) (x : Port) (m : Module) : (setPort w i x m).weir = m.weir := rfl
@[simp] theorem setPort_clocks (w i : Nat) (x : Port) (m : Module) : (setPort w i x m).clocks = m.clocks := rfl
@[simp] theorem setPort_pendingReset (w i : Nat) (x : Port) (m : Module) : (setPort w i x m).pendingReset = m.pendingReset := rfl
@[simp] theorem setPort_errors (w i : Nat) (x : Port) (m : Module) : (setPort w i x m).errors = m.errors := rfl
@[simp] theorem setPort_squall (w i : Nat) (x : Port) (m : Module) : (setPort w i x m).squall = m.squall := rfl
@[simp] theorem setPort_board (w i : Nat) (x : Port) (m : Module) : (setPort w i x m).board = m.board := rfl
@[simp] theorem setPort_tlbs (w i : Nat) (x : Port) (m : Module) : (setPort w i x m).tlbs = m.tlbs := rfl
@[simp] theorem setPort_walks (w i : Nat) (x : Port) (m : Module) : (setPort w i x m).walks = m.walks := rfl
@[simp] theorem setPort_stats (w i : Nat) (x : Port) (m : Module) : (setPort w i x m).stats = m.stats := rfl

/-! ## setJob -/

@[simp] theorem setJob_time (s : Nat) (x : Job) (m : Module) : (setJob s x m).time = m.time := rfl
@[simp] theorem setJob_freeCount (s : Nat) (x : Job) (m : Module) : (setJob s x m).freeCount = m.freeCount := rfl
@[simp] theorem setJob_host (s : Nat) (x : Job) (m : Module) : (setJob s x m).host = m.host := rfl
@[simp] theorem setJob_faults (s : Nat) (x : Job) (m : Module) : (setJob s x m).faults = m.faults := rfl
@[simp] theorem setJob_hg (s : Nat) (x : Job) (m : Module) : (setJob s x m).hg = m.hg := rfl
@[simp] theorem setJob_threads (s : Nat) (x : Job) (m : Module) : (setJob s x m).threads = m.threads := rfl
@[simp] theorem setJob_cores (s : Nat) (x : Job) (m : Module) : (setJob s x m).cores = m.cores := rfl
@[simp] theorem setJob_events (s : Nat) (x : Job) (m : Module) : (setJob s x m).events = m.events := rfl
@[simp] theorem setJob_mem (s : Nat) (x : Job) (m : Module) : (setJob s x m).mem = m.mem := rfl
@[simp] theorem setJob_poison (s : Nat) (x : Job) (m : Module) : (setJob s x m).poison = m.poison := rfl
@[simp] theorem setJob_slices (s : Nat) (x : Job) (m : Module) : (setJob s x m).slices = m.slices := rfl
@[simp] theorem setJob_drams (s : Nat) (x : Job) (m : Module) : (setJob s x m).drams = m.drams := rfl
@[simp] theorem setJob_arbs (s : Nat) (x : Job) (m : Module) : (setJob s x m).arbs = m.arbs := rfl
@[simp] theorem setJob_gate (s : Nat) (x : Job) (m : Module) : (setJob s x m).gate = m.gate := rfl
@[simp] theorem setJob_haze (s : Nat) (x : Job) (m : Module) : (setJob s x m).haze = m.haze := rfl
@[simp] theorem setJob_freezeTab (s : Nat) (x : Job) (m : Module) : (setJob s x m).freezeTab = m.freezeTab := rfl
@[simp] theorem setJob_freezeGen (s : Nat) (x : Job) (m : Module) : (setJob s x m).freezeGen = m.freezeGen := rfl
@[simp] theorem setJob_fabric (s : Nat) (x : Job) (m : Module) : (setJob s x m).fabric = m.fabric := rfl
@[simp] theorem setJob_weir (s : Nat) (x : Job) (m : Module) : (setJob s x m).weir = m.weir := rfl
@[simp] theorem setJob_clocks (s : Nat) (x : Job) (m : Module) : (setJob s x m).clocks = m.clocks := rfl
@[simp] theorem setJob_pendingReset (s : Nat) (x : Job) (m : Module) : (setJob s x m).pendingReset = m.pendingReset := rfl
@[simp] theorem setJob_errors (s : Nat) (x : Job) (m : Module) : (setJob s x m).errors = m.errors := rfl
@[simp] theorem setJob_squall (s : Nat) (x : Job) (m : Module) : (setJob s x m).squall = m.squall := rfl
@[simp] theorem setJob_board (s : Nat) (x : Job) (m : Module) : (setJob s x m).board = m.board := rfl
@[simp] theorem setJob_tlbs (s : Nat) (x : Job) (m : Module) : (setJob s x m).tlbs = m.tlbs := rfl
@[simp] theorem setJob_walks (s : Nat) (x : Job) (m : Module) : (setJob s x m).walks = m.walks := rfl
@[simp] theorem setJob_stats (s : Nat) (x : Job) (m : Module) : (setJob s x m).stats = m.stats := rfl

/-! ## setCopy -/

@[simp] theorem setCopy_time (e : Entry) (r : CopyRun) (m : Module) : (setCopy e r m).time = m.time := rfl
@[simp] theorem setCopy_freeCount (e : Entry) (r : CopyRun) (m : Module) : (setCopy e r m).freeCount = m.freeCount := rfl
@[simp] theorem setCopy_host (e : Entry) (r : CopyRun) (m : Module) : (setCopy e r m).host = m.host := rfl
@[simp] theorem setCopy_faults (e : Entry) (r : CopyRun) (m : Module) : (setCopy e r m).faults = m.faults := rfl
@[simp] theorem setCopy_threads (e : Entry) (r : CopyRun) (m : Module) : (setCopy e r m).threads = m.threads := rfl
@[simp] theorem setCopy_cores (e : Entry) (r : CopyRun) (m : Module) : (setCopy e r m).cores = m.cores := rfl
@[simp] theorem setCopy_events (e : Entry) (r : CopyRun) (m : Module) : (setCopy e r m).events = m.events := rfl
@[simp] theorem setCopy_mem (e : Entry) (r : CopyRun) (m : Module) : (setCopy e r m).mem = m.mem := rfl
@[simp] theorem setCopy_poison (e : Entry) (r : CopyRun) (m : Module) : (setCopy e r m).poison = m.poison := rfl
@[simp] theorem setCopy_slices (e : Entry) (r : CopyRun) (m : Module) : (setCopy e r m).slices = m.slices := rfl
@[simp] theorem setCopy_drams (e : Entry) (r : CopyRun) (m : Module) : (setCopy e r m).drams = m.drams := rfl
@[simp] theorem setCopy_basins (e : Entry) (r : CopyRun) (m : Module) : (setCopy e r m).basins = m.basins := rfl
@[simp] theorem setCopy_arbs (e : Entry) (r : CopyRun) (m : Module) : (setCopy e r m).arbs = m.arbs := rfl
@[simp] theorem setCopy_gate (e : Entry) (r : CopyRun) (m : Module) : (setCopy e r m).gate = m.gate := rfl
@[simp] theorem setCopy_haze (e : Entry) (r : CopyRun) (m : Module) : (setCopy e r m).haze = m.haze := rfl
@[simp] theorem setCopy_freezeTab (e : Entry) (r : CopyRun) (m : Module) : (setCopy e r m).freezeTab = m.freezeTab := rfl
@[simp] theorem setCopy_freezeGen (e : Entry) (r : CopyRun) (m : Module) : (setCopy e r m).freezeGen = m.freezeGen := rfl
@[simp] theorem setCopy_fabric (e : Entry) (r : CopyRun) (m : Module) : (setCopy e r m).fabric = m.fabric := rfl
@[simp] theorem setCopy_weir (e : Entry) (r : CopyRun) (m : Module) : (setCopy e r m).weir = m.weir := rfl
@[simp] theorem setCopy_clocks (e : Entry) (r : CopyRun) (m : Module) : (setCopy e r m).clocks = m.clocks := rfl
@[simp] theorem setCopy_pendingReset (e : Entry) (r : CopyRun) (m : Module) : (setCopy e r m).pendingReset = m.pendingReset := rfl
@[simp] theorem setCopy_errors (e : Entry) (r : CopyRun) (m : Module) : (setCopy e r m).errors = m.errors := rfl
@[simp] theorem setCopy_squall (e : Entry) (r : CopyRun) (m : Module) : (setCopy e r m).squall = m.squall := rfl
@[simp] theorem setCopy_board (e : Entry) (r : CopyRun) (m : Module) : (setCopy e r m).board = m.board := rfl
@[simp] theorem setCopy_tlbs (e : Entry) (r : CopyRun) (m : Module) : (setCopy e r m).tlbs = m.tlbs := rfl
@[simp] theorem setCopy_walks (e : Entry) (r : CopyRun) (m : Module) : (setCopy e r m).walks = m.walks := rfl
@[simp] theorem setCopy_stats (e : Entry) (r : CopyRun) (m : Module) : (setCopy e r m).stats = m.stats := rfl

/-! ## setUpdate -/

@[simp] theorem setUpdate_time (e : Entry) (r : UpdateRun) (m : Module) : (setUpdate e r m).time = m.time := rfl
@[simp] theorem setUpdate_freeCount (e : Entry) (r : UpdateRun) (m : Module) : (setUpdate e r m).freeCount = m.freeCount := rfl
@[simp] theorem setUpdate_host (e : Entry) (r : UpdateRun) (m : Module) : (setUpdate e r m).host = m.host := rfl
@[simp] theorem setUpdate_faults (e : Entry) (r : UpdateRun) (m : Module) : (setUpdate e r m).faults = m.faults := rfl
@[simp] theorem setUpdate_threads (e : Entry) (r : UpdateRun) (m : Module) : (setUpdate e r m).threads = m.threads := rfl
@[simp] theorem setUpdate_cores (e : Entry) (r : UpdateRun) (m : Module) : (setUpdate e r m).cores = m.cores := rfl
@[simp] theorem setUpdate_events (e : Entry) (r : UpdateRun) (m : Module) : (setUpdate e r m).events = m.events := rfl
@[simp] theorem setUpdate_mem (e : Entry) (r : UpdateRun) (m : Module) : (setUpdate e r m).mem = m.mem := rfl
@[simp] theorem setUpdate_poison (e : Entry) (r : UpdateRun) (m : Module) : (setUpdate e r m).poison = m.poison := rfl
@[simp] theorem setUpdate_slices (e : Entry) (r : UpdateRun) (m : Module) : (setUpdate e r m).slices = m.slices := rfl
@[simp] theorem setUpdate_drams (e : Entry) (r : UpdateRun) (m : Module) : (setUpdate e r m).drams = m.drams := rfl
@[simp] theorem setUpdate_basins (e : Entry) (r : UpdateRun) (m : Module) : (setUpdate e r m).basins = m.basins := rfl
@[simp] theorem setUpdate_arbs (e : Entry) (r : UpdateRun) (m : Module) : (setUpdate e r m).arbs = m.arbs := rfl
@[simp] theorem setUpdate_gate (e : Entry) (r : UpdateRun) (m : Module) : (setUpdate e r m).gate = m.gate := rfl
@[simp] theorem setUpdate_haze (e : Entry) (r : UpdateRun) (m : Module) : (setUpdate e r m).haze = m.haze := rfl
@[simp] theorem setUpdate_freezeTab (e : Entry) (r : UpdateRun) (m : Module) : (setUpdate e r m).freezeTab = m.freezeTab := rfl
@[simp] theorem setUpdate_freezeGen (e : Entry) (r : UpdateRun) (m : Module) : (setUpdate e r m).freezeGen = m.freezeGen := rfl
@[simp] theorem setUpdate_fabric (e : Entry) (r : UpdateRun) (m : Module) : (setUpdate e r m).fabric = m.fabric := rfl
@[simp] theorem setUpdate_weir (e : Entry) (r : UpdateRun) (m : Module) : (setUpdate e r m).weir = m.weir := rfl
@[simp] theorem setUpdate_clocks (e : Entry) (r : UpdateRun) (m : Module) : (setUpdate e r m).clocks = m.clocks := rfl
@[simp] theorem setUpdate_pendingReset (e : Entry) (r : UpdateRun) (m : Module) : (setUpdate e r m).pendingReset = m.pendingReset := rfl
@[simp] theorem setUpdate_errors (e : Entry) (r : UpdateRun) (m : Module) : (setUpdate e r m).errors = m.errors := rfl
@[simp] theorem setUpdate_squall (e : Entry) (r : UpdateRun) (m : Module) : (setUpdate e r m).squall = m.squall := rfl
@[simp] theorem setUpdate_board (e : Entry) (r : UpdateRun) (m : Module) : (setUpdate e r m).board = m.board := rfl
@[simp] theorem setUpdate_tlbs (e : Entry) (r : UpdateRun) (m : Module) : (setUpdate e r m).tlbs = m.tlbs := rfl
@[simp] theorem setUpdate_walks (e : Entry) (r : UpdateRun) (m : Module) : (setUpdate e r m).walks = m.walks := rfl
@[simp] theorem setUpdate_stats (e : Entry) (r : UpdateRun) (m : Module) : (setUpdate e r m).stats = m.stats := rfl

/-! ## setGather -/

@[simp] theorem setGather_time (st g : Nat) (l : List GatherLine) (m : Module) : (setGather st g l m).time = m.time := rfl
@[simp] theorem setGather_freeCount (st g : Nat) (l : List GatherLine) (m : Module) : (setGather st g l m).freeCount = m.freeCount := rfl
@[simp] theorem setGather_host (st g : Nat) (l : List GatherLine) (m : Module) : (setGather st g l m).host = m.host := rfl
@[simp] theorem setGather_faults (st g : Nat) (l : List GatherLine) (m : Module) : (setGather st g l m).faults = m.faults := rfl
@[simp] theorem setGather_hg (st g : Nat) (l : List GatherLine) (m : Module) : (setGather st g l m).hg = m.hg := rfl
@[simp] theorem setGather_threads (st g : Nat) (l : List GatherLine) (m : Module) : (setGather st g l m).threads = m.threads := rfl
@[simp] theorem setGather_cores (st g : Nat) (l : List GatherLine) (m : Module) : (setGather st g l m).cores = m.cores := rfl
@[simp] theorem setGather_events (st g : Nat) (l : List GatherLine) (m : Module) : (setGather st g l m).events = m.events := rfl
@[simp] theorem setGather_mem (st g : Nat) (l : List GatherLine) (m : Module) : (setGather st g l m).mem = m.mem := rfl
@[simp] theorem setGather_poison (st g : Nat) (l : List GatherLine) (m : Module) : (setGather st g l m).poison = m.poison := rfl
@[simp] theorem setGather_slices (st g : Nat) (l : List GatherLine) (m : Module) : (setGather st g l m).slices = m.slices := rfl
@[simp] theorem setGather_drams (st g : Nat) (l : List GatherLine) (m : Module) : (setGather st g l m).drams = m.drams := rfl
@[simp] theorem setGather_arbs (st g : Nat) (l : List GatherLine) (m : Module) : (setGather st g l m).arbs = m.arbs := rfl
@[simp] theorem setGather_gate (st g : Nat) (l : List GatherLine) (m : Module) : (setGather st g l m).gate = m.gate := rfl
@[simp] theorem setGather_haze (st g : Nat) (l : List GatherLine) (m : Module) : (setGather st g l m).haze = m.haze := rfl
@[simp] theorem setGather_freezeTab (st g : Nat) (l : List GatherLine) (m : Module) : (setGather st g l m).freezeTab = m.freezeTab := rfl
@[simp] theorem setGather_freezeGen (st g : Nat) (l : List GatherLine) (m : Module) : (setGather st g l m).freezeGen = m.freezeGen := rfl
@[simp] theorem setGather_fabric (st g : Nat) (l : List GatherLine) (m : Module) : (setGather st g l m).fabric = m.fabric := rfl
@[simp] theorem setGather_weir (st g : Nat) (l : List GatherLine) (m : Module) : (setGather st g l m).weir = m.weir := rfl
@[simp] theorem setGather_clocks (st g : Nat) (l : List GatherLine) (m : Module) : (setGather st g l m).clocks = m.clocks := rfl
@[simp] theorem setGather_pendingReset (st g : Nat) (l : List GatherLine) (m : Module) : (setGather st g l m).pendingReset = m.pendingReset := rfl
@[simp] theorem setGather_errors (st g : Nat) (l : List GatherLine) (m : Module) : (setGather st g l m).errors = m.errors := rfl
@[simp] theorem setGather_squall (st g : Nat) (l : List GatherLine) (m : Module) : (setGather st g l m).squall = m.squall := rfl
@[simp] theorem setGather_board (st g : Nat) (l : List GatherLine) (m : Module) : (setGather st g l m).board = m.board := rfl
@[simp] theorem setGather_tlbs (st g : Nat) (l : List GatherLine) (m : Module) : (setGather st g l m).tlbs = m.tlbs := rfl
@[simp] theorem setGather_walks (st g : Nat) (l : List GatherLine) (m : Module) : (setGather st g l m).walks = m.walks := rfl
@[simp] theorem setGather_stats (st g : Nat) (l : List GatherLine) (m : Module) : (setGather st g l m).stats = m.stats := rfl

/-! ## setExpert -/

@[simp] theorem setExpert_time (x : Nat) (k : Expert) (m : Module) : (setExpert x k m).time = m.time := rfl
@[simp] theorem setExpert_freeCount (x : Nat) (k : Expert) (m : Module) : (setExpert x k m).freeCount = m.freeCount := rfl
@[simp] theorem setExpert_host (x : Nat) (k : Expert) (m : Module) : (setExpert x k m).host = m.host := rfl
@[simp] theorem setExpert_faults (x : Nat) (k : Expert) (m : Module) : (setExpert x k m).faults = m.faults := rfl
@[simp] theorem setExpert_hg (x : Nat) (k : Expert) (m : Module) : (setExpert x k m).hg = m.hg := rfl
@[simp] theorem setExpert_threads (x : Nat) (k : Expert) (m : Module) : (setExpert x k m).threads = m.threads := rfl
@[simp] theorem setExpert_cores (x : Nat) (k : Expert) (m : Module) : (setExpert x k m).cores = m.cores := rfl
@[simp] theorem setExpert_events (x : Nat) (k : Expert) (m : Module) : (setExpert x k m).events = m.events := rfl
@[simp] theorem setExpert_mem (x : Nat) (k : Expert) (m : Module) : (setExpert x k m).mem = m.mem := rfl
@[simp] theorem setExpert_poison (x : Nat) (k : Expert) (m : Module) : (setExpert x k m).poison = m.poison := rfl
@[simp] theorem setExpert_slices (x : Nat) (k : Expert) (m : Module) : (setExpert x k m).slices = m.slices := rfl
@[simp] theorem setExpert_drams (x : Nat) (k : Expert) (m : Module) : (setExpert x k m).drams = m.drams := rfl
@[simp] theorem setExpert_basins (x : Nat) (k : Expert) (m : Module) : (setExpert x k m).basins = m.basins := rfl
@[simp] theorem setExpert_arbs (x : Nat) (k : Expert) (m : Module) : (setExpert x k m).arbs = m.arbs := rfl
@[simp] theorem setExpert_gate (x : Nat) (k : Expert) (m : Module) : (setExpert x k m).gate = m.gate := rfl
@[simp] theorem setExpert_haze (x : Nat) (k : Expert) (m : Module) : (setExpert x k m).haze = m.haze := rfl
@[simp] theorem setExpert_freezeTab (x : Nat) (k : Expert) (m : Module) : (setExpert x k m).freezeTab = m.freezeTab := rfl
@[simp] theorem setExpert_freezeGen (x : Nat) (k : Expert) (m : Module) : (setExpert x k m).freezeGen = m.freezeGen := rfl
@[simp] theorem setExpert_fabric (x : Nat) (k : Expert) (m : Module) : (setExpert x k m).fabric = m.fabric := rfl
@[simp] theorem setExpert_clocks (x : Nat) (k : Expert) (m : Module) : (setExpert x k m).clocks = m.clocks := rfl
@[simp] theorem setExpert_pendingReset (x : Nat) (k : Expert) (m : Module) : (setExpert x k m).pendingReset = m.pendingReset := rfl
@[simp] theorem setExpert_errors (x : Nat) (k : Expert) (m : Module) : (setExpert x k m).errors = m.errors := rfl
@[simp] theorem setExpert_squall (x : Nat) (k : Expert) (m : Module) : (setExpert x k m).squall = m.squall := rfl
@[simp] theorem setExpert_board (x : Nat) (k : Expert) (m : Module) : (setExpert x k m).board = m.board := rfl
@[simp] theorem setExpert_tlbs (x : Nat) (k : Expert) (m : Module) : (setExpert x k m).tlbs = m.tlbs := rfl
@[simp] theorem setExpert_walks (x : Nat) (k : Expert) (m : Module) : (setExpert x k m).walks = m.walks := rfl
@[simp] theorem setExpert_stats (x : Nat) (k : Expert) (m : Module) : (setExpert x k m).stats = m.stats := rfl

/-! ## setBatch -/

@[simp] theorem setBatch_time (b : Batch) (m : Module) : (setBatch b m).time = m.time := rfl
@[simp] theorem setBatch_freeCount (b : Batch) (m : Module) : (setBatch b m).freeCount = m.freeCount := rfl
@[simp] theorem setBatch_host (b : Batch) (m : Module) : (setBatch b m).host = m.host := rfl
@[simp] theorem setBatch_faults (b : Batch) (m : Module) : (setBatch b m).faults = m.faults := rfl
@[simp] theorem setBatch_hg (b : Batch) (m : Module) : (setBatch b m).hg = m.hg := rfl
@[simp] theorem setBatch_threads (b : Batch) (m : Module) : (setBatch b m).threads = m.threads := rfl
@[simp] theorem setBatch_cores (b : Batch) (m : Module) : (setBatch b m).cores = m.cores := rfl
@[simp] theorem setBatch_events (b : Batch) (m : Module) : (setBatch b m).events = m.events := rfl
@[simp] theorem setBatch_mem (b : Batch) (m : Module) : (setBatch b m).mem = m.mem := rfl
@[simp] theorem setBatch_poison (b : Batch) (m : Module) : (setBatch b m).poison = m.poison := rfl
@[simp] theorem setBatch_slices (b : Batch) (m : Module) : (setBatch b m).slices = m.slices := rfl
@[simp] theorem setBatch_drams (b : Batch) (m : Module) : (setBatch b m).drams = m.drams := rfl
@[simp] theorem setBatch_basins (b : Batch) (m : Module) : (setBatch b m).basins = m.basins := rfl
@[simp] theorem setBatch_arbs (b : Batch) (m : Module) : (setBatch b m).arbs = m.arbs := rfl
@[simp] theorem setBatch_gate (b : Batch) (m : Module) : (setBatch b m).gate = m.gate := rfl
@[simp] theorem setBatch_haze (b : Batch) (m : Module) : (setBatch b m).haze = m.haze := rfl
@[simp] theorem setBatch_freezeTab (b : Batch) (m : Module) : (setBatch b m).freezeTab = m.freezeTab := rfl
@[simp] theorem setBatch_freezeGen (b : Batch) (m : Module) : (setBatch b m).freezeGen = m.freezeGen := rfl
@[simp] theorem setBatch_fabric (b : Batch) (m : Module) : (setBatch b m).fabric = m.fabric := rfl
@[simp] theorem setBatch_clocks (b : Batch) (m : Module) : (setBatch b m).clocks = m.clocks := rfl
@[simp] theorem setBatch_pendingReset (b : Batch) (m : Module) : (setBatch b m).pendingReset = m.pendingReset := rfl
@[simp] theorem setBatch_errors (b : Batch) (m : Module) : (setBatch b m).errors = m.errors := rfl
@[simp] theorem setBatch_squall (b : Batch) (m : Module) : (setBatch b m).squall = m.squall := rfl
@[simp] theorem setBatch_board (b : Batch) (m : Module) : (setBatch b m).board = m.board := rfl
@[simp] theorem setBatch_tlbs (b : Batch) (m : Module) : (setBatch b m).tlbs = m.tlbs := rfl
@[simp] theorem setBatch_walks (b : Batch) (m : Module) : (setBatch b m).walks = m.walks := rfl
@[simp] theorem setBatch_stats (b : Batch) (m : Module) : (setBatch b m).stats = m.stats := rfl

/-! ## setChoice -/

@[simp] theorem setChoice_time (n : Nat) (c : Choice) (m : Module) : (setChoice n c m).time = m.time := rfl
@[simp] theorem setChoice_freeCount (n : Nat) (c : Choice) (m : Module) : (setChoice n c m).freeCount = m.freeCount := rfl
@[simp] theorem setChoice_host (n : Nat) (c : Choice) (m : Module) : (setChoice n c m).host = m.host := rfl
@[simp] theorem setChoice_faults (n : Nat) (c : Choice) (m : Module) : (setChoice n c m).faults = m.faults := rfl
@[simp] theorem setChoice_hg (n : Nat) (c : Choice) (m : Module) : (setChoice n c m).hg = m.hg := rfl
@[simp] theorem setChoice_threads (n : Nat) (c : Choice) (m : Module) : (setChoice n c m).threads = m.threads := rfl
@[simp] theorem setChoice_cores (n : Nat) (c : Choice) (m : Module) : (setChoice n c m).cores = m.cores := rfl
@[simp] theorem setChoice_events (n : Nat) (c : Choice) (m : Module) : (setChoice n c m).events = m.events := rfl
@[simp] theorem setChoice_mem (n : Nat) (c : Choice) (m : Module) : (setChoice n c m).mem = m.mem := rfl
@[simp] theorem setChoice_poison (n : Nat) (c : Choice) (m : Module) : (setChoice n c m).poison = m.poison := rfl
@[simp] theorem setChoice_slices (n : Nat) (c : Choice) (m : Module) : (setChoice n c m).slices = m.slices := rfl
@[simp] theorem setChoice_drams (n : Nat) (c : Choice) (m : Module) : (setChoice n c m).drams = m.drams := rfl
@[simp] theorem setChoice_basins (n : Nat) (c : Choice) (m : Module) : (setChoice n c m).basins = m.basins := rfl
@[simp] theorem setChoice_arbs (n : Nat) (c : Choice) (m : Module) : (setChoice n c m).arbs = m.arbs := rfl
@[simp] theorem setChoice_gate (n : Nat) (c : Choice) (m : Module) : (setChoice n c m).gate = m.gate := rfl
@[simp] theorem setChoice_haze (n : Nat) (c : Choice) (m : Module) : (setChoice n c m).haze = m.haze := rfl
@[simp] theorem setChoice_freezeTab (n : Nat) (c : Choice) (m : Module) : (setChoice n c m).freezeTab = m.freezeTab := rfl
@[simp] theorem setChoice_freezeGen (n : Nat) (c : Choice) (m : Module) : (setChoice n c m).freezeGen = m.freezeGen := rfl
@[simp] theorem setChoice_fabric (n : Nat) (c : Choice) (m : Module) : (setChoice n c m).fabric = m.fabric := rfl
@[simp] theorem setChoice_clocks (n : Nat) (c : Choice) (m : Module) : (setChoice n c m).clocks = m.clocks := rfl
@[simp] theorem setChoice_pendingReset (n : Nat) (c : Choice) (m : Module) : (setChoice n c m).pendingReset = m.pendingReset := rfl
@[simp] theorem setChoice_errors (n : Nat) (c : Choice) (m : Module) : (setChoice n c m).errors = m.errors := rfl
@[simp] theorem setChoice_squall (n : Nat) (c : Choice) (m : Module) : (setChoice n c m).squall = m.squall := rfl
@[simp] theorem setChoice_board (n : Nat) (c : Choice) (m : Module) : (setChoice n c m).board = m.board := rfl
@[simp] theorem setChoice_tlbs (n : Nat) (c : Choice) (m : Module) : (setChoice n c m).tlbs = m.tlbs := rfl
@[simp] theorem setChoice_walks (n : Nat) (c : Choice) (m : Module) : (setChoice n c m).walks = m.walks := rfl
@[simp] theorem setChoice_stats (n : Nat) (c : Choice) (m : Module) : (setChoice n c m).stats = m.stats := rfl

/-! ## setPoison -/

@[simp] theorem setPoison_time (u : Nat) (on : Bool) (m : Module) : (setPoison u on m).time = m.time := rfl
@[simp] theorem setPoison_freeCount (u : Nat) (on : Bool) (m : Module) : (setPoison u on m).freeCount = m.freeCount := rfl
@[simp] theorem setPoison_host (u : Nat) (on : Bool) (m : Module) : (setPoison u on m).host = m.host := rfl
@[simp] theorem setPoison_faults (u : Nat) (on : Bool) (m : Module) : (setPoison u on m).faults = m.faults := rfl
@[simp] theorem setPoison_hg (u : Nat) (on : Bool) (m : Module) : (setPoison u on m).hg = m.hg := rfl
@[simp] theorem setPoison_threads (u : Nat) (on : Bool) (m : Module) : (setPoison u on m).threads = m.threads := rfl
@[simp] theorem setPoison_cores (u : Nat) (on : Bool) (m : Module) : (setPoison u on m).cores = m.cores := rfl
@[simp] theorem setPoison_events (u : Nat) (on : Bool) (m : Module) : (setPoison u on m).events = m.events := rfl
@[simp] theorem setPoison_mem (u : Nat) (on : Bool) (m : Module) : (setPoison u on m).mem = m.mem := rfl
@[simp] theorem setPoison_slices (u : Nat) (on : Bool) (m : Module) : (setPoison u on m).slices = m.slices := rfl
@[simp] theorem setPoison_drams (u : Nat) (on : Bool) (m : Module) : (setPoison u on m).drams = m.drams := rfl
@[simp] theorem setPoison_basins (u : Nat) (on : Bool) (m : Module) : (setPoison u on m).basins = m.basins := rfl
@[simp] theorem setPoison_arbs (u : Nat) (on : Bool) (m : Module) : (setPoison u on m).arbs = m.arbs := rfl
@[simp] theorem setPoison_gate (u : Nat) (on : Bool) (m : Module) : (setPoison u on m).gate = m.gate := rfl
@[simp] theorem setPoison_haze (u : Nat) (on : Bool) (m : Module) : (setPoison u on m).haze = m.haze := rfl
@[simp] theorem setPoison_freezeTab (u : Nat) (on : Bool) (m : Module) : (setPoison u on m).freezeTab = m.freezeTab := rfl
@[simp] theorem setPoison_freezeGen (u : Nat) (on : Bool) (m : Module) : (setPoison u on m).freezeGen = m.freezeGen := rfl
@[simp] theorem setPoison_fabric (u : Nat) (on : Bool) (m : Module) : (setPoison u on m).fabric = m.fabric := rfl
@[simp] theorem setPoison_weir (u : Nat) (on : Bool) (m : Module) : (setPoison u on m).weir = m.weir := rfl
@[simp] theorem setPoison_clocks (u : Nat) (on : Bool) (m : Module) : (setPoison u on m).clocks = m.clocks := rfl
@[simp] theorem setPoison_pendingReset (u : Nat) (on : Bool) (m : Module) : (setPoison u on m).pendingReset = m.pendingReset := rfl
@[simp] theorem setPoison_errors (u : Nat) (on : Bool) (m : Module) : (setPoison u on m).errors = m.errors := rfl
@[simp] theorem setPoison_squall (u : Nat) (on : Bool) (m : Module) : (setPoison u on m).squall = m.squall := rfl
@[simp] theorem setPoison_board (u : Nat) (on : Bool) (m : Module) : (setPoison u on m).board = m.board := rfl
@[simp] theorem setPoison_tlbs (u : Nat) (on : Bool) (m : Module) : (setPoison u on m).tlbs = m.tlbs := rfl
@[simp] theorem setPoison_walks (u : Nat) (on : Bool) (m : Module) : (setPoison u on m).walks = m.walks := rfl
@[simp] theorem setPoison_stats (u : Nat) (on : Bool) (m : Module) : (setPoison u on m).stats = m.stats := rfl

/-! ## clearToken -/

@[simp] theorem clearToken_time (t : Nat) (m : Module) : (clearToken t m).time = m.time := rfl
@[simp] theorem clearToken_freeCount (t : Nat) (m : Module) : (clearToken t m).freeCount = m.freeCount := rfl
@[simp] theorem clearToken_host (t : Nat) (m : Module) : (clearToken t m).host = m.host := rfl
@[simp] theorem clearToken_faults (t : Nat) (m : Module) : (clearToken t m).faults = m.faults := rfl
@[simp] theorem clearToken_threads (t : Nat) (m : Module) : (clearToken t m).threads = m.threads := rfl
@[simp] theorem clearToken_cores (t : Nat) (m : Module) : (clearToken t m).cores = m.cores := rfl
@[simp] theorem clearToken_events (t : Nat) (m : Module) : (clearToken t m).events = m.events := rfl
@[simp] theorem clearToken_mem (t : Nat) (m : Module) : (clearToken t m).mem = m.mem := rfl
@[simp] theorem clearToken_poison (t : Nat) (m : Module) : (clearToken t m).poison = m.poison := rfl
@[simp] theorem clearToken_slices (t : Nat) (m : Module) : (clearToken t m).slices = m.slices := rfl
@[simp] theorem clearToken_drams (t : Nat) (m : Module) : (clearToken t m).drams = m.drams := rfl
@[simp] theorem clearToken_basins (t : Nat) (m : Module) : (clearToken t m).basins = m.basins := rfl
@[simp] theorem clearToken_arbs (t : Nat) (m : Module) : (clearToken t m).arbs = m.arbs := rfl
@[simp] theorem clearToken_gate (t : Nat) (m : Module) : (clearToken t m).gate = m.gate := rfl
@[simp] theorem clearToken_haze (t : Nat) (m : Module) : (clearToken t m).haze = m.haze := rfl
@[simp] theorem clearToken_freezeTab (t : Nat) (m : Module) : (clearToken t m).freezeTab = m.freezeTab := rfl
@[simp] theorem clearToken_freezeGen (t : Nat) (m : Module) : (clearToken t m).freezeGen = m.freezeGen := rfl
@[simp] theorem clearToken_fabric (t : Nat) (m : Module) : (clearToken t m).fabric = m.fabric := rfl
@[simp] theorem clearToken_weir (t : Nat) (m : Module) : (clearToken t m).weir = m.weir := rfl
@[simp] theorem clearToken_clocks (t : Nat) (m : Module) : (clearToken t m).clocks = m.clocks := rfl
@[simp] theorem clearToken_pendingReset (t : Nat) (m : Module) : (clearToken t m).pendingReset = m.pendingReset := rfl
@[simp] theorem clearToken_errors (t : Nat) (m : Module) : (clearToken t m).errors = m.errors := rfl
@[simp] theorem clearToken_squall (t : Nat) (m : Module) : (clearToken t m).squall = m.squall := rfl
@[simp] theorem clearToken_board (t : Nat) (m : Module) : (clearToken t m).board = m.board := rfl
@[simp] theorem clearToken_tlbs (t : Nat) (m : Module) : (clearToken t m).tlbs = m.tlbs := rfl
@[simp] theorem clearToken_walks (t : Nat) (m : Module) : (clearToken t m).walks = m.walks := rfl
@[simp] theorem clearToken_stats (t : Nat) (m : Module) : (clearToken t m).stats = m.stats := rfl

/-! ## What an update writes reads back; every other place reads as before -/

@[simp] theorem threadAt_setThread_same (t : Nat) (x : Thread) (m : Module) : threadAt (setThread t x m) t = x := Sparse.get_set_same _ _ _ _
theorem threadAt_setThread_other {t u : Nat} (h : u ≠ t) (x : Thread) (m : Module) :
    threadAt (setThread t x m) u = threadAt m u := Sparse.get_set_other _ _ _ h
@[simp] theorem coreAt_setCore_same (t : Nat) (x : Core) (m : Module) : coreAt (setCore t x m) t = x := Sparse.get_set_same _ _ _ _
theorem coreAt_setCore_other {t u : Nat} (h : u ≠ t) (x : Core) (m : Module) :
    coreAt (setCore t x m) u = coreAt m u := Sparse.get_set_other _ _ _ h
@[simp] theorem eventsOf_setEvents_same (t : Nat) (x : Events) (m : Module) : eventsOf (setEvents t x m) t = x := Sparse.get_set_same _ _ _ _
theorem eventsOf_setEvents_other {t u : Nat} (h : u ≠ t) (x : Events) (m : Module) :
    eventsOf (setEvents t x m) u = eventsOf m u := Sparse.get_set_other _ _ _ h
@[simp] theorem sliceAt_setSlice_same (t : Nat) (x : Slice) (m : Module) : sliceAt (setSlice t x m) t = x := Sparse.get_set_same _ _ _ _
theorem sliceAt_setSlice_other {t u : Nat} (h : u ≠ t) (x : Slice) (m : Module) :
    sliceAt (setSlice t x m) u = sliceAt m u := Sparse.get_set_other _ _ _ h
@[simp] theorem dramAt_setDram_same (t : Nat) (x : DramChannel) (m : Module) : dramAt (setDram t x m) t = x := Sparse.get_set_same _ _ _ _
theorem dramAt_setDram_other {t u : Nat} (h : u ≠ t) (x : DramChannel) (m : Module) :
    dramAt (setDram t x m) u = dramAt m u := Sparse.get_set_other _ _ _ h
@[simp] theorem stackAt_setStack_same (t : Nat) (x : Stack) (m : Module) : stackAt (setStack t x m) t = x := Sparse.get_set_same _ _ _ _
theorem stackAt_setStack_other {t u : Nat} (h : u ≠ t) (x : Stack) (m : Module) :
    stackAt (setStack t x m) u = stackAt m u := Sparse.get_set_other _ _ _ h
@[simp] theorem ringAt_setRing_same (t : Nat) (x : Ring) (m : Module) : ringAt (setRing t x m) t = x := Sparse.get_set_same _ _ _ _
theorem ringAt_setRing_other {t u : Nat} (h : u ≠ t) (x : Ring) (m : Module) :
    ringAt (setRing t x m) u = ringAt m u := Sparse.get_set_other _ _ _ h

/-! ## Registers of a thread -/

@[simp] theorem Thread.reg_zero (th : Thread) : th.reg 0 = 0 := rfl

/-- A register written reads back; a write of g0 is discarded (R99). -/
theorem Thread.reg_putReg_same (th : Thread) (r : Reg) (v : Word) : (th.putReg r v).reg r = if r = 0 then 0 else v := by
  by_cases h : r = 0
  · subst h; rfl
  · rw [Thread.reg, if_neg h, if_neg h, Thread.putReg, if_neg h]
    exact Sparse.get_set_same _ _ _ _

/-- Other registers read as before. -/
theorem Thread.reg_putReg_other (th : Thread) {r q : Reg} (h : q ≠ r) (v : Word) : (th.putReg r v).reg q = th.reg q := by
  by_cases h0 : r = 0
  · subst h0; rfl
  · have hn : q.toNat ≠ r.toNat := fun e => h (BitVec.eq_of_toNat_eq e)
    rw [Thread.putReg, if_neg h0, Thread.reg, Thread.reg]
    exact congrArg (fun x => if q = 0 then 0 else x) (Sparse.get_set_other _ _ _ hn)

@[simp] theorem Thread.reg_result_same (th : Thread) (r : Reg) (v : Word) :
    (th.result r v).reg r = if r = 0 then 0 else v := th.reg_putReg_same r v

theorem Thread.reg_result_other (th : Thread) {r q : Reg} (h : q ≠ r) (v : Word) : (th.result r v).reg q = th.reg q :=
  th.reg_putReg_other h v

end Sys2Proof.Machine
end

