-- ==== Sys2Proof/Laws/Count.lean ====
section
/-! SUPPORT. What counting may change: the counters themselves, and the pending sources of the event controllers. -/

namespace Sys2Proof.Machine

theorem CountsOnly.refl (m : Module) : CountsOnly m m := rfl

theorem CountsOnly.trans {a b c : Module} (h : CountsOnly a b) (k : CountsOnly b c) : CountsOnly a c := by
  unfold CountsOnly at *
  rw [k, h]

theorem addStat_only (g : Stat) (n k b : Nat) (m : Module) : CountsOnly m (addStat g n k b m).1 := rfl

theorem setEvents_only (d : Nat) (e : Events) (m : Module) : CountsOnly m (setEvents d e m) := rfl

/-- A rising edge changes the controllers and their counters alone (R148, R432). -/
theorem edgeFuel_only (n d s : Nat) (m : Module) : CountsOnly m (edgeFuel n d s m) := by
  induction n generalizing s m with
  | zero => exact CountsOnly.refl m
  | succ n ih =>
    unfold edgeFuel
    dsimp only
    split
    · exact CountsOnly.refl m
    · generalize (if (eventsOf m d).pend.getLsbD s then 1 else 0) = k
      split
      · exact ((setEvents_only _ _ _).trans (addStat_only _ _ _ _ _)).trans (ih _ _)
      · exact (setEvents_only _ _ _).trans (addStat_only _ _ _ _ _)

theorem edge_only (d s : Nat) (m : Module) : CountsOnly m (edge d s m) := edgeFuel_only 3 d s m

theorem edgeAll_only (s : Nat) (m : Module) : CountsOnly m (edgeAll s m) :=
  ((((edge_only 0 s m).trans (edge_only 1 s _)).trans (edge_only 2 s _)).trans (edge_only 3 s _))

/-- Counting changes counters and pending sources alone (R432). -/
theorem count_only (g : Stat) (n k b : Nat) (m : Module) : CountsOnly m (count g n k b m) := by
  have key : ∀ r : Module × Bool, CountsOnly m r.1 → CountsOnly m (if r.2 then
      match satSource g n with
      | some (some d, s) => edge d s r.1
      | some (.none, s) => edgeAll s r.1
      | .none => r.1
    else r.1) := by
    intro r h
    split
    · split
      · exact h.trans (edge_only _ _ _)
      · exact h.trans (edgeAll_only _ _)
      · exact h
    · exact h
  have base : ∀ off : Bool, CountsOnly m (if off then (m, false) else addStat g n k b m).1 := by
    intro off
    cases off
    · exact addStat_only g n k b m
    · exact CountsOnly.refl m
  exact key _ (base _)

theorem foldl_only {α : Type} (f : Module → α → Module) (h : ∀ m a, CountsOnly m (f m a)) (l : List α) (m : Module) :
    CountsOnly m (l.foldl f m) := by
  induction l generalizing m with
  | nil => exact CountsOnly.refl m
  | cons a l ih => exact (h m a).trans (ih _)

/-- Counting an event of a thread changes counters and pending sources alone (R433). -/
theorem perf_only (t ev n : Nat) (m : Module) : CountsOnly m (perf t ev n m) := by
  unfold perf
  dsimp only
  apply foldl_only
  intro m i
  split
  · split
    · exact (addStat_only _ _ _ _ _).trans (edge_only _ _ _)
    · exact addStat_only _ _ _ _ _
  · exact CountsOnly.refl m

theorem CountsOnly.threads {m m' : Module} (h : CountsOnly m m') : m'.threads = m.threads := by
  rw [h]

theorem CountsOnly.threadAt {m m' : Module} (h : CountsOnly m m') (t : Nat) : threadAt m' t = threadAt m t := by
  rw [h]; rfl

/-- A retirement changes its thread and the counters alone (R119). -/
theorem retire_only (t n : Nat) (m : Module) :
    CountsOnly (setThread t { (endCheck ((threadAt m t).pc + BitVec.ofNat 48 (4 * (n - 1))) 4 (threadAt m t)).1 with
      pc := (endCheck ((threadAt m t).pc + BitVec.ofNat 48 (4 * (n - 1))) 4 (threadAt m t)).2.getD
        ((threadAt m t).pc + BitVec.ofNat 48 (4 * (n - 1)) + 4), latch := .none } m) (retire t n m) :=
  perf_only t 0x02 1 _

/-- A transfer changes its thread's pc and latch, and the counters, alone (R110). -/
theorem transfer_only (t : Nat) (a : BitVec 48) (m : Module) :
    CountsOnly (setThread t { threadAt m t with pc := a, latch := .none } m) (transfer t a m) :=
  (perf_only t 0x02 1 _).trans (perf_only t 0x0E 1 _)

end Sys2Proof.Machine
end

