-- ==== Sys2Proof/Laws/Memory.lean ====
section
/-! SUPPORT. Memory keeps its canonical form, and a byte written reads back. -/

namespace Sys2Proof.Machine

/-- A list that rises above a bound rises above any lower one. -/
theorem wfAbove_lower {l : List Host.Cell} {p : Nat} (h : wfAbove (some p) l = true) (o : Option Nat)
    (ho : ∀ q, o = some q → q ≤ p) : wfAbove o l = true := by
  cases l with
  | nil => rfl
  | cons c l =>
    obtain ⟨k, b⟩ := c
    simp only [wfAbove, Bool.and_eq_true, decide_eq_true_eq] at h ⊢
    refine ⟨⟨?_, h.1.2⟩, h.2⟩
    cases o with
    | none => rfl
    | some q => have := ho q rfl; simp; omega

theorem memPut_wfAbove (l : List Host.Cell) (a : Nat) (b : Byte) (o : Option Nat) (ho : ∀ q, o = some q → q < a)
    (h : wfAbove o l = true) : wfAbove o (memPut l a b) = true := by
  induction l generalizing o with
  | nil =>
    by_cases hb : b = 0#8
    · simp [memPut, hb, wfAbove]
    · cases o with
      | none => simp [memPut, hb, wfAbove]
      | some q => have := ho q rfl; simp [memPut, hb, wfAbove, this]
  | cons c l ih =>
    obtain ⟨k, w⟩ := c
    have hh := h
    simp only [wfAbove, Bool.and_eq_true] at h
    unfold memPut
    split
    · rename_i hak
      split
      · exact hh
      · rename_i hb
        simp only [wfAbove, Bool.and_eq_true]
        refine ⟨⟨?_, by simpa using hb⟩, ⟨by simpa using hak, h.1.2⟩, h.2⟩
        cases o with
        | none => rfl
        | some q => simpa using ho q rfl
    · split
      · rename_i hak hek
        split
        · exact wfAbove_lower h.2 o (fun q hq => by have := ho q hq; omega)
        · rename_i hb
          simp only [wfAbove, Bool.and_eq_true]
          refine ⟨⟨?_, by simpa using hb⟩, by rw [hek]; exact h.2⟩
          cases o with
          | none => rfl
          | some q => simpa using ho q rfl
      · rename_i hak hek
        simp only [wfAbove, Bool.and_eq_true]
        exact ⟨⟨h.1.1, h.1.2⟩, ih (some k) (fun q hq => by cases hq; omega) h.2⟩

/-- Writing a byte keeps the canonical form. -/
theorem memPut_wf {l : List Host.Cell} (h : Memory.wf l = true) (a : Nat) (b : Byte) : Memory.wf (memPut l a b) = true :=
  memPut_wfAbove l a b .none (fun _ h => by cases h) h

/-- Writing bytes under a mask keeps the canonical form. -/
theorem memPutMasked_wf (bs : List Byte) (a : Nat) (mask : Nat → Bool) (i : Nat) {l : List Host.Cell}
    (h : Memory.wf l = true) : Memory.wf (memPutMasked l a mask i bs) = true := by
  induction bs generalizing l i with
  | nil => exact h
  | cons b bs ih =>
    unfold memPutMasked
    apply ih
    split
    · exact memPut_wf h _ _
    · exact h

/-- An address below every listed one reads as the default. -/
theorem memGet_below {l : List Host.Cell} {p a : Nat} (h : wfAbove (some p) l = true) (ha : a ≤ p) : memGet l a = 0 := by
  cases l with
  | nil => rfl
  | cons c l =>
    obtain ⟨k, b⟩ := c
    simp only [wfAbove, Bool.and_eq_true, decide_eq_true_eq] at h
    have : a < k := by omega
    simp [memGet, this]

theorem memGet_memPut_above (l : List Host.Cell) (a : Nat) (b : Byte) (o : Option Nat) (h : wfAbove o l = true) :
    memGet (memPut l a b) a = b := by
  induction l generalizing o with
  | nil => by_cases hb : b = 0#8 <;> simp [memPut, memGet, hb]
  | cons c l ih =>
    obtain ⟨k, w⟩ := c
    simp only [wfAbove, Bool.and_eq_true] at h
    unfold memPut
    split
    · rename_i hak
      split
      · rename_i hb
        simp [memGet, hak, hb]
      · simp [memGet]
    · split
      · rename_i hak hek
        split
        · rename_i hb
          rw [hb, hek]
          exact memGet_below h.2 (Nat.le_refl k)
        · simp [memGet]
      · rename_i hak hek
        simp only [memGet, hak, hek, if_false]
        exact ih (some k) h.2

/-- A byte written reads back. -/
theorem memGet_memPut_same {l : List Host.Cell} (h : Memory.wf l = true) (a : Nat) (b : Byte) :
    memGet (memPut l a b) a = b := memGet_memPut_above l a b .none h

/-- Memory after reset is canonical. -/
theorem reset_mem_wf : Memory.wf State.reset.m.mem = true := rfl

/-- A line written to memory keeps the canonical form. -/
theorem writeDram_wf {m : Module} (h : Memory.wf m.mem = true) (line : Nat) (data : List Byte) (poison : BitVec 4) :
    Memory.wf (writeDram line data poison m).mem = true := by
  have e : (writeDram line data poison m).mem = memPutMasked m.mem line (fun _ => true) 0 data := rfl
  rw [e]
  exact memPutMasked_wf data line _ 0 h

end Sys2Proof.Machine
end

