-- ==== Sys2Proof/Laws/Operations.lean ====
section
/-! SUPPORT. One lemma for each shared operation, saying what it can do: memory reads after writes, table deletion, pool
entries, error records, free values, and the wrappers that the commands stand in. -/

namespace Sys2Proof.Machine

open Host

/-! ## Memory -/

theorem memGet_memPut_other_above (l : List Cell) {a c : Nat} (hc : c ≠ a) (b : Byte) (o : Option Nat)
    (h : wfAbove o l = true) : memGet (memPut l a b) c = memGet l c := by
  induction l generalizing o with
  | nil =>
    by_cases hb : b = 0#8
    · simp [memPut, hb]
    · by_cases hca : c < a
      · simp [memPut, hb, memGet, hca]
      · simp [memPut, hb, memGet, hca, hc]
  | cons p l ih =>
    obtain ⟨k, w⟩ := p
    simp only [wfAbove, Bool.and_eq_true] at h
    unfold memPut
    split
    · rename_i hak
      split
      · rfl
      · by_cases hca : c < a
        · have : c < k := by omega
          simp [memGet, hca, this]
        · simp [memGet, hca, hc]
    · split
      · rename_i hak hek
        subst hek
        split
        · by_cases hca : c < a
          · simp only [memGet, hca, if_true]
            exact memGet_below h.2 (by omega)
          · simp [memGet, hca, hc]
        · simp [memGet, hc]
      · simp only [memGet, ih (some k) h.2]

/-- A byte written leaves every other address as it was. -/
theorem memGet_memPut_other {l : List Cell} (h : Memory.wf l = true) {a c : Nat} (hc : c ≠ a) (b : Byte) :
    memGet (memPut l a b) c = memGet l c := memGet_memPut_other_above l hc b .none h

/-- What an address reads after bytes are written under a mask: the byte written there, or what it read before. -/
theorem memGet_memPutMasked (bs : List Byte) (a : Nat) (mask : Nat → Bool) (i : Nat) {l : List Cell}
    (h : Memory.wf l = true) (c : Nat) :
    memGet (memPutMasked l a mask i bs) c
      = if a + i ≤ c ∧ c < a + i + bs.length ∧ mask (c - a) = true then bs.getD (c - a - i) 0 else memGet l c := by
  induction bs generalizing l i with
  | nil =>
    have : ¬ (a + i ≤ c ∧ c < a + i + ([] : List Byte).length ∧ mask (c - a) = true) := by
      simp only [List.length_nil]; omega
    simp only [memPutMasked, if_neg this]
  | cons b bs ih =>
    unfold memPutMasked
    have hw : Memory.wf (if mask i then memPut l (a + i) b else l) = true := by
      split
      · exact memPut_wf h _ _
      · exact h
    rw [ih (i + 1) hw]
    by_cases hc : c = a + i
    · subst hc
      have h1 : ¬ (a + (i + 1) ≤ a + i ∧ a + i < a + (i + 1) + bs.length ∧ mask (a + i - a) = true) := by omega
      have e : a + i - a = i := by omega
      rw [if_neg h1]
      simp only [e, Nat.le_refl, true_and, List.length_cons]
      have h2 : a + i < a + i + (bs.length + 1) := by omega
      simp only [h2, true_and, Nat.sub_self, List.getD_cons_zero]
      split
      · exact memGet_memPut_same h _ _
      · rfl
    · have hl : memGet (if mask i then memPut l (a + i) b else l) c = memGet l c := by
        split
        · exact memGet_memPut_other h hc b
        · rfl
      rw [hl]
      by_cases hr : a + (i + 1) ≤ c
      · have e : c - a - i = (c - a - (i + 1)) + 1 := by omega
        have hlen : (c < a + (i + 1) + bs.length) = (c < a + i + (bs.length + 1)) := by
          apply propext; omega
        have h0 : a + i ≤ c := by omega
        simp only [hr, h0, true_and, List.length_cons, hlen, e, List.getD_cons_succ]
      · have h1 : ¬ (a + (i + 1) ≤ c ∧ c < a + (i + 1) + bs.length ∧ mask (c - a) = true) := by omega
        have h2 : ¬ (a + i ≤ c ∧ c < a + i + (b :: bs).length ∧ mask (c - a) = true) := by omega
        rw [if_neg h1, if_neg h2]

/-- A line written to memory reads back, and every address outside it reads as before. -/
theorem memGet_writeDram {m : Module} (h : Memory.wf m.mem = true) (line : Nat) (data : List Byte) (poison : BitVec 4)
    (c : Nat) : memGet (writeDram line data poison m).mem c
      = if line ≤ c ∧ c < line + data.length then data.getD (c - line) 0 else memGet m.mem c := by
  have e : (writeDram line data poison m).mem = memPutMasked m.mem line (fun _ => true) 0 data := rfl
  rw [e, memGet_memPutMasked data line _ 0 h c]
  simp only [Nat.add_zero, and_true, Nat.sub_zero]

/-- A line written to memory changes memory, its poison marks and its channel alone. -/
theorem writeDram_frame (line : Nat) (data : List Byte) (poison : BitVec 4) (m : Module) :
    ∃ marks channels, writeDram line data poison m
      = { m with mem := memPutMasked m.mem line (fun _ => true) 0 data, poison := marks, drams := channels } := ⟨_, _, rfl⟩

/-- A line read from memory is what memory holds, and only its channel notices. -/
theorem readDram_spec (line : Nat) (m : Module) : (readDram line m).1 = (memBytes m line 128, memPoison m line)
    ∧ ∃ channels, (readDram line m).2 = { m with drams := channels } := ⟨rfl, _, rfl⟩

/-! ## Tables and the pool -/

theorem Sparse.find_set_other {α : Type} (l : Sparse α) {i j : Nat} (v : α) (h : j ≠ i) :
    Sparse.find (Sparse.set l i v) j = Sparse.find l j := by
  induction l with
  | nil => simp [Sparse.set, Sparse.find, h]
  | cons p l ih =>
    obtain ⟨k, w⟩ := p
    by_cases hik : i < k
    · simp only [Sparse.set, hik, if_true, Sparse.find]
      by_cases hj : j < i
      · have : j < k := by omega
        simp [hj, this]
      · simp [hj, h]
    · by_cases e : i = k
      · subst e
        simp [Sparse.set, Sparse.find, h]
      · simp only [Sparse.set, hik, e, if_false, Sparse.find, ih]

/-- An entry replaced is found under its identifier, where one stood. -/
theorem entryAt_setEntry_same (e : Entry) (m : Module) : entryAt (setEntry e m) e.id = (entryAt m e.id).map fun _ => e := by
  simp only [entryAt, setEntry]
  induction m.hg.pool with
  | nil => rfl
  | cons x l ih =>
    by_cases hx : x.id = e.id
    · simp [hx]
    · simp only [List.map_cons, beq_iff_eq, hx, if_false]
      simpa [List.find?_cons, hx] using ih

/-- Every other entry stays. -/
theorem entryAt_setEntry_other (e : Entry) {p : Nat} (h : p ≠ e.id) (m : Module) :
    entryAt (setEntry e m) p = entryAt m p := by
  simp only [entryAt, setEntry]
  induction m.hg.pool with
  | nil => rfl
  | cons x l ih =>
    by_cases hx : x.id = e.id
    · have h1 : (e.id == p) = false := by simpa using fun h' => h h'.symm
      have h2 : (x.id == p) = false := by rw [hx]; exact h1
      have h3 : (x.id == e.id) = true := by simp [hx]
      simp only [List.map_cons, h3, if_true, List.find?_cons, h1, h2]
      exact ih
    · have h3 : (x.id == e.id) = false := by simpa using hx
      simp only [List.map_cons, h3, Bool.false_eq_true, if_false, List.find?_cons]
      split
      · rfl
      · exact ih

/-! ## Wrappers of the commands -/

/-- A command without authority acts on the module alone, and always completes. -/
theorem onModule_eq (f : Module → Module) (s : State) : onModule f s = .next { s with m := f s.m } := rfl

/-- The next instruction of a thread that can issue does what it says to the module. -/
theorem issue_issuable {t : Nat} {s : State} (h : issuable s.m t = true) (f : Thread → Module → Module) :
    issue t f s = .next { s with m := f (threadAt s.m t) s.m } := by
  simp only [issue, onModule, h, if_true]

/-- One that cannot changes nothing. -/
theorem issue_blocked {t : Nat} {s : State} (h : issuable s.m t = false) (f : Thread → Module → Module) :
    issue t f s = .next s := by
  simp only [issue, onModule, h, Bool.false_eq_true, if_false]

/-- An arithmetic instruction whose sources and destination are ready writes its result and retires. -/
theorem alu_ready {t : Nat} {rd : Reg} {v : Thread → Option Word} {s : State} {x : Word} (h : issuable s.m t = true)
    (hv : v (threadAt s.m t) = some x) (hw : (threadAt s.m t).writable rd = true) :
    alu t rd v s = .next { s with m := retire t 1 (setThread t ((threadAt s.m t).result rd x) s.m) } := by
  rw [alu, issue_issuable h]
  simp only [hv, hw, if_true]

/-- One that waits for a load changes nothing. -/
theorem alu_waits {t : Nat} {rd : Reg} {v : Thread → Option Word} {s : State}
    (h : v (threadAt s.m t) = none ∨ (threadAt s.m t).writable rd = false) : alu t rd v s = .next s := by
  by_cases hi : issuable s.m t = true
  · rw [alu, issue_issuable hi]
    rcases h with h | h
    · simp only [h]
    · cases hv : v (threadAt s.m t) <;> simp [h]
  · exact issue_blocked (by simpa using hi) _

/-- An access that answers hands its value on. -/
theorem withAccess_ok {α : Type} {t : Nat} {x : Acc α} {k : α → Module → Module} {m m' : Module} {a : α}
    (h : x.go m = (.ok a, m')) : withAccess t x k m = k a m' := by simp only [withAccess, h]

/-- An access that stops settles its stop. -/
theorem withAccess_error {α : Type} {t : Nat} {x : Acc α} {k : α → Module → Module} {m m' : Module} {s : Stop}
    (h : x.go m = (.error s, m')) : withAccess t x k m = settleStop t 0 s m m' := by simp only [withAccess, h]

/-- A free value is the next of its width, and only the count of free values moves. -/
theorem takeFree_spec (w : Nat) (m : Module) : (takeFree w m).1 = Config.freeBits w m.freeCount
    ∧ (takeFree w m).2 = { m with freeCount := m.freeCount + 1 } := ⟨rfl, rfl⟩

/-! ## Errors -/

/-- What a logged error may change: the log, the counters, pending sources, and what the host port has sent. -/
def LogsOnly (m m' : Module) : Prop :=
  m' = { m with errors := m'.errors, stats := m'.stats, events := m'.events, host := m'.host }

theorem LogsOnly.refl (m : Module) : LogsOnly m m := rfl

theorem LogsOnly.trans {a b c : Module} (h : LogsOnly a b) (k : LogsOnly b c) : LogsOnly a c := by
  unfold LogsOnly at *
  rw [k, h]

theorem CountsOnly.logs {m m' : Module} (h : CountsOnly m m') : LogsOnly m m' := by
  unfold CountsOnly at h
  unfold LogsOnly
  rw [h]

theorem putHost_logs (bs : List Byte) (a : Nat) (m : Module) : LogsOnly m (putHost a bs m) := by
  induction bs generalizing a m with
  | nil => exact .refl m
  | cons b bs ih =>
    exact (show LogsOnly m { m with host := { m.host with hostMem := Sparse.set m.host.hostMem a b } } from rfl).trans
      (ih _ _)

/-- A vector is sent, or stays pending (R58). -/
theorem signal_logs (v : BitVec 11) (m : Module) : LogsOnly m (signal v m) := by
  unfold signal
  dsimp only
  split
  · rfl
  split
  · rfl
  · exact (show LogsOnly m { m with host := { m.host with msixSent := v :: m.host.msixSent } } from rfl).trans
      (putHost_logs _ _ _)

/-- A record is written, merged or lost (R428, R429). -/
theorem writeRecord_logs (r : ErrorRecord) (m : Module) : LogsOnly m (writeRecord r m) := by
  unfold writeRecord
  dsimp only
  split
  · rfl
  · split
    · exact (show LogsOnly m { m with errors := { m.errors with lost := true } } from rfl).trans (count_only _ _ _ _ _).logs
    · have base : LogsOnly m (count .errors 0 6 1 { m with errors := { m.errors with
          log := Sparse.set m.errors.log (m.errors.tail.toNat % 64) r, tail := m.errors.tail + 1, seq := m.errors.seq + 1 } }) :=
        (show LogsOnly m { m with errors := { m.errors with
          log := Sparse.set m.errors.log (m.errors.tail.toNat % 64) r, tail := m.errors.tail + 1,
          seq := m.errors.seq + 1 } } from rfl).trans (count_only _ _ _ _ _).logs
      split
      · split
        · exact (base.trans (edgeAll_only _ _).logs).trans (signal_logs _ _)
        · exact base.trans (signal_logs _ _)
      · split
        · exact base.trans (edgeAll_only _ _).logs
        · exact base

/-- An error that is not FATAL is logged and changes nothing else (R426). -/
theorem raiseError_logs {cls : BitVec 4} (h : cls ≠ 0xF) (d : BitVec 8) (u a i : Nat) (m : Module) :
    LogsOnly m (raiseError cls d u a i m) := by
  have key : ∀ b, LogsOnly m b → LogsOnly m (if cls = 1 && !b.errors.logCe then b
      else writeRecord (newRecord b cls d u a i) b) := by
    intro b hb
    split
    · exact hb
    · exact hb.trans (writeRecord_logs _ _)
  unfold raiseError
  rw [if_neg h]
  dsimp only
  apply key
  split
  · exact (count_only _ _ _ _ _).logs
  · exact .refl m

theorem LogsOnly.frame {m m' : Module} (h : LogsOnly m m') : m'.threads = m.threads ∧ m'.mem = m.mem ∧ m'.slices = m.slices
    ∧ m'.basins = m.basins ∧ m'.hg = m.hg ∧ m'.gate = m.gate ∧ m'.fabric = m.fabric ∧ m'.weir = m.weir
    ∧ m'.clocks = m.clocks ∧ m'.board = m.board := by
  rw [h]
  exact ⟨rfl, rfl, rfl, rfl, rfl, rfl, rfl, rfl, rfl, rfl⟩

end Sys2Proof.Machine
end

