-- ==== Sys2Proof/Laws/MemorySide.lean ====
section
/-! SUPPORT. What an access through the home slices may change, and that memory keeps its canonical form through all of it
(R264-R268, R296, R297). -/

namespace Sys2Proof.Machine

/-- What the memory side may change: threads that wait for data, slices, memory and its channels, stacks, counters, pending
sources, the error log and what the host port has sent. Memory stays canonical. -/
def MemorySide (m m' : Module) : Prop :=
  (Memory.wf m.mem = true → Memory.wf m'.mem = true)
  ∧ m' = { m with
      threads := m'.threads, slices := m'.slices, drams := m'.drams, mem := m'.mem, poison := m'.poison
      basins := m'.basins, stats := m'.stats, events := m'.events, errors := m'.errors, host := m'.host }

theorem MemorySide.refl (m : Module) : MemorySide m m := ⟨id, rfl⟩

theorem MemorySide.trans {a b c : Module} (h : MemorySide a b) (k : MemorySide b c) : MemorySide a c := by
  refine ⟨fun w => k.1 (h.1 w), ?_⟩
  have h2 := h.2
  have k2 := k.2
  rw [k2, h2]

theorem LogsOnly.side {m m' : Module} (h : LogsOnly m m') : MemorySide m m' := by
  unfold LogsOnly at h
  refine ⟨fun w => by rw [h]; exact w, by rw [h]⟩

theorem CountsOnly.side {m m' : Module} (h : CountsOnly m m') : MemorySide m m' := h.logs.side

theorem count_side (g : Stat) (n k b : Nat) (m : Module) : MemorySide m (count g n k b m) := (count_only g n k b m).side
theorem edge_side (d s : Nat) (m : Module) : MemorySide m (edge d s m) := (edge_only d s m).side
theorem setSlice_side (sl : Nat) (s : Slice) (m : Module) : MemorySide m (setSlice sl s m) := ⟨id, rfl⟩
theorem setStack_side (st : Nat) (k : Stack) (m : Module) : MemorySide m (setStack st k m) := ⟨id, rfl⟩
theorem setThread_side (t : Nat) (x : Thread) (m : Module) : MemorySide m (setThread t x m) := ⟨id, rfl⟩
theorem touchDram_side (q a : Nat) (m : Module) : MemorySide m (touchDram q a m) := ⟨id, rfl⟩
theorem readDram_side (line : Nat) (m : Module) : MemorySide m (readDram line m).2 := touchDram_side _ line m
theorem writeDram_side (line : Nat) (data : List Byte) (poison : BitVec 4) (m : Module) :
    MemorySide m (writeDram line data poison m) := ⟨fun h => writeDram_wf h line data poison, rfl⟩

/-- A change that is made only sometimes. -/
theorem MemorySide.ite {m a b : Module} {c : Prop} [Decidable c] (ha : MemorySide m a) (hb : MemorySide m b) :
    MemorySide m (if c then a else b) := by
  split
  · exact ha
  · exact hb

theorem deliver_side (t : Nat) (rd : Reg) (v : Word) (f : Option (Nat × List Byte × BitVec 4 × BitVec 2)) (m : Module) :
    MemorySide m (deliver t rd v f m) := setThread_side _ _ _

theorem deliverPoison_side (t : Nat) (rd : Reg) (d : BitVec 8) (a : Nat) (m : Module) :
    MemorySide m (deliverPoison t rd d a m) := by
  unfold deliverPoison
  dsimp only
  split
  · exact .refl m
  · exact (setThread_side _ _ _).trans (raiseError_logs (by decide) _ _ _ _ _).side

theorem snoopGather_side (line : Nat) (m : Module) : MemorySide m (snoopGather line m) := by
  unfold snoopGather
  dsimp only
  split
  · exact .refl m
  · split
    · exact .refl m
    · exact (setStack_side _ _ _).trans (count_side _ _ _ _ _)

theorem reduceLine_side (sl op addr operand : Nat) (data : List Byte) (poison : BitVec 4) (m : Module) :
    MemorySide m (reduceLine sl op addr operand data poison m).2 := by
  unfold reduceLine
  dsimp only
  split
  · exact (raiseError_logs (by decide) _ _ _ _ _).side
  · exact .ite ((count_side _ _ _ _ _).trans (count_side _ _ _ _ _)) (count_side _ _ _ _ _)

theorem serveWaiter_side (sl : Nat) (r : Request) (data : List Byte) (poison : BitVec 4) (m : Module) :
    MemorySide m (serveWaiter sl r data poison m).2 := by
  unfold serveWaiter
  dsimp only
  split
  · exact .refl m
  · exact .refl m
  · split
    · exact deliverPoison_side _ _ _ _ _
    · exact deliver_side _ _ _ _ _
  · split
    · exact deliverPoison_side _ _ _ _ _
    · exact (snoopGather_side _ _).trans (deliver_side _ _ _ _ _)
  · exact (reduceLine_side _ _ _ _ _ _ _).trans (snoopGather_side _ _)

theorem filterRead_side (sl line : Nat) (m : Module) : MemorySide m (filterRead sl line m) := by
  unfold filterRead
  dsimp only
  have h : MemorySide m (count .llc sl 7 1 (setSlice sl ((sliceAt m sl).leaveFilter line) m)) :=
    (setSlice_side _ _ _).trans (count_side _ _ _ _ _)
  exact .ite (.ite (h.trans (edge_side _ _ _)) h) (.refl m)

theorem serveStep_side (sl : Nat) (pending : Bool) (fresh : LlcLine) (l : Option LlcLine) (m : Module) (r : Request) :
    MemorySide m (serveStep sl pending fresh (l, m) r).2 := by
  have key : ∀ (l : LlcLine) (a : Module), MemorySide m a → ∀ k : LlcLine,
      MemorySide m (if !r.discards then (some k, (serveWaiter sl r l.data l.poison a).2)
        else if pending then (some k, count .llc sl 6 1 (serveWaiter sl r l.data l.poison a).2)
        else (.none, count .llc sl 5 1 (setSlice sl
          ((sliceAt (serveWaiter sl r l.data l.poison a).2 sl).enterFilter fresh.line)
          (serveWaiter sl r l.data l.poison a).2))).2 := by
    intro l a ha k
    have hz := ha.trans (serveWaiter_side sl r l.data l.poison a)
    split
    · exact hz
    · split
      · exact hz.trans (count_side _ _ _ _ _)
      · exact (hz.trans (setSlice_side _ _ _)).trans (count_side _ _ _ _ _)
  cases l with
  | some l => exact key l m (.refl m) _
  | none =>
    have hy : MemorySide m (if r.reads then filterRead sl fresh.line m
        else setSlice sl ((sliceAt m sl).leaveFilter fresh.line) m) := .ite (filterRead_side _ _ _) (setSlice_side _ _ _)
    unfold serveStep
    dsimp only
    split
    · exact hy
    · exact key fresh _ hy _

theorem serveWaiters_side (sl : Nat) (pending : Bool) (fresh : LlcLine) (rs : List Request) (x : Option LlcLine × Module) :
    MemorySide x.2 (serveWaiters sl pending fresh rs x).2.2 := by
  induction rs generalizing x with
  | nil => exact .refl _
  | cons r rs ih =>
    unfold serveWaiters
    dsimp only
    split
    · exact serveStep_side sl pending fresh x.1 x.2 r
    · exact (serveStep_side sl pending fresh x.1 x.2 r).trans (ih _)

theorem serveFill_side (sl : Nat) (fresh : LlcLine) (rs : List Request) (m : Module) :
    MemorySide m (serveFill sl fresh rs m).2 := by
  exact (serveWaiters_side sl (rs.any (·.reduces)) fresh rs (some fresh, m)).trans (setSlice_side _ _ _)

theorem freeRegister_side (st : Nat) (r : DramRequest) (m : Module) : MemorySide m (freeRegister st r m) :=
  (setStack_side _ _ _).trans (count_side _ _ _ _ _)

theorem dropRegister_side (st : Nat) (r : DramRequest) (m : Module) : MemorySide m (dropRegister st r m) :=
  .ite (freeRegister_side _ _ _) (setStack_side _ _ _)

theorem endWriteBack_side (line : Nat) (m : Module) : MemorySide m (endWriteBack line m) :=
  .ite (dropRegister_side _ _ _) (.refl m)

theorem dropEntry_side (sl line : Nat) (m : Module) : MemorySide m (dropEntry sl line m) :=
  (setSlice_side _ _ _).trans (endWriteBack_side _ _)

theorem retireEntry_side (sl line : Nat) (m : Module) : MemorySide m (retireEntry sl line m) := by
  unfold retireEntry
  dsimp only
  split
  · exact .refl m
  · exact (dropEntry_side _ _ _).trans (writeDram_side _ _ _ _)

theorem applyReduction_side (sl : Nat) (r : Request) (m : Module) : MemorySide m (applyReduction sl r m) := by
  unfold applyReduction
  dsimp only
  split
  · split
    · exact (reduceLine_side _ _ _ _ _ _ _).trans (setSlice_side _ _ _)
    · split
      · exact ((reduceLine_side _ _ _ _ _ _ _).trans (count_side _ _ _ _ _)).trans (setSlice_side _ _ _)
      · exact ((readDram_side _ _).trans (reduceLine_side _ _ _ _ _ _ _)).trans (writeDram_side _ _ _ _)
  · exact .refl m

theorem applyOldest_side (sl : Nat) (m : Module) : MemorySide m (applyOldest sl m) := by
  unfold applyOldest
  dsimp only
  split
  · exact .refl m
  · exact ((setSlice_side _ _ _).trans (applyReduction_side _ _ _)).trans (snoopGather_side _ _)

theorem applyOldestN_side (sl n : Nat) (m : Module) : MemorySide m (applyOldestN sl n m) := by
  induction n generalizing m with
  | zero => exact .refl m
  | succ n ih => exact (applyOldest_side _ _).trans (ih _)

theorem drainReds_side (sl : Nat) (m : Module) : MemorySide m (drainReds sl m) := applyOldestN_side _ _ _

theorem makeRoom_side (sl : Nat) (m : Module) : MemorySide m (makeRoom sl m) := by
  unfold makeRoom
  dsimp only
  split
  · exact drainReds_side _ _
  · split
    · exact (drainReds_side _ _).trans (retireEntry_side _ _ _)
    · exact drainReds_side _ _

theorem install_side {sl : Nat} {l : LlcLine} {m m' : Module} (h : install sl l m = some m') : MemorySide m m' := by
  unfold install at h
  dsimp only at h
  split at h
  · cases h
  · split at h
    · cases h; exact setSlice_side _ _ _
    · split at h
      · cases h
      · cases h
        exact .ite ((setSlice_side _ _ _).trans (count_side _ _ _ _ _)) (setSlice_side _ _ _)

theorem forceInstall_side {sl : Nat} {l : LlcLine} {m m' : Module} (h : forceInstall sl l m = some m') :
    MemorySide m m' := by
  unfold forceInstall at h
  dsimp only at h
  split at h
  · rename_i hi; cases h; exact install_side hi
  · have hm := makeRoom_side sl m
    split at h
    · rename_i hi; cases h; exact hm.trans (install_side hi)
    · split at h
      · cases h
      · split at h
        · cases h; exact hm
        · split at h
          · cases h; exact hm.trans (writeDram_side _ _ _ _)
          · cases h

theorem freeMiss_side (sl line : Nat) (m : Module) : MemorySide m (freeMiss sl line m) := by
  unfold freeMiss
  dsimp only
  exact (MemorySide.ite ((setSlice_side _ _ _).trans (freeRegister_side _ _ _)) (setSlice_side _ _ _)).trans
    (count_side _ _ _ _ _)

/-! ## Request registers and arrivals (R266, R278) -/

theorem askRegister_side (st : Nat) (r : DramRequest) (m : Module) : MemorySide m (askRegister st r m) := by
  unfold askRegister
  dsimp only
  split
  · exact (setStack_side _ _ _).trans (count_side _ _ _ _ _)
  · split
    · exact (setStack_side _ _ _).trans (edge_side _ _ _)
    · exact setStack_side _ _ _

theorem waitRegister_side (line key : Nat) (m : Module) : MemorySide m (waitRegister line key m) :=
  .ite (.refl m) (askRegister_side _ _ _)

theorem useRegister_side {line key : Nat} {m m' : Module} (h : useRegister line key m = some m') : MemorySide m m' := by
  unfold useRegister at h
  dsimp only at h
  split at h
  · cases h; exact .refl m
  · split at h
    · cases h; exact freeRegister_side _ _ _
    · split at h
      · cases h; exact setStack_side _ _ _
      · cases h

/-- An access under a register changes what the access itself changes, or only waits. -/
theorem withRegister_side (line key : Nat) {f : Module → Module} (hf : ∀ a, MemorySide a (f a)) (m : Module) :
    MemorySide m (withRegister line key f m) := by
  unfold withRegister
  split
  · exact .refl m
  · split
    · rename_i h; exact (useRegister_side h).trans (hf _)
    · exact waitRegister_side _ _ _

theorem takeMiss_side (sl : Nat) (r : Request) (m : Module) : MemorySide m (takeMiss sl r m) := by
  unfold takeMiss
  dsimp only
  generalize (if r.ask = .prefetch then sliceAt m sl else (sliceAt m sl).noteMiss r.ask.who (lineOf r.addr)) = s
  have h := fun s => (setSlice_side sl s m).trans (count_side .llc sl 1 1 (setSlice sl s m))
  split
  · exact (MemorySide.ite ((h _).trans (edge_side _ _ _)) (h _)).trans (askRegister_side _ _ _)
  · exact .ite ((h _).trans (edge_side _ _ _)) (h _)

theorem countIf_side (c : Prop) [Decidable c] (g : Stat) (n k : Nat) (m : Module) :
    MemorySide m (if c then count g n k 1 m else m) := .ite (count_side _ _ _ _ _) (.refl m)

theorem hitLine_side (sl : Nat) (r : Request) (l : LlcLine) (m : Module) : MemorySide m (hitLine sl r l m) := by
  have hit (a : Module) : MemorySide a (if (l.untouched && !r.joined) = true
      then count .llc sl 13 1 (if r.joined = true then a else count .llc sl 0 1 a)
      else if r.joined = true then a else count .llc sl 0 1 a) :=
    (MemorySide.ite (.refl a) (count_side .llc sl 0 1 a)).trans (countIf_side _ _ _ _ _)
  unfold hitLine
  dsimp only
  split
  · exact .refl m
  · exact (setSlice_side _ _ _).trans (countIf_side _ _ _ _ _)
  · exact (setSlice_side _ _ _).trans (hit _)
  · have hx := (hit m).trans (serveWaiter_side sl r l.data l.poison _)
    generalize serveWaiter sl r l.data l.poison (if (l.untouched && !r.joined) = true
      then count .llc sl 13 1 (if r.joined = true then m else count .llc sl 0 1 m)
      else if r.joined = true then m else count .llc sl 0 1 m) = x at hx ⊢
    split
    · exact hx.trans (setSlice_side _ _ _)
    · split
      · exact (hx.trans (setSlice_side _ _ _)).trans (count_side _ _ _ _ _)
      · exact (hx.trans (setSlice_side _ _ _)).trans (count_side _ _ _ _ _)

theorem hitEntry_side (sl : Nat) (r : Request) (e : Evicted) (m : Module) : MemorySide m (hitEntry sl r e m) := by
  unfold hitEntry
  dsimp only
  split
  · exact setSlice_side _ _ _
  · exact .refl m
  · exact .refl m
  · have hx := (count_side .llc sl 11 1 m).trans (serveWaiter_side sl r e.data e.poison _)
    split
    · exact hx.trans (setSlice_side _ _ _)
    · split
      · exact (hx.trans (setSlice_side _ _ _)).trans (count_side _ _ _ _ _)
      · exact ((hx.trans (dropEntry_side _ _ _)).trans (setSlice_side _ _ _)).trans (count_side _ _ _ _ _)

/-- A request that reaches its home slice. -/
theorem takeRequest_side (sl : Nat) (r : Request) (m : Module) : MemorySide m (takeRequest sl r m).2 := by
  unfold takeRequest
  dsimp only
  have h0 : MemorySide m (if r.reads then m else setSlice sl ((sliceAt m sl).leaveFilter (lineOf r.addr)) m) :=
    .ite (.refl m) (setSlice_side _ _ _)
  generalize (if r.reads then m else setSlice sl ((sliceAt m sl).leaveFilter (lineOf r.addr)) m) = m₀ at h0
  split
  · split
    · split
      · exact ((h0.trans (setSlice_side _ _ _)).trans (count_side _ _ _ _ _)).trans (count_side _ _ _ _ _)
      · exact (h0.trans (setSlice_side _ _ _)).trans (count_side _ _ _ _ _)
    · exact h0.trans (setSlice_side _ _ _)
  · split
    · split
      · exact h0.trans (setSlice_side _ _ _)
      · exact h0.trans (hitLine_side _ _ _ _)
    · split
      · exact h0.trans (hitEntry_side _ _ _ _)
      · have hf : MemorySide m (if r.reads then filterRead sl (lineOf r.addr) m₀ else m₀) :=
          .ite (h0.trans (filterRead_side _ _ _)) h0
        generalize (if r.reads then filterRead sl (lineOf r.addr) m₀ else m₀) = m₁ at hf
        split
        · exact (hf.trans (count_side _ _ _ _ _)).trans (setSlice_side _ _ _)
        · split
          · exact hf.trans (takeMiss_side _ _ _)
          · exact hf.trans (setSlice_side _ _ _)

theorem arrive_side (sl : Nat) (r : Request) (m : Module) : MemorySide m (arrive sl r m).2 := by
  unfold arrive
  split
  · exact setSlice_side _ _ _
  · exact takeRequest_side _ _ _

theorem waitMiss_side (who line : Nat) (read : Bool) (m : Module) : MemorySide m (waitMiss who line read m) :=
  .ite (.refl m) (arrive_side _ _ _)

/-! ## Fills and accesses served at once (R256-R268, R296) -/

/-- The data of an open miss places its line and serves its waiters (R266). -/
theorem fill_side {force : Bool} {sl line : Nat} {m m' : Module} (h : fill force sl line m = some m') : MemorySide m m' := by
  unfold fill at h
  dsimp only at h
  split at h
  · cases h
  · rename_i k _
    have hx := ((readDram_side line m).trans (freeMiss_side sl line _)).trans
      (serveFill_side sl (filled line (readDram line m).1) k.waiters _)
    split at h
    · cases h; exact hx
    · split at h
      · exact hx.trans (forceInstall_side h)
      · exact hx.trans (install_side h)

theorem settle_side {who line : Nat} {read : Bool} {m m' : Module} (h : settle who read line m = some m') :
    MemorySide m m' := by
  unfold settle at h
  dsimp only at h
  split at h
  · cases h; exact .refl m
  split at h
  · cases h
  split at h
  · cases h; exact .refl m
  split at h
  · cases h
  have h0 : MemorySide m (if (Miss.waiters ‹Miss›).any (·.placeOf who line) = true then m
      else (takeRequest (homeSlice line) { ask := .access who read, addr := line } m).2) :=
    .ite (.refl m) (takeRequest_side _ _ _)
  split at h
  · rename_i hf
    split at h
    · cases h; exact h0.trans (fill_side hf)
    · cases h
  · cases h

theorem settleFill_side {line : Nat} {m m' : Module} (h : settleFill line m = some m') : MemorySide m m' := by
  unfold settleFill at h
  dsimp only at h
  split at h
  · cases h; exact .refl m
  · split at h
    · exact fill_side h
    · cases h

theorem countHit_side (sl : Nat) (l : LlcLine) (m : Module) : MemorySide m (countHit sl l m) :=
  .ite (.refl m) ((count_side .llc sl 0 1 m).trans (countIf_side _ _ _ _ _))

/-- A read of a line through its home slice. -/
theorem llcReadBy_side {who line : Nat} {reads : Bool} {hint : BitVec 2} {m m' : Module} {d : List Byte × BitVec 4}
    (h : llcReadBy who reads line hint m = some (d, m')) : MemorySide m m' := by
  unfold llcReadBy at h
  dsimp only at h
  split at h
  · cases h
  · rename_i m₁ hs
    have hs := settle_side hs
    split at h
    · rename_i l _
      have hc := hs.trans (countHit_side (homeSlice line) l m₁)
      generalize countHit (homeSlice line) l m₁ = m₂ at h hc
      split at h
      · split at h
        · cases h; exact (hc.trans (setSlice_side _ _ _)).trans (count_side _ _ _ _ _)
        · cases h; exact (hc.trans (setSlice_side _ _ _)).trans (count_side _ _ _ _ _)
      · cases h; exact hc.trans (setSlice_side _ _ _)
    · split at h
      · have hc := hs.trans (count_side .llc (homeSlice line) 11 1 m₁)
        split at h
        · split at h
          · cases h; exact hc.trans (count_side _ _ _ _ _)
          · cases h; exact ((hc.trans (dropEntry_side _ _ _)).trans (setSlice_side _ _ _)).trans (count_side _ _ _ _ _)
        · cases h; exact hc
      · split at h
        · cases h
        · have hf : MemorySide m (if reads = true then filterRead (homeSlice line) line m₁
              else setSlice (homeSlice line) ((sliceAt m₁ (homeSlice line)).leaveFilter line) m₁) :=
            .ite (hs.trans (filterRead_side _ _ _)) (hs.trans (setSlice_side _ _ _))
          generalize (if reads = true then filterRead (homeSlice line) line m₁
            else setSlice (homeSlice line) ((sliceAt m₁ (homeSlice line)).leaveFilter line) m₁) = m₂ at h hf
          have hm := ((hf.trans (count_side .llc (homeSlice line) 1 1 m₂)).trans (setSlice_side (homeSlice line)
            ((sliceAt (count .llc (homeSlice line) 1 1 m₂) (homeSlice line)).noteMiss who line) _)).trans
            (readDram_side line _)
          split at h
          · cases h; exact (hm.trans (setSlice_side _ _ _)).trans (count_side _ _ _ _ _)
          · obtain ⟨a, ha, hb⟩ := Option.map_eq_some_iff.mp h
            cases hb
            exact hm.trans (forceInstall_side ha)

/-- A write of a line through its home slice. -/
theorem llcWrite_side {line off : Nat} {bytes : List Byte} {mask : Nat → Bool} {hint : BitVec 2} {m m' : Module}
    (h : llcWrite line off bytes mask hint m = some m') : MemorySide m m' := by
  unfold llcWrite at h
  dsimp only at h
  split at h
  · cases h
  · rename_i m₀ hs
    have hs := ((settle_side hs).trans (setSlice_side (homeSlice line)
      ((sliceAt m₀ (homeSlice line)).leaveFilter line) _)).trans (snoopGather_side line _)
    generalize snoopGather line (setSlice (homeSlice line) ((sliceAt m₀ (homeSlice line)).leaveFilter line) m₀) = m₁ at h hs
    split at h
    · cases h; exact (hs.trans (countHit_side _ _ _)).trans (setSlice_side _ _ _)
    · split at h
      · cases h; exact (hs.trans (count_side _ _ _ _ _)).trans (setSlice_side _ _ _)
      · split at h
        · cases h
        · have hm := (hs.trans (count_side .llc (homeSlice line) 1 1 m₁)).trans (setSlice_side (homeSlice line)
            ((sliceAt (count .llc (homeSlice line) 1 1 m₁) (homeSlice line)).noteMiss 0 line) _)
          generalize setSlice (homeSlice line)
            ((sliceAt (count .llc (homeSlice line) 1 1 m₁) (homeSlice line)).noteMiss 0 line)
            (count .llc (homeSlice line) 1 1 m₁) = m₂ at h hm
          have hr : ∀ b : Bool, MemorySide m (if b then ((List.replicate 128 0, 0), m₂) else readDram line m₂).2 := by
            intro b
            cases b
            · exact hm.trans (readDram_side line _)
            · exact hm
          exact (hr _).trans (forceInstall_side h)

theorem putHeld_side (line : Nat) (data : List Byte) (poison : BitVec 4) (m : Module) :
    MemorySide m (putHeld line data poison m) := by
  unfold putHeld
  dsimp only
  split
  · exact setSlice_side _ _ _
  · split
    · exact setSlice_side _ _ _
    · exact writeDram_side _ _ _ _

/-- A reduction at its home slice. -/
theorem llcReduce_side {op : BitVec 3} {addr operand : Nat} {m m' : Module} (h : llcReduce op addr operand m = some m') :
    MemorySide m m' := by
  unfold llcReduce at h
  dsimp only at h
  split at h
  · cases h
  · rename_i hr
    cases h
    exact (((llcReadBy_side hr).trans (drainReds_side _ _)).trans (applyReduction_side _ _ _)).trans (snoopGather_side _ _)

/-- An atomic at its home slice. -/
theorem llcAtomic_side {op : BitVec 4} {bytes addr operand compare : Nat} {m m' : Module} {x : Option Nat}
    (h : llcAtomic op bytes addr operand compare m = some (x, m')) : MemorySide m m' := by
  unfold llcAtomic at h
  dsimp only at h
  split at h
  · cases h
  · rename_i hr
    have h1 := (llcReadBy_side hr).trans (drainReds_side (homeSlice (lineOf addr)) _)
    split at h
    · cases h; exact h1
    · cases h; exact (h1.trans (putHeld_side _ _ _ _)).trans (snoopGather_side _ _)

/-- A line cleaned at its home slice. -/
theorem cleanLine_side {line : Nat} {m m' : Module} {b : Bool} (h : cleanLine line m = some (b, m')) : MemorySide m m' := by
  unfold cleanLine at h
  dsimp only at h
  split at h
  · cases h
  · rename_i m₀ hs
    have hs : MemorySide m (if (sliceAt m₀ (homeSlice line)).busy line then drainReds (homeSlice line) m₀ else m₀) :=
      .ite ((settleFill_side hs).trans (drainReds_side _ _)) (settleFill_side hs)
    generalize (if (sliceAt m₀ (homeSlice line)).busy line then drainReds (homeSlice line) m₀ else m₀) = m₁ at h hs
    split at h
    · cases h
    · have hr := hs.trans (retireEntry_side (homeSlice line) line m₁)
      split at h
      · cases h; exact ((hr.trans (endWriteBack_side line _)).trans (setSlice_side _ _ _)).trans (writeDram_side _ _ _ _)
      · cases h; exact hr

/-- A line written back and invalidated. -/
theorem invalidateLine_side {line : Nat} {m m' : Module} {b : Bool} (h : invalidateLine line m = some (b, m')) :
    MemorySide m m' := by
  unfold invalidateLine at h
  obtain ⟨x, hx, hb⟩ := Option.map_eq_some_iff.mp h
  cases hb
  exact (cleanLine_side hx).trans (setSlice_side _ _ _)

end Sys2Proof.Machine
end

