-- ==== Sys2Proof/Tests/Slice0.lean ====
section
/-! SUPPORT. Tests of the model: ill-formed commands are refused by their checks, words of the manual's encoding tables
decode, single steps on small states, and for each statement with hypotheses a state that meets them all. -/

namespace Sys2Proof.Tests

set_option Elab.async false

open Sys2Proof Sys2Proof.Machine

/-! ## Helpers -/

/-- `n` bytes, zero but for those listed. -/
def listed (n : Nat) (l : List (Nat × Nat)) : List Byte :=
  (List.range n).map fun i => BitVec.ofNat 8 (((l.find? fun p => p.1 == i).map (·.2)).getD 0)

/-- A module whose boot has ended, with every loop locked and the host link up. -/
def up : Module :=
  { clocks := { booting := none, step := 10, loops := (List.range 10).map fun n => (n, { bootLoop n with lock := true }) }
    board := { rails := 31, pwrOk := true }, host := { linkUp := true, select := 1 } }

/-- A state of that module. -/
def st (m : Module) : State := { m := m }

/-- A running thread at machine level with registers 1 to 5 set, whose vector unit is powered. -/
def th : Thread := { run := .running, pc := 0x1000, priv := { level := 2 }
                     g := [(1, 0x10000), (2, 7), (3, 3), (4, 64), (5, 0x20000)] }

/-- The running module with thread 0 running as `x` says. -/
def one (x : Thread) : Module := setCore 0 { vecUp := true } (setThread 0 x up)

/-! ## Ill-formed commands -/

theorem test_ring_bound : ([.sqDb 1024 0, .cqDb 1024 0, .ringEnable 1024 0, .ringDisable 1024 0, .quiesced 1024,
    .modtimerExpiry 1024] : List Instr).all (fun c => !c.wellFormed) = true := by decide
theorem test_thread_bound : ([.add 384 1 1 1, .load 384 ⟨1, 1, 0, 0, 0, 0⟩, .branch 384 1 1 0 0, .mfsr 384 1 0,
    .vadd 384 ⟨0, 1, 1, 1, 0, 0⟩, .fence 384, .timer 384] : List Instr).all (fun c => !c.wellFormed) = true := by decide
theorem test_indexed_load_reserved : (Instr.load 0 ⟨1, 2, 3, 3, 0, 1⟩).wellFormed = false := by decide
theorem test_indexed_load_s_reserved : (Instr.loadS 0 ⟨1, 2, 3, 3, 0, 1⟩).wellFormed = false := by decide
theorem test_indexed_store_reserved : (Instr.store 0 ⟨1, 2, 3, 3, 0, 1⟩).wellFormed = false := by decide
theorem test_controller_bound : ([.eventEdge 4 0, .eventEdge 0 384, .evSwset 4 0, .evPendDiscard 4 0 0,
    .evPendDiscard 0 8 0, .evClaim 4 0 none, .evClaim 0 384 none, .holdExpiry 4 0, .holdExpiry 0 384,
    .moderationBypass 4 0, .moderationBypass 0 384] : List Instr).all (fun c => !c.wellFormed) = true := by decide
theorem test_claim_reader : (Instr.evClaim 0 0 (some (384, 1))).wellFormed = false := by decide
theorem test_vld_mode3 : (Instr.vld 0 ⟨1, 1, 0, 2, 0, 3, 0, 0, 0⟩).wellFormed = false := by decide
theorem test_vld_ix_without_index : (Instr.vld 0 ⟨1, 1, 0, 2, 0, 0, 1, 0, 0⟩).wellFormed = false := by decide
theorem test_vld_unit_x : (Instr.vld 0 ⟨1, 1, 2, 2, 0, 0, 0, 0, 0⟩).wellFormed = false := by decide
theorem test_vld_onto_index : (Instr.vld 0 ⟨3, 1, 3, 2, 0, 2, 0, 0, 0⟩).wellFormed = false := by decide
theorem test_vld_onto_mask : (Instr.vld 0 ⟨0, 1, 0, 2, 1, 0, 0, 0, 0⟩).wellFormed = false := by decide
theorem test_vst_mode3 : (Instr.vst 0 ⟨1, 1, 0, 2, 0, 3, 0, 0, 0⟩).wellFormed = false := by decide
theorem test_no_scalar_form : ([.vceq 0 ⟨1, 1, 1, 1, 0, 0⟩, .vcfun 0 ⟨1, 1, 1, 1, 4, 0⟩, .vrsum 0 ⟨1, 1, 1, 0, 0, 0⟩,
    .vmv 0 ⟨1, 1, 1, 0, 0, 0⟩, .vrng 0 ⟨1, 1, 0, 0, 0, 0⟩, .vmlow 0 ⟨1, 1, 1, 0, 0, 0⟩] : List Instr).all
    (fun c => !c.wellFormed) = true := by decide
theorem test_core_bound : ([.vectorPowerDown 192, .vectorWake 192] : List Instr).all (fun c => !c.wellFormed) = true := by
  decide
theorem test_fence_one_operand : ([.fenceWb 0 1 0, .fenceInv 0 1 0] : List Instr).all (fun c => !c.wellFormed) = true := by
  decide
theorem test_vred_hint : (Instr.vredInt32Add 0 ⟨1, 1, 0, 2, 0, 0, 0, 0, 1⟩).wellFormed = false := by decide
theorem test_slice_bound : ([.reductionApply 64, .llcFill 64 0, .wayPowerDown 64 0, .waySequenceComplete 64] :
    List Instr).all (fun c => !c.wellFormed) = true := by decide
theorem test_line_aligned : ([.llcFill 0 1, .evictionWriteBack 0 64, .writeBackAcknowledge 0 127, .llcPrefetch 0 1,
    .l1Prefetch 0 1, .patrolScrub 1] : List Instr).all (fun c => !c.wellFormed) = true := by decide
theorem test_channel_bound : ([.refresh 320 0, .wckDriftCheck 320 true, .retrainComplete 320 true, .selfRefreshEntry 320] :
    List Instr).all (fun c => !c.wellFormed) = true := by decide
theorem test_stack_bound : ([.jobStart 8, .chunkComplete 8 0, .chunkComplete 0 32, .convert 0 32, .gather 8 0,
    .hazeSampleComplete 8 0] : List Instr).all (fun c => !c.wellFormed) = true := by decide
theorem test_arbiter_bound : ([.aging 324, .quotaWindowWrap 324, .commitApply 324] : List Instr).all
    (fun c => !c.wellFormed) = true := by decide
theorem test_poster_bound : ([.gpFold (some 384) 0, .hzOffer (some 384) 0, .wpPost (some 384) 0, .wpReturn (some 384) 0] :
    List Instr).all (fun c => !c.wellFormed) = true := by decide
theorem test_port_bound : ([.portTrainingEntry 4 0, .portTrainingEntry 0 4, .alignComplete 4 0, .nak 4 0 [], .nak 0 4 [],
    .resendTimeout 4] : List Instr).all (fun c => !c.wellFormed) = true := by decide
theorem test_bank_bound : ([.gateTimeout 2, .gateCommit 2] : List Instr).all (fun c => !c.wellFormed) = true := by decide
theorem test_clock_bound : ([.dividerStep 10, .loopRelock 10, .sourceFail 4, .sourceRecovery 4, .ckEnWrite 6 0,
    .gatedTouch 384] : List Instr).all (fun c => !c.wellFormed) = true := by decide
theorem test_die_bound : ([.thermalReading 14 0, .computeDieTemperature 4, .ioDieTemperature 2] : List Instr).all
    (fun c => !c.wellFormed) = true := by decide

/-! ## Words written out from the encoding tables -/

theorem test_word_add : decodeWords 0 0b000001_00011_00001_00010_00000000000#32 0 = some (.add 0 3 1 2) := by decide
theorem test_word_add_reserved : decodeWords 0 0b000001_00011_00001_00010_00000_100000#32 0 = none := by decide
theorem test_word_addi : decodeWords 0 0b000100_00101_00100_1111111111111111#32 0 = some (.addi 0 5 4 0xFFFF) := by decide
theorem test_word_ld : decodeWords 0 0b010000_00111_00010_00_11_00_0000000010#32 0 =
    some (.load 0 { rd := 7, rb := 2, mode := 0, size := 3, hint := 0, disp := 2 }) := by decide
theorem test_word_branch : decodeWords 0 0b011000_00001_00010_000_0000000000010#32 0 = some (.branch 0 1 2 0 2) := by decide
theorem test_word_loopi : decodeWords 0 0b011110_01_000000000101_000000000011#32 0 = some (.loopi 0 1 5 3) := by decide
theorem test_word_mfsr : decodeWords 0 0b100000_01001_00000_0100_000000100000#32 0 = some (.mfsr 0 9 0x020) := by decide
theorem test_word_aadd : decodeWords 0 0b010100_00001_00010_00011_11_0001_00000#32 0 = some (.aadd 0 1 2 3 1) := by decide
theorem test_word_vadd : decodeWords 0 0b100011_00011_00001_00010_010_0_0000000#32 0 =
    some (.vadd 0 { scalar := 0, vd := 3, vs1 := 1, src2 := 2, ty := 2, m := 0 }) := by decide
theorem test_word_major0 : decodeWords 0 0x03FFFFFF 0 = none := by decide

/-! ## Small states the witnesses use -/

/-- A pool entry of ring 0 that holds a descriptor of one slot: opcode `op`, revision 1, and the bytes listed. -/
def desc (op : Nat) (l : List (Nat × Nat)) : Entry :=
  { id := 0, ring := 0, index := 0, bytes := listed 64 ((0, op) :: (1, 0x10) :: l) }

/-- The running module with these entries in the pool. -/
def withPool (l : List Entry) : Module := { up with hg := { pool := l, nextId := l.length } }

/-- An enabled ring of 16 slots and 16 records. -/
def ring : Ring := { enable := true, quiesced := false, sqLog := 4, cqLog := 4 }

/-- The running module with ring 0 as `x` says. -/
def withRing (x : Ring) : Module := setRing 0 x up

/-- An entry that does the work `w` on what descriptor `e` says. -/
def doing (e : Entry) (w : Work) : Entry := { e with stage := .admitted, work := w }

theorem noAborts_up : NoAborts up := by intro e he; exact absurd he (by simp [up])

/-- An access that answers and leaves thread `t` as it was. -/
def answers {α : Type} (f : Acc α) (m : Module) (t : Nat) : Bool :=
  match f.go m with
  | (.ok _, m₁) => decide (threadAt m₁ t = threadAt m t)
  | _ => false

theorem answers_spec {α : Type} {f : Acc α} {m : Module} {t : Nat} (h : answers f m t = true) :
    ∃ a m₁, f.go m = (.ok a, m₁) ∧ threadAt m₁ t = threadAt m t := by
  unfold answers at h
  split at h
  · rename_i a m₁ e
    exact ⟨a, m₁, e, of_decide_eq_true h⟩
  · cases h

/-- An access that answers something which, with what it leaves, is as `p` says. -/
def gives {α : Type} (f : Acc α) (m : Module) (p : α → Module → Bool) : Bool :=
  match f.go m with
  | (.ok a, m₁) => p a m₁
  | _ => false

theorem gives_spec {α : Type} {f : Acc α} {m : Module} {p : α → Module → Bool} (h : gives f m p = true) :
    ∃ a m₁, f.go m = (.ok a, m₁) ∧ p a m₁ = true := by
  unfold gives at h
  split at h
  · rename_i a m₁ e
    exact ⟨a, m₁, e, h⟩
  · cases h

/-- An access that answers `b` and changes nothing. -/
def quiet {α : Type} [DecidableEq α] (f : Acc α) (b : α) (m : Module) : Bool :=
  match f.go m with
  | (.ok a, m₁) => decide (a = b ∧ m₁ = m)
  | _ => false

theorem quiet_spec {α : Type} [DecidableEq α] {f : Acc α} {b : α} {m : Module} (h : quiet f b m = true) :
    f.go m = (.ok b, m) := by
  unfold quiet at h
  split at h
  · rename_i a m₁ e
    obtain ⟨rfl, rfl⟩ := of_decide_eq_true h
    exact e
  · cases h

/-- Thread 0 in state `x`, on a core whose translation cache maps the first 2^40 bytes to themselves with rights `p`. -/
def mapped (p : BitVec 4) (x : Thread) : Module :=
  setCore 0 { vecUp := true, tlb := [{ asid := 0, va := 0, log := 40, pa := 0, perms := p }] } (setThread 0 x up)

theorem test_word_vld : decodeWords 0 0b100001_00010_00001_00011_10_1_10_1_1_01_00#32 0 =
    some (.vld 0 { v := 2, rb := 1, x := 3, size := 2, m := 1, mode := 2, ix := 1, sc := 1, hint := 1 }) := by decide
theorem test_word_red : decodeWords 0 0b010101_00000_00001_00010_011_00000000#32 0 = some (.redInt32Max 0 1 2) := by decide
theorem test_word_fence_inv : decodeWords 0 0b010011_00000_00001_00010_00000000010#32 0 = some (.fenceInv 0 1 2) := by decide
theorem test_word_vcvt : decodeWords 0 0b101000_00010_00001_00000_0001_0100_000#32 0 =
    some (.vcvt 0 { vd := 2, vs1 := 1, vs2 := 0, src := 1, dst := 4 }) := by decide
theorem test_word_setvc : decodeWords 0 0b101111_00010_00001_00000_11_000000000#32 0 = some (.setvc 0 2 1 3) := by decide
theorem test_word_tmma : decodeWords 0 0b111111_0000_11111_01111_0111111_0001_1#32
    0b0010_11_101_001_010_011_100_1111_0000000#32 = some (.tmma 0 ⟨31, 15, 63, 1, 1, 2, 3, 5, 1, 2, 3, 4, 15⟩) := by decide
theorem test_word_tld : decodeWords 0 0b111111_0001_00010_00011_1001_10_1_0001_0#32
    0b00111_0011111_01_000000000000000000#32 = some (.tld 0 ⟨2, 3, 9, 2, 1, 1, 7, 31, 1⟩) := by decide
theorem test_word_taccs : decodeWords 0 0b111111_0110_00010_00011_01_10_0001_0000#32
    0b00111_00100_0000_00_10_1_0000000000000#32 = some (.taccs 0 ⟨2, 3, 1, 2, 1, 7, 4, 0, 0, 2, 1⟩) := by decide

/-! ## Queue, reset and the host port -/

theorem test_reset_idles : (match step State.reset with
    | .next s => s.m.time == 0 || s.m.time == 1
    | _ => false) = true := by decide +kernel
theorem witness_StepRunsFrontCommand : (st up).pending = [] ∧ (loopAt up 9).phase = .none := by decide +kernel
theorem witness_StepRunsFrontCommand_switching :
    (loopAt { up with clocks := { loops := [(9, { phase := .relock })] } } 9).phase ≠ .none := by decide +kernel
theorem witness_StepKeepsAuthRules : AuthRules State.reset := by
  intro i hi
  have : i = 0 ∨ i = 1 ∨ i = 2 ∨ i = 3 := by omega
  rcases this with h | h | h | h <;> subst h <;> unfold SlotRules <;> decide +kernel
theorem witness_CounterNeverFalls : (∀ p, Instr.headgateStall ≠ .keyLoad p) ∧ (∀ p, Instr.headgateStall ≠ .keyRetire p)
    ∧ exec .headgateStall State.reset = .next State.reset := ⟨by simp, by simp, by rfl⟩
theorem witness_PowerOnRestoresCounters :
    let s := st { up with clocks := { booting := some (.powerOn, 8) } }
    s.m.clocks.booting = some (.powerOn, 8) ∧ bootRuns s.m 8 = true := by decide +kernel
theorem witness_WordsDecodeToTheirInstruction : (Instr.add 383 31 31 31).wellFormed = true
    ∧ (wordsOf (.add 383 31 31 31)).isSome = true := by decide

/-- A doorbell may fill the ring and no more, and may not move back. -/
theorem witness_DoorbellMovesPointerOrHalts_tail :
    tailAllowed { ring with sqTail := 3 } 16 = true ∧ tailAllowed { ring with sqTail := 3 } 3 = true
      ∧ tailAllowed { ring with sqTail := 3 } 17 = false ∧ tailAllowed { ring with sqTail := 3 } 2 = false
      ∧ tailAllowed ring 32 = false ∧ tailAllowed { ring with halted := true } 1 = false := by decide
theorem witness_DoorbellMovesPointerOrHalts_head :
    headAllowed 4 30 2 2 = true ∧ headAllowed 4 30 2 30 = true ∧ headAllowed 4 30 2 3 = false
      ∧ headAllowed 4 30 2 32 = false := by decide
theorem test_sq_db : (match exec (.sqDb 1 0xFFFE0003#32) (st (setRing 1 ring up)) with
    | .next s => (ringAt s.m 1).sqTail == 3 && (ringAt s.m 1).halted == false
    | _ => false) = true := by decide +kernel
theorem test_sq_db_bad : (match exec (.sqDb 1 17) (st (setRing 1 ring up)) with
    | .next s => (ringAt s.m 1).sqTail == 0 && (ringAt s.m 1).halted && (ringAt s.m 1).dbErr
    | _ => false) = true := by decide +kernel
theorem witness_RingControlFollowsItsConditions_enable :
    let x : Ring := { cqLog := 16 }
    x.enable = false ∧ (withRing x).host.select ≠ 0 ∧ 4 ≤ x.cqLog.toNat ∧ x.cqLog.toNat ≤ 16 ∧ x.quiesced = true := by
  decide +kernel
theorem witness_RingControlFollowsItsConditions_disable : (ringAt (withRing ring) 0).enable = true := by decide +kernel
theorem witness_RingControlFollowsItsConditions_quiesced :
    (ringAt (withRing { ring with enable := false }) 0).enable = false
      ∧ (ringAt (withRing { ring with enable := false }) 0).owed = 0 := by decide +kernel
theorem witness_RingControlFollowsItsConditions_select : (BitVec.ofNat 4 1 = up.host.select)
    ∧ ((0 : BitVec 4) ≠ up.host.select ∧ ∀ p ∈ up.host.rings, p.2.enable = false)
    ∧ ((2 : BitVec 4) ≠ 0 ∧ (2 : BitVec 4) ≠ 1)
    ∧ (∃ p ∈ (withRing ring).host.rings, p.2.enable = true) := by
  refine ⟨by decide +kernel, by decide +kernel, by decide, ⟨(0, ring), by decide +kernel, rfl⟩⟩
theorem test_ring_enable_log : (match exec (.ringEnable 0 0x03000000#32) (st (withRing { cqLog := 4 })) with
    | .next s => (ringAt s.m 0).enReject && (ringAt s.m 0).enable == false
    | _ => false) = true := by decide +kernel
theorem witness_FetchTakesTheNextDescriptor :
    let m := withRing { ring with sqTail := 1 }
    nextRing m = some 0 ∧ fetchable m (ringAt m 0) = true ∧ (ringAt m 0).half = none
      ∧ (listed 64 [(1, 0x10)]).length = 64 ∧ critical (byteAt (listed 64 [(1, 0x10)]) 0) = false
      ∧ ∀ e ∈ m.hg.pool, abortRun e = none := by decide +kernel
theorem witness_FetchTakesTheNextDescriptor_timer :
    let m := { withRing { ring with modPending := 1, modTimer := 5 } with time := 5000 }
    (ringAt m 0).modPending ≠ 0 ∧ (ringAt m 0).modTimer ≠ 0
      ∧ 1000 * (ringAt m 0).modTimer.toNat ≤ (m.time - (ringAt m 0).firstTime).toNat := by decide +kernel

/-- A no-op whose place is in the pool. -/
def noopState (b : List (Nat × Nat)) : Module := { withPool [desc 0 b] with host := (withRing ring).host }

theorem witness_RetirementWritesItsRecord :
    Sound (noopState []) 0 0 (desc 0 []) ∧ NoAborts (noopState []) ∧ (msixOf (noopState []) 0).control.getLsbD 0 = true := by
  unfold Sound NoAborts; decide +kernel
theorem witness_RetirementWritesItsRecord_noirq :
    let e := desc 0 [(1, 0x11)]
    noirq { e with bytes := listed 64 [(1, 0x11)] } = true := by decide +kernel
theorem test_noop_record : (match exec (.noop 0) (st (noopState [(4, 0x5A)])) with
    | .next s => byteAt (getHost s.m 0 32) 4 == 0x5A && byteAt (getHost s.m 0 32) 3 == 1 && s.m.hg.pool.isEmpty
    | _ => false) = true := by decide +kernel
theorem witness_FailedDescriptorsRetire :
    let f (op : Nat) (off : Nat) : Bool :=
      let e := desc op [(off, 0xFF)]
      decodable (withPool [e]) 0 (· == op) == some e && (descriptorCheck (withPool [e]) e).isSome
    (f 0 8 && f 2 40 && f 5 11 && f 6 47 && f 7 9) = true := by decide +kernel
theorem witness_TokenDescriptorsActOnTheirRange :
    let e (k : Nat) : Entry := desc 4 [(8, 0xFF), (9, 0x0F), (10, 1), (12, k)]
    Sound (withPool [e 0]) 0 4 (e 0) ∧ Sound (withPool [e 1]) 0 4 (e 1) := by unfold Sound; decide +kernel
theorem test_token_set : (match exec (.tokenSet 0) (st (withPool [desc 4 [(8, 0xFF), (9, 0x0F), (10, 1), (12, 1)]])) with
    | .next s => s.m.hg.tokens == 1#4096 <<< 4095
    | _ => false) = true := by decide +kernel

theorem witness_OrdinaryDescriptorsAct_copy :
    let e := desc 2 [(9, 1), (17, 2), (24, 1)]
    Sound (withPool [e]) 0 2 e ∧ entryAt (withPool [e]) 0 = some e ∧ e.work = .idle := by unfold Sound; decide +kernel
theorem witness_OrdinaryDescriptorsAct_copying :
    let r : CopyRun := { done := 1 }
    let e := doing (desc 2 [(24, 1)]) (.copy r)
    entryAt (withPool [e]) 0 = some e ∧ working (withPool [e]) = true ∧ r.done = copyLen e ∧ r.waiting = false
      ∧ r.ending = none ∧ writesOpen (withPool [e]) 0 = false := by decide +kernel
theorem witness_OrdinaryDescriptorsAct_abort :
    let e := desc 5 [(8, 1)]
    Sound (withPool [e]) 0 5 e := by unfold Sound; decide +kernel
theorem witness_OrdinaryDescriptorsAct_aborting :
    let e (f : Bool) : Entry := doing (desc 5 [(8, 1)]) (.abort { found := f })
    working (withPool [e true]) = true ∧ entryAt (withPool [e true]) 0 = some (e true)
      ∧ entryAt (withPool [e false]) 0 = some (e false) := by decide +kernel
theorem witness_OrdinaryDescriptorsAct_haze :
    let e := desc 6 [(40, 1)]
    let m := withPool [e]
    Sound m 0 6 e ∧ bankFree m.gate.bank0 = true ∧ bankFree m.gate.bank1 = true ∧ stashBusy m = false
      ∧ bankFree { state := .opened } = false := by unfold Sound; decide +kernel
theorem witness_OrdinaryDescriptorsAct_weir :
    let e := desc 7 [(8, 5)]
    let m := withPool [e]
    Sound m 0 7 e ∧ expertBusy m 5 = false ∧ expertBusy { m with weir := { experts := [(5, { ends := 1 })] } } 5 = true := by
  unfold Sound; decide +kernel

/-- A copy of four bytes from 0x400000008 to 0x400000084, with both lines in the LLC. -/
def copyEntry (r : CopyRun) : Entry := doing (desc 2 [(8, 8), (12, 4), (16, 0x84), (20, 4), (24, 4)]) (.copy r)
def heldAt (line : Nat) : LlcLine := { line := line, way := 0, data := (List.range 128).map fun i => BitVec.ofNat 8 i }
def copyState (r : CopyRun) : Module :=
  let m := setSlice (homeSlice 0x400000000) { lines := [heldAt 0x400000000] } (withPool [copyEntry r])
  setSlice (homeSlice 0x400000080) { lines := [heldAt 0x400000080] }
    { m with tlbs := [(copyUnit (copyEntry r), [{ asid := 0, va := 0, log := 40, pa := 0, perms := 0xF }])] }
/-- The bytes of the copy's piece, read in state `m`. -/
def copyRead (r : CopyRun) (m : Module) : Option (List Byte × Module) :=
  match (copyBytes (copyEntry r) r).go m with
  | (.ok bytes, m₁) =>
    if bytes.length = 4 ∧ m₁.hg = m.hg ∧ m₁.fabric = m.fabric
        ∧ quiet (resolve (copyAgent (copyEntry r)) .write 0x400000084) (.mem 0x400000084) m₁ = true
        ∧ (sliceAt m₁ (homeSlice 0x400000080)).find 0x400000080 = some (heldAt 0x400000080)
        ∧ (sliceAt m₁ (homeSlice 0x400000080)).miss 0x400000080 = none ∧ (sliceAt m₁ (homeSlice 0x400000080)).queue = []
    then some (bytes, m₁) else none
  | _ => none
theorem copyRead_spec {r : CopyRun} {m : Module} (h : (copyRead r m).isSome = true) : ∃ bytes m₁,
    (copyBytes (copyEntry r) r).go m = (.ok bytes, m₁) ∧ bytes.length = 4 ∧ m₁.hg = m.hg ∧ m₁.fabric = m.fabric
      ∧ (resolve (copyAgent (copyEntry r)) .write 0x400000084).go m₁ = (.ok (.mem 0x400000084), m₁)
      ∧ LineStands m₁ 0x400000080 (heldAt 0x400000080) := by
  unfold copyRead at h
  split at h
  · rename_i bytes m₁ e
    split at h
    · rename_i x
      obtain ⟨h1, h2, h3, h4, h5, h6, h7⟩ := x
      exact ⟨bytes, m₁, e, h1, h2, h3, quiet_spec h4, h5, rfl, h6, by rw [h7]; intro q hq; cases hq⟩
    · cases h
  · cases h
theorem witness_OrdinaryDescriptorsAct_piece :
    ∀ r ∈ [({} : CopyRun), { snapshot := some [9, 8, 7, 6], tag := true }],
      let e := copyEntry r
      let m := copyState r
      (entryAt m 0 = some e ∧ e.work = .copy r ∧ working m = true ∧ r.waiting = false ∧ r.ending = none ∧ r.sent = 0
        ∧ writesOpen m 0 = false ∧ r.done < copyLen e ∧ (r.tag = true ∨ dmaTagsInUse m (e.ring % 2 == 1) < 4096)
        ∧ overlapsUp e = false ∧ r.done + copyPiece e r.done = copyLen e
        ∧ quiet (resolve (copyAgent e) .read 0x400000008) (.mem 0x400000008) m = true ∧ copyPiece e r.done = 4)
      ∧ ∃ bytes m₁, (copyBytes e r).go m = (.ok bytes, m₁) ∧ bytes.length = 4 ∧ m₁.hg = m.hg
        ∧ m₁.fabric = m.fabric ∧ (resolve (copyAgent e) .write 0x400000084).go m₁ = (.ok (.mem 0x400000084), m₁)
        ∧ LineStands m₁ 0x400000080 (heldAt 0x400000080) := by
  intro r hr
  have hs : ∀ r ∈ [({} : CopyRun), { snapshot := some [9, 8, 7, 6], tag := true }], (copyRead r (copyState r)).isSome = true := by
    decide +kernel
  exact ⟨by revert r; decide +kernel, copyRead_spec (hs r hr)⟩
theorem test_copy_piece : (match exec (.copy 0) (st (copyState {})) with
    | .next s => ((heldLine 0x400000080 s.m).1.drop 3).take 6 == [3, 8, 9, 10, 11, 8]
        && (s.m.hg.pool.map (·.work)) == [.copy { done := 4 }]
    | _ => false) = true := by decide +kernel
/-- A copy onto the byte after its source reads all of it first. -/
theorem witness_OrdinaryDescriptorsAct_overlap :
    let e : Entry := doing (desc 2 [(8, 8), (12, 4), (16, 9), (20, 4), (24, 4)]) (.copy {})
    let m : Module := { copyState {} with hg := { pool := [e] } }
    entryAt m 0 = some e ∧ overlapsUp e = true ∧ copyLen e ≠ 0 ∧ writesOpen m 0 = false ∧ dmaTagsInUse m false < 4096
      ∧ (match (agentRead (copyAgent e) (.line (.entry 0)) (copySrc e) (copyLen e)).go m with
        | (.ok bytes, _) => bytes == [8, 9, 10, 11]
        | _ => false) = true := by decide +kernel
/-- A queued job whose record lies behind a table entry that the LLC still fetches. -/
theorem witness_OrdinaryDescriptorsAct_unknown :
    let e := desc 6 [(40, 1)]
    let job : Job := { id := 0, addr := 0x8000, thread := 0, task := 0, asid := 0, tag := 0, ring := 0, level := 1 }
    let root := 0x400001000
    let m : Module := setSlice (homeSlice root) { queue := [{ ask := .load 0 6 8 false, addr := root }] }
      (setStack 0 { jobs := [job], nextId := 1 }
        { withPool [e] with host := { (withPool [e]).host with mmuAsid := [(0, 0x400001001)] } })
    Sound m 0 6 e ∧ bankFree m.gate.bank0 = true ∧ bankFree m.gate.bank1 = true ∧ stashBusy m = false
      ∧ stashUnknown m = true := by unfold Sound; decide +kernel
/-- Ended work retires in the next cycle, as an abort that named it meanwhile says. -/
theorem witness_RetirementWritesItsRecord_failed :
    let e := desc 0 [(8, 0xFF)]
    failureOf (withPool [e]) e = some (0x42, 8) ∧ e.work = .idle ∧ entryAt (withPool [e]) 0 = some e
      ∧ decodable (withPool [e]) 0 (· == 0) = some e := by decide +kernel
/-! ## Critical commands -/

/-- A key slot as slot 0 is shipped, with its counter at zero. -/
def slot : KeySlot := { shippedSlot with last := 0 }

/-- Sixteen bytes. -/
def Block (b : Crypto.Bytes) : Prop := b.length = 16 ∧ ∀ x ∈ b, x < 256

theorem last_round_block (s k : List Nat) (hk : Block k) :
    Block (Crypto.xorBytes (Crypto.shiftRows (s.map Crypto.sbox)) k) := by
  have hs : ∀ x ∈ Crypto.shiftRows (s.map Crypto.sbox), x < 2 ^ 8 := by
    intro x hx
    simp only [Crypto.shiftRows, List.mem_map, List.getD_eq_getElem?_getD, List.getElem?_map] at hx
    obtain ⟨i, _, rfl⟩ := hx
    generalize s[(i + 4 * (i % 4)) % 16]? = o
    cases o with
    | none => decide
    | some a => exact Nat.mod_lt _ (by decide)
  have hl : (Crypto.shiftRows (s.map Crypto.sbox)).length = 16 := by simp [Crypto.shiftRows]
  generalize Crypto.shiftRows (s.map Crypto.sbox) = a at hs hl
  refine ⟨by simp [Crypto.xorBytes, hl, hk.1], ?_⟩
  intro x hx
  simp only [Crypto.xorBytes, List.mem_iff_getElem, List.getElem_zipWith] at hx
  obtain ⟨i, hi, rfl⟩ := hx
  exact Nat.xor_lt_two_pow (n := 8) (hs _ (List.getElem_mem _)) (hk.2 _ (List.getElem_mem _))

theorem encrypt_block (blk : Crypto.Bytes) : Block (Crypto.encrypt slot.bytes blk) :=
  last_round_block _ _ (by unfold Block; decide +kernel)

theorem cmac_block (msg : Crypto.Bytes) : Block (Crypto.cmac slot.bytes msg) := by
  have chain : ∀ (n : Nat) (k1 k2 x msg : Crypto.Bytes), Block x → Block (Crypto.cmacChain slot.bytes k1 k2 n x msg) := by
    intro n k1 k2
    induction n with
    | zero => intro x msg h; exact h
    | succ n ih =>
      intro x msg h
      unfold Crypto.cmacChain
      split
      · exact encrypt_block _
      · exact ih _ _ (encrypt_block _)
  exact chain _ _ _ _ _ (by unfold Block; decide)

/-- A critical descriptor whose first 112 bytes are `body`, signed with the key of `slot`. -/
def signed (body : List Byte) : Entry :=
  { id := 0, ring := 0, index := 0, bytes := body ++ (macWithUid slot 0 (body.map (·.toNat))).map (BitVec.ofNat 8) }

/-- The critical descriptor of opcode `op` with counter 1 and the bytes listed, signed. -/
def crit (op : Nat) (l : List (Nat × Nat)) : Entry := signed (listed 112 ((0, op) :: (1, 0x10) :: (16, 1) :: l))

theorem listed_length (n : Nat) (l : List (Nat × Nat)) : (listed n l).length = n := by simp [listed]

/-- Sixteen bytes read back from a record. -/
theorem natBytes_block (pre post : List Byte) (t : Crypto.Bytes) (ht : Block t) :
    natBytes (pre ++ (t.map (BitVec.ofNat 8) ++ post)) pre.length 16 = t := by
  simp only [natBytes, List.drop_left]
  rw [List.take_left' (by simp [ht.1]), List.map_map]
  refine (List.map_congr_left ?_).trans (List.map_id t)
  intro x hx
  simpa using ht.2 x hx

theorem signed_body (body : List Byte) (h : body.length = 112) : natBytes (signed body).bytes 0 112 = body.map (·.toNat) := by
  simp [natBytes, signed, h]

/-- What is signed verifies. -/
theorem signed_verifies (body : List Byte) (h : body.length = 112) : macVerifies slot 0 (signed body) = true := by
  have h2 := natBytes_block body [] _ (cmac_block (Crypto.le8 0 ++ body.map (·.toNat)))
  rw [h, List.append_nil] at h2
  unfold macVerifies
  rw [signed_body body h]
  exact beq_iff_eq.mpr h2.symm

/-- The running module with critical descriptor `e` in its pool, and `slot` in slots 0 and 1. -/
def critState (e : Entry) : State := { auth := { slot0 := slot, slot1 := slot }, m := withPool [e] }

/-- The one entry of a pool has its turn. -/
theorem inTurn_alone {m : Module} {e : Entry} (hp : m.hg.pool = [e]) (ha : m.hg.actedRings = []) (hs : m.squall.skip = 0) :
    inTurn m e = true := by
  have hn : ((admissionOrder m).takeWhile fun x => x.id != e.id) = [] := by
    cases h : (admissionOrder m).takeWhile fun x => x.id != e.id with
    | nil => rfl
    | cons x l =>
      have hx : x ∈ (admissionOrder m).takeWhile fun x => x.id != e.id := by rw [h]; exact List.mem_cons_self
      have hi := List.all_eq_true.mp (List.all_takeWhile (p := fun x : Entry => x.id != e.id)) x hx
      have hm := (List.takeWhile_sublist _).subset hx
      simp [admissionOrder, hp] at hm
      rcases hm with h | h | h | h <;> simp [h.1] at hi
  unfold inTurn itsTurn
  rw [hn]
  split <;> simp [hp, ha, hs]

theorem decodes_alone {m : Module} {e : Entry} {f : Nat → Bool} (hp : m.hg.pool = [e]) (ha : m.hg.actedRings = [])
    (hs : m.squall.skip = 0) (hw : working m = true) (h : e.id = 0) (hu : unadmitted e = true) (hf : f (opcodeOf e) = true) :
    decodable m 0 f = some e := by
  have h1 : entryAt m 0 = some e := by simp [entryAt, hp, h]
  have h2 : fenceOpen m e = true := by simp [fenceOpen, hp, h]
  simp [decodable, h1, h2, hw, inTurn_alone hp ha hs, hu, hf]

theorem decodes_pool (e : Entry) (f : Nat → Bool) (h : e.id = 0) (hu : unadmitted e = true) (hf : f (opcodeOf e) = true) :
    decodable (withPool [e]) 0 f = some e := decodes_alone rfl rfl rfl rfl h hu hf

theorem crit_decodes (e : Entry) (a : Auth) (c : Instr) (op : Nat) (sub : Entry → Bool)
    (hc : criticalRow c = some (0, op, sub)) (hid : e.id = 0) (hu : unadmitted e = true) (ho : (opcodeOf e == op) = true)
    (hs : sub e = true) (he : failureOf (withPool [e]) e = none) : Decodes { critState e with auth := a } c e :=
  ⟨0, op, sub, hc, decodes_pool _ _ hid hu ho, hs, he⟩

theorem crit_authentic (body : List Byte) (h : body.length = 112)
    (hk : keySlotOf (signed body) = 0 ∧ counterOf (signed body) = 1 ∧ asidOf (signed body) = 0
      ∧ permits slot (opcodeOf (signed body)) = true) : Authentic (critState (signed body)) (signed body) := by
  have ha : authoriser (critState (signed body)) (signed body) = slot := by unfold authoriser; rw [hk.1]; rfl
  refine ⟨?_, by rw [ha]; exact hk.2.2.2, hk.2.2.1⟩
  rw [ha]
  have hl : slot.active = true := by decide
  have hc : ¬ counterOf (signed body) ≤ slot.last := by rw [hk.2.1]; decide
  have hv : macVerifies slot (critState (signed body)).m.board.uid (signed body) = true := signed_verifies body h
  unfold keyChecks
  rw [hl, hv]
  simp [hc]

theorem witness_AuthenticatorChecksInOrder_slot : Decodes { critState (crit 0x83 []) with auth := {} } (.thaw 0) (crit 0x83 [])
    ∧ (authoriser { critState (crit 0x83 []) with auth := {} } (crit 0x83 [])).active = false :=
  ⟨crit_decodes _ _ _ _ _ rfl rfl rfl (by decide +kernel) (by decide +kernel) (by decide +kernel), by decide +kernel⟩
theorem witness_AuthenticatorChecksInOrder_counter :
    let s : State := { critState (crit 0x83 []) with auth := { slot0 := { slot with last := 1 } } }
    Decodes s (.thaw 0) (crit 0x83 []) ∧ (authoriser s (crit 0x83 [])).active = true
      ∧ counterOf (crit 0x83 []) ≤ (authoriser s (crit 0x83 [])).last :=
  ⟨crit_decodes _ _ _ _ _ rfl rfl rfl (by decide +kernel) (by decide +kernel) (by decide +kernel), by decide +kernel, by decide +kernel⟩
theorem witness_AuthenticatorChecksInOrder_permission :
    let s : State := { critState (crit 0x83 []) with auth := { slot0 := { slot with perms := 0x77 } } }
    Decodes s (.thaw 0) (crit 0x83 []) ∧ (authoriser s (crit 0x83 [])).active = true
      ∧ (authoriser s (crit 0x83 [])).last < counterOf (crit 0x83 [])
      ∧ macVerifies (authoriser s (crit 0x83 [])) s.m.board.uid (crit 0x83 []) = true
      ∧ permits (authoriser s (crit 0x83 [])) (opcodeOf (crit 0x83 [])) = false :=
  ⟨crit_decodes _ _ _ _ _ rfl rfl rfl (by decide +kernel) (by decide +kernel) (by decide +kernel), by decide +kernel, by decide +kernel,
    signed_verifies _ (listed_length 112 _), by decide +kernel⟩

/-- The descriptor of a thaw whose tag has one bit wrong. -/
def forged : Entry :=
  let body := listed 112 [(0, 0x83), (1, 0x10), (16, 1)]
  let flip (x : Nat) : Nat := (x + 1) % 256
  { id := 0, ring := 0, index := 0
    bytes := body ++ ((macWithUid slot 0 (body.map (·.toNat))).map flip).map (BitVec.ofNat 8) }

theorem witness_AuthenticatorChecksInOrder_mac : Decodes (critState forged) (.thaw 0) forged
    ∧ (authoriser (critState forged) forged).active = true
    ∧ (authoriser (critState forged) forged).last < counterOf forged
    ∧ macVerifies (authoriser (critState forged) forged) (critState forged).m.board.uid forged = false := by
  refine ⟨crit_decodes _ _ _ _ _ rfl rfl rfl (by decide +kernel) (by decide +kernel) (by decide +kernel), by decide +kernel,
    by decide +kernel, ?_⟩
  have ha : authoriser (critState forged) forged = slot := by decide +kernel
  have hu : (critState forged).m.board.uid = 0 := rfl
  rw [ha, hu]
  let body := listed 112 [(0, 0x83), (1, 0x10), (16, 1)]
  have hb : Block (macWithUid slot 0 (body.map (·.toNat))) := cmac_block _
  let t := macWithUid slot 0 (body.map (·.toNat))
  have ht : Block (t.map fun x => (x + 1) % 256) := by
    refine ⟨(List.length_map _).trans hb.1, fun x hx => ?_⟩
    obtain ⟨y, _, rfl⟩ := List.mem_map.mp hx
    exact Nat.mod_lt _ (by decide)
  have h2 := natBytes_block body [] _ ht
  have hl : body.length = 112 := listed_length _ _
  rw [hl, List.append_nil] at h2
  have h1 : natBytes forged.bytes 0 112 = body.map (·.toNat) := by
    have : forged.bytes = body ++ (t.map fun x => (x + 1) % 256).map (BitVec.ofNat 8) := rfl
    simp [natBytes, this, hl]
  have h3 : natBytes forged.bytes 112 16 = t.map fun x => (x + 1) % 256 := h2
  unfold macVerifies
  rw [h1, h3]
  have h16 : t.length = 16 := hb.1
  have h256 : ∀ x ∈ t, x < 256 := hb.2
  change (t == t.map fun x => (x + 1) % 256) = false
  generalize t = l at h16 h256
  cases l with
  | nil => simp at h16
  | cons a l =>
    have : a < 256 := h256 a (by simp)
    refine beq_eq_false_iff_ne.mpr fun h => ?_
    have h' : a = (a + 1) % 256 := (List.cons.inj h).1
    omega

/-- A key retire of slot 0, which slot 1 outlives. -/
def keyRetire : Entry := crit 0x80 [(24, 1), (25, 0)]

theorem witness_KeyCommandsWriteTheirSlot_retire : Decodes (critState keyRetire) (.keyRetire 0) keyRetire
    ∧ Authentic (critState keyRetire) keyRetire
    ∧ retireFailures (authoriser (critState keyRetire) keyRetire) keyRetire
        { critState keyRetire with auth := counted (critState keyRetire) keyRetire } = [] :=
  ⟨crit_decodes _ _ _ _ _ rfl rfl rfl (by decide +kernel) (by decide +kernel) (by decide +kernel),
    crit_authentic _ (listed_length 112 _) (by decide +kernel), by decide +kernel⟩

/-- A freeze or thaw of layer 4,095 alone. -/
def freezeOne (op : Nat) : Entry := crit 0x83 [(24, 0xFF), (25, 0x0F), (26, 1), (28, op)]

theorem witness_FreezeActsOnItsLayers_freeze : Decodes (critState (freezeOne 1)) (.freeze 0) (freezeOne 1)
    ∧ Authentic (critState (freezeOne 1)) (freezeOne 1)
    ∧ byteAt (freezeOne 1).bytes 28 = 1 ∧ field (freezeOne 1).bytes 26 2 ≠ 0
    ∧ field (freezeOne 1).bytes 24 2 + field (freezeOne 1).bytes 26 2 = 4096
    ∧ (critState (freezeOne 1)).m.gate.bank0.state ≠ .opened ∧ (critState (freezeOne 1)).m.gate.bank1.state ≠ .opened :=
  ⟨crit_decodes _ _ _ _ _ rfl rfl rfl (by decide +kernel) (by decide +kernel) (by decide +kernel),
    crit_authentic _ (listed_length 112 _) (by decide +kernel), by decide +kernel⟩
theorem witness_FreezeActsOnItsLayers_opened :
    let s : State := { critState (freezeOne 0) with
      m := { (critState (freezeOne 0)).m with gate := { bank1 := { state := .opened } } } }
    Decodes s (.thaw 0) (freezeOne 0) ∧ Authentic s (freezeOne 0) ∧ byteAt (freezeOne 0).bytes 28 = 0
      ∧ s.m.gate.bank1.state = .opened := by
  refine ⟨⟨0, 0x83, _, rfl, ?_, by decide +kernel, by decide +kernel⟩, ?_, by decide +kernel, rfl⟩
  · exact decodes_alone rfl rfl rfl rfl rfl rfl (by decide +kernel)
  · exact crit_authentic _ (listed_length 112 _) (by decide +kernel)

theorem witness_CriticalCommandsStart_squall :
    let e (k : Nat) : Entry := crit 0x85 [(24, k), (40, 1), (42, 1)]
    (Decodes (critState (e 1)) (.squallEnable 0) (e 1) ∧ Authentic (critState (e 1)) (e 1)
        ∧ squallFailures (e 1) = [] ∧ unitGated (critState (e 1)).m handleSquall = false
        ∧ entryAt (critState (e 1)).m (e 1).id = some (e 1))
      ∧ Decodes (critState (e 0)) (.squallDisable 0) (e 0) ∧ Authentic (critState (e 0)) (e 0) ∧ squallFailures (e 0) = [] :=
  ⟨⟨crit_decodes _ _ _ _ _ rfl rfl rfl (by decide +kernel) (by decide +kernel) (by decide +kernel),
    crit_authentic _ (listed_length 112 _) (by decide +kernel), by decide +kernel, by decide +kernel, rfl⟩,
    crit_decodes _ _ _ _ _ rfl rfl rfl (by decide +kernel) (by decide +kernel) (by decide +kernel),
    crit_authentic _ (listed_length 112 _) (by decide +kernel), by decide +kernel⟩
theorem witness_CriticalCommandsStart_warm :
    let e := crit 0x86 [(32, 3)]
    Decodes (critState e) (.warmResetCommand 0) e ∧ Authentic (critState e) e
      ∧ warmFailures (authoriser (critState e) e) e (critState e) = [] :=
  ⟨crit_decodes _ _ _ _ _ rfl rfl rfl (by decide +kernel) (by decide +kernel) (by decide +kernel),
    crit_authentic _ (listed_length 112 _) (by decide +kernel), by decide +kernel⟩
/-- Loop 0 to source 0, multiplier as at boot, divider 2. -/
theorem witness_CriticalCommandsStart_clock :
    let k := (bootLoop 0).mult.toNat
    let e := crit 0x84 [(24, 0), (25, 0), (26, k % 256), (27, k / 256 % 256), (28, k / 65536), (30, 2)]
    Decodes (critState e) (.clockSourceChange 0) e ∧ Authentic (critState e) e ∧ clockFailures (critState e).m e = []
      ∧ (loopAt (critState e).m (clkLoop e)).phase = .none ∧ loopBusy (critState e).m e = none :=
  ⟨crit_decodes _ _ _ _ _ rfl rfl rfl (by decide +kernel) (by decide +kernel) (by decide +kernel),
    crit_authentic _ (listed_length 112 _) (by decide +kernel), by decide +kernel, by decide +kernel, by decide +kernel⟩
theorem witness_CriticalCommandsStart_stored :
    let e : Entry := doing { desc 0x81 [] with bytes := listed 128 [(0, 0x81), (1, 0x10)] } (.store [] 0)
    alive (withPool [e]) = true ∧ (withPool [e]).hg.pool.find? (fun x => x.storing.isSome) = some e
      ∧ e.storing = some { valid := true, version := 0, image := [] } ∧ (byteAt e.bytes 40).testBit 0 = false := by
  decide +kernel
theorem witness_CriticalCommandsStart_squall_end :
    let m : Module := { up with time := 1000, squall := { disabledAt := some 0 } }
    m.squall.disabledAt = some 0 ∧ 1000 ≤ (m.time - 0).toNat := by decide +kernel

/-- The wrapping of the key of bytes 0 to 31 under the key that `slot` derives for UID 0 (R81). -/
def wrapped : List Nat :=
  [84, 225, 77, 107, 36, 142, 121, 251, 2, 20, 105, 208, 84, 209, 129, 100, 246, 147, 61, 164, 24, 228, 140, 78, 118, 15,
   167, 203, 165, 135, 50, 225, 218, 168, 149, 102, 166, 113, 81, 133]

theorem wrapped_key : Crypto.unwrap (Crypto.wrapKey slot.bytes 0) wrapped = some (List.range 32) := by decide +kernel

/-- A key load into slot 2 with mask 1. -/
def keyLoad : Entry := crit 0x80 ((25, 2) :: (26, 1) :: (wrapped.zipIdx.map fun p => (32 + p.2, p.1)))

theorem witness_KeyCommandsWriteTheirSlot_load : Decodes (critState keyLoad) (.keyLoad 0) keyLoad
    ∧ Authentic (critState keyLoad) keyLoad ∧ loadFailures (authoriser (critState keyLoad) keyLoad) keyLoad (critState keyLoad) = []
    ∧ unwrapped (authoriser (critState keyLoad) keyLoad) (critState keyLoad).m.board.uid keyLoad = some (List.range 32) := by
  have ha : authoriser (critState keyLoad) keyLoad = slot := by decide +kernel
  have hw : unwrapped slot 0 keyLoad = some (List.range 32) := by
    have : natBytes keyLoad.bytes 32 40 = wrapped := by decide +kernel
    unfold unwrapped
    rw [this]
    exact wrapped_key
  refine ⟨crit_decodes _ _ _ _ _ rfl rfl rfl (by decide +kernel) (by decide +kernel) (by decide +kernel),
    crit_authentic _ (listed_length 112 _) (by decide +kernel), ?_, by rw [ha]; exact hw⟩
  rw [ha]
  have h1 : failing (byteAt keyLoad.bytes 24 > 1) 24 ++ failing (keyPerms keyLoad &&& ~~~slot.perms != 0) 26 = [] := by decide +kernel
  unfold loadFailures
  rw [h1, show (critState keyLoad).m.board.uid = 0 from rfl, hw]
  rfl

/-- A critical descriptor that carries the tag `t` of an image at byte `pre.length`. -/
def carrying (pre post : List Byte) (t : Crypto.Bytes) : Entry := signed (pre ++ (t.map (BitVec.ofNat 8) ++ post))

theorem carrying_tag (pre post : List Byte) (t : Crypto.Bytes) (ht : Block t) :
    natBytes (carrying pre post t).bytes pre.length 16 = t := by
  have h : (carrying pre post t).bytes = pre ++ (t.map (BitVec.ofNat 8) ++ (post
      ++ (macWithUid slot 0 ((pre ++ (t.map (BitVec.ofNat 8) ++ post)).map (·.toNat))).map (BitVec.ofNat 8))) := by
    simp [carrying, signed]
  rw [h]
  exact natBytes_block _ _ _ ht

/-- The image of 4 KiB of zeros, its tag, and the descriptor that activates it as version 0. -/
def image : List Byte := (List.replicate 32 (List.replicate 128 (0 : Byte))).flatten
def imageTag : Crypto.Bytes := macWithUid slot 0 (image.map (·.toNat))
theorem imageTag_block : Block imageTag := cmac_block (Crypto.le8 0 ++ image.map (·.toNat))
def activation (t : Crypto.Bytes) : Entry := carrying (listed 48 [(0, 0x81), (1, 0x10), (16, 1), (28, 4), (33, 0x10)]) (listed 48 []) t

theorem activation_checks : failureOf (withPool [activation imageTag]) (activation imageTag) = none := by decide +kernel

/-- Lines of memory read one by one, none of them poisoned. -/
def readLines : Nat → Nat → Module → Option (List (List Byte) × Module)
  | 0, _, m => some ([], m)
  | n + 1, a, m =>
    match llcRead a 0 m with
    | none => none
    | some (d, m) => if d.2 ≠ 0 then none else (readLines n (a + 128) m).map fun r => (d.1 :: r.1, r.2)

theorem readLines_spec (n a : Nat) (m m₁ : Module) (l : List (List Byte)) (h : readLines n a m = some (l, m₁)) :
    readLocal n a m = some (some l.flatten, m₁) := by
  induction n generalizing a m l with
  | zero => simp only [readLines, Option.some.injEq, Prod.mk.injEq] at h; obtain ⟨rfl, rfl⟩ := h; rfl
  | succ n ih =>
    unfold readLines at h
    unfold readLocal
    split at h
    · simp at h
    · rename_i d m₂ hd
      split at h
      · simp at h
      · rename_i hp
        obtain ⟨r, hr, he⟩ := Option.map_eq_some_iff.mp h
        simp only [Prod.mk.injEq] at he
        obtain ⟨rfl, rfl⟩ := he
        have hi := ih _ _ _ hr
        simp only [hd, if_neg hp, hi, List.flatten_cons]

/-- Two reads of memory in turn. -/
def readTwice (n a : Nat) (m : Module) : Option (List (List Byte)) :=
  match readLines n a m with
  | some (l, m₁) => if (readLines n a m₁).isSome then some l else none
  | none => none

theorem readTwice_spec {n a : Nat} {m : Module} {l : List (List Byte)} (h : readTwice n a m = some l) :
    ∃ m₁ bs' m₂, readLocal n a m = some (some l.flatten, m₁) ∧ readLocal n a m₁ = some (some bs', m₂) := by
  unfold readTwice at h
  split at h
  · rename_i l₁ m₁ h₁
    split at h
    · rename_i h₂
      obtain ⟨⟨l₂, m₂⟩, h₂⟩ := Option.isSome_iff_exists.mp h₂
      exact ⟨m₁, l₂.flatten, m₂, Option.some.inj h ▸ readLines_spec _ _ _ _ _ h₁, readLines_spec _ _ _ _ _ h₂⟩
    · simp at h
  · simp at h

theorem image_read : readTwice 32 extBase (critState (activation imageTag)).m = some (List.replicate 32 (List.replicate 128 0)) := by
  decide +kernel

/-- For an image that the part's maker has signed, of version 0 (both are left open, log 10). -/
theorem witness_CriticalCommandsStart_firmware (hs : Config.imageSigned image = true) (hv : Config.imageVersion image = 0) :
    let e := activation imageTag
    let s := critState e
    ∃ bs' m m', Decodes s (.firmwareActivation 0) e ∧ Authentic s e
      ∧ firmwareCheck ((authoriser s e).consume (counterOf e)) e { s with auth := counted s e } =
          some (none, { s with auth := counted s e, m := m })
      ∧ readLocal (fwLength e / 128) (fwImage e) m = some (some bs', m') := by
  intro e s
  have hn : fwLength e / 128 = 32 ∧ fwImage e = extBase := by decide +kernel
  obtain ⟨m, bs', m', h1, h2⟩ := readTwice_spec image_read
  have h1 : readLocal 32 extBase s.m = some (some image, m) := h1
  refine ⟨bs', m, m', crit_decodes _ _ _ _ _ rfl rfl rfl (by decide +kernel) (by decide +kernel) activation_checks,
    crit_authentic _ ?_ (by decide +kernel), ?_, by rw [hn.1, hn.2]; exact h2⟩
  · simp [listed_length, imageTag_block.1]
  · have hf : rangeFailures e = [] := by decide +kernel
    have hk : ((authoriser s e).consume (counterOf e)).bytes = slot.bytes := by decide +kernel
    have ht : natBytes e.bytes 48 16 = imageTag := by
      have := carrying_tag (listed 48 [(0, 0x81), (1, 0x10), (16, 1), (28, 4), (33, 0x10)]) (listed 48 []) imageTag imageTag_block
      rwa [listed_length] at this
    have hm : macWithUid ((authoriser s e).consume (counterOf e)) s.m.board.uid (image.map (·.toNat)) = imageTag := by
      unfold macWithUid; rw [hk]; rfl
    have hver : BitVec.ofNat 32 (field e.bytes 36 4) = 0 := by decide +kernel
    have hmu : macWithUid ((authoriser s e).consume (counterOf e)) ({ s with auth := counted s e } : State).m.board.uid
        (image.map (·.toNat)) = imageTag := hm
    unfold firmwareCheck
    rw [hf]
    simp only [lowest, hn.1, hn.2, h1]
    simp [hs, hv, hver, hmu, ht, failing]

/-- A routing table of 2 KiB of zeros, its tag, and the descriptor that makes this module a fabric of its own. -/
def table : List Byte := (List.replicate 16 (List.replicate 128 (0 : Byte))).flatten
def tableTag : Crypto.Bytes := macWithUid slot 0 (table.map (·.toNat))
theorem tableTag_block : Block tableTag := cmac_block (Crypto.le8 0 ++ table.map (·.toNat))
def topology (t : Crypto.Bytes) : Entry :=
  carrying (listed 64 [(0, 0x82), (1, 0x10), (16, 1), (26, 1), (27, 1), (28, 2), (48, 1), (60, 4)]) (listed 32 []) t

theorem table_read : readTwice 16 extBase (critState (topology tableTag)).m = some (List.replicate 16 (List.replicate 128 0)) := by
  decide +kernel

/-- The fabric is not in use, before the table is read and after. -/
theorem fabric_free : (match readLines 16 extBase (critState (topology tableTag)).m with
    | some (_, m) => fabricBusy m == none && wayPresent m.board.part 0
    | none => false) = true := by decide +kernel

theorem witness_CriticalCommandsStart_topology :
    let e := topology tableTag
    let s := critState e
    ∃ bs m m', Decodes s (.fabricTopologyAndRouteChange 0) e ∧ Authentic s e
      ∧ topologyCheck ((authoriser s e).consume (counterOf e)) e { s with auth := counted s e } =
          some (none, { s with auth := counted s e, m := m })
      ∧ readLocal 16 (topTable e) m = some (some bs, m') := by
  intro e s
  have hn : topTable e = extBase := by decide +kernel
  obtain ⟨m, bs', m', h1, h2⟩ := readTwice_spec table_read
  have h1 : readLocal 16 extBase s.m = some (some table, m) := h1
  have hfree : fabricBusy m = none ∧ wayPresent m.board.part 0 = true := by
    have h := fabric_free
    split at h
    · rename_i l m₂ hl
      have := (readLines_spec _ _ _ _ _ hl).symm.trans h1
      simp only [Option.some.injEq, Prod.mk.injEq] at this
      rw [this.2] at h
      simpa using h
    · simp at h
  refine ⟨bs', m, m', crit_decodes _ _ _ _ _ rfl rfl rfl (by decide +kernel) (by decide +kernel) (by decide +kernel),
    crit_authentic _ ?_ (by decide +kernel), ?_, by rw [hn]; exact h2⟩
  · simp [listed_length, tableTag_block.1]
  · have hf : topologyFailures s.m e = [] := by decide +kernel
    have hk : ((authoriser s e).consume (counterOf e)).bytes = slot.bytes := by decide +kernel
    have ht : natBytes e.bytes 64 16 = tableTag := by
      have := carrying_tag (listed 64 [(0, 0x82), (1, 0x10), (16, 1), (26, 1), (27, 1), (28, 2), (48, 1), (60, 4)]) (listed 32 [])
        tableTag tableTag_block
      rwa [listed_length] at this
    have hu : m.board.uid = 0 := by
      have h : (match readLines 16 extBase s.m with
        | some (_, m) => decide (m.board.uid = 0)
        | none => false) = true := by decide +kernel
      split at h
      · rename_i l m₂ hl
        have := (readLines_spec _ _ _ _ _ hl).symm.trans h1
        simp only [Option.some.injEq, Prod.mk.injEq] at this
        rw [this.2] at h
        simpa using h
      · simp at h
    have hm : macWithUid ((authoriser s e).consume (counterOf e)) 0 (table.map (·.toNat)) = tableTag := by
      unfold macWithUid; rw [hk]; rfl
    unfold topologyCheck
    simp only [hf, lowest, hn, h1]
    simp [hu, ht, hfree.1, hfree.2]
    exact hm

/-! ## Headgate -/

/-- A task of two threads on core 0, entry 0x1000. -/
def task (l : List (Nat × Nat)) : Entry := desc 1 ((8, 163) :: (10, 2) :: (17, 0x10) :: l)

theorem witness_PlacementGivesFreeSlots : widthOf (task []) ≠ 0 ∧ placement (withPool [task []]) (task []) = some [0, 1]
    ∧ targetCores (placeOf (task [])) = some (0, 1) := by decide +kernel
theorem witness_PlacementGivesFreeSlots_arrays :
    let e := desc 1 [(8, 1), (10, 2), (17, 0x10), (12, 4)]
    widthOf e ≠ 0 ∧ placement (withPool [e]) e = some [0, 2] ∧ (targetCores (placeOf e)).isSome = true ∧ arraysOf e = 1 := by
  decide +kernel
theorem test_no_room : placement (setThread 1 th (withPool [task []])) (task []) = none := by decide +kernel
theorem witness_AdmissionStartsThreads : scanning (withPool [task []]) = true
    ∧ placedTask (withPool [task []]) 0 = some (task [], [0, 1]) ∧ invStart (task []) = false ∧ [0, 1].Nodup := by decide +kernel
theorem test_admission : (match exec (.taskAdmit 0) (st (withPool [task [(24, 9)]])) with
    | .next s => (threadAt s.m 1).pc == 0x1000 && (threadAt s.m 1).reg 1 == 9 && (threadAt s.m 1).reg 2 == 1
    | _ => false) = true := by decide +kernel

/-- A task whose only thread has finished, of gate role `g`. -/
def finished (g : Nat) : Entry := doing (task [(10, 1), (13, g), (56, 2), (49, 0x80)]) (.task { threads := [0], finished := [0] })

/-- The running module in which it waits to retire. -/
def finishedState (g : Nat) : Module := setThread 0 { th with run := .finished } (withPool [finished g])

theorem witness_TaskRetiresNormally : entryAt (finishedState 0) 0 = some (finished 0)
    ∧ (finished 0).work = .task { threads := [0], finished := [0] }
    ∧ taskDue (finishedState 0) { threads := [0], finished := [0] } = true ∧ working (finishedState 0) = true
    ∧ gateRole (finished 0) = 0 := by decide +kernel
theorem witness_TaskRetiresNormally_cast : entryAt (finishedState 3) 0 = some (finished 3)
    ∧ (finished 3).work = .task { threads := [0], finished := [0] }
    ∧ taskDue (finishedState 3) { threads := [0], finished := [0] } = true ∧ working (finishedState 3) = true
    ∧ opcodeOf (finished 3) = 1 ∧ gateRole (finished 3) = 3 ∧ castWaits (finishedState 3) (taskStep (finished 3)) = false
    ∧ fateOf (stepBank (finishedState 3) (taskStep (finished 3))) (taskStep (finished 3)) = .start := by decide +kernel
theorem test_retire_sets_token : (match exec (.taskRetire 0) (st (finishedState 0)) with
    | .next s => s.m.hg.tokens.getLsbD 0 && (threadAt s.m 0).run == .idle && s.m.hg.pool.isEmpty
    | _ => false) = true := by decide +kernel
theorem witness_HeadgateCycleOrder : working up = true ∧ entryAt (withPool [task []]) 0 = some (task [])
    ∧ candidate (withPool [task []]) (task []) = true := by decide +kernel
theorem witness_HeadgateCycleOrder_stall :
    let m := { withPool (List.replicate 8192 (desc 0 [])) with hg := { pool := List.replicate 8192 (desc 0 []), stuck := 1048576 } }
    working m = true ∧ m.hg.stall ≠ 0 ∧ 8192 ≤ m.hg.pool.length ∧ 1024 * m.hg.stall.toNat ≤ m.hg.stuck := by
  refine ⟨rfl, by decide, ?_, by decide⟩
  show 8192 ≤ (List.replicate 8192 (desc 0 [])).length
  exact Nat.le_of_eq List.length_replicate.symm
theorem witness_HeadgateCycleOrder_reservation :
    let e : Entry := { task [] with ready := 4096 }
    working (withPool [e]) = true ∧ firstReady (withPool [e]) = some e ∧ (withPool [e]).hg.rsv = none
      ∧ (withPool [e]).hg.reserve ≠ 0 ∧ 16 * (withPool [e]).hg.reserve.toNat ≤ e.ready := by decide +kernel

/-! ## Fault ring and invalidation -/

theorem witness_FaultRingRegisters_enable : (0x84000000#32).getLsbD 31 = true ∧ up.faults.enable = false
    ∧ (BitVec.ofNat 4 ((0x84000000#32).toNat / 2 ^ 24)).toNat = 4
    ∧ (BitVec.ofNat 4 ((0x8C000000#32).toNat / 2 ^ 24)).toNat = 12
    ∧ (BitVec.ofNat 4 ((0x83000000#32).toNat / 2 ^ 24)).toNat < 4
    ∧ 12 < (BitVec.ofNat 4 ((0x8D000000#32).toNat / 2 ^ 24)).toNat := by decide +kernel
/-- An enabled fault ring of 16 records with one record that waits for space. -/
def faulted (written : Bool) : Module :=
  { setThread 0 { th with run := .suspended } up with
    faults := { enable := true, log := 4,
                suspended := [{ seq := 1, kind := 1, owner := .thread 0, written := written, record := List.replicate 63 0 }] } }
theorem witness_FaultRingRegisters_disable : (0#32).getLsbD 31 = false ∧ (faulted false).faults.enable = true := by decide +kernel
theorem witness_FaultRingRegisters_drain :
    let x : Suspension := { seq := 1, kind := 1, owner := .thread 0, written := false, record := List.replicate 63 0 }
    (faulted false).faults.suspended.find? (fun y => !y.written) = some x ∧ faultRingFull (faulted false).faults = false
      ∧ x.record.length = 63 := by decide +kernel
/-- A head may go to the tail, and no further. -/
theorem test_fault_head : ([16, 17].map fun v => match exec (.frPtrHeadWrite v) (st { up with faults := { log := 4, tail := 16 } }) with
    | .next s => (s.m.faults.head, s.m.faults.badHead)
    | _ => (0, false)) = [(16, false), (0, true)] := by decide +kernel
theorem witness_FaultAnswersResumeOrKill :
    let x : Suspension := { seq := 1, kind := 1, owner := .thread 0, written := true, record := List.replicate 63 0 }
    suspendedAt (faulted true) 1 = some x ∧ x.owner = .thread 0
      ∧ (∀ y ∈ (faulted true).faults.suspended, y.seq = 1 → y = x) ∧ x.written = true ∧ (faulted true).fabric.failed = [] := by
  decide +kernel
theorem witness_FaultAnswersResumeOrKill_none : suspendedAt (faulted true) 2 = none := by decide +kernel
theorem witness_InvalidationEmptiesItsScope : up.host.inv = none ∧ (0x0C000000#64).toNat / 2 ^ 26 % 4 = 3 := by
  decide +kernel
theorem witness_InvalidationEmptiesItsScope_complete :
    let m : Module := { one th with host := { inv := some .all } }
    m.host.inv = some .all
    ∧ ((m.cores.map (·.1)).forM (cleanScope .all)).go m = (.ok (), m)
    ∧ (∀ p ∈ m.threads, InvScope.covers .all p.2.priv.asid = true → accessesReached m p.1 p.2 = true)
    ∧ (∀ g ∈ m.fabric.tags, ∀ a, g.who.asid m = some a → InvScope.covers .all a = true → g.quarantined = true)
    ∧ (∀ e ∈ m.hg.pool, e.holdsPages = true → InvScope.covers .all (asidOf e) = false)
    ∧ (∀ b ∈ m.weir.batches, b.pages ≠ [] → InvScope.covers .all b.asid = false) :=
  ⟨rfl, quiet_spec (by decide +kernel), by decide +kernel, fun _ h => absurd h List.not_mem_nil, fun _ h => absurd h List.not_mem_nil,
    fun _ h => absurd h List.not_mem_nil⟩

/-- The checks a descriptor owes: behind a closed fence, passed, and failed. -/
theorem witness_HeadgateCycleOrder_checks :
    let closed : Entry := { id := 1, ring := 0, index := 1, bytes := listed 64 [(1, 0x12)], stage := .waiting }
    let bad : Entry := { desc 0 [(8, 0xFF)] with stage := .waiting }
    let good : Entry := { task [] with stage := .waiting }
    let m (l : List Entry) := withPool l
    (entryAt (m [task [], closed]) 1 = some closed ∧ closed.stage = .waiting ∧ closed.checked = false ∧ opcodeOf closed ≠ 4
        ∧ opcodeOf closed ≠ 5 ∧ refusedUpdate (m [task [], closed]) closed = false ∧ fenceOpen (m [task [], closed]) closed = false)
      ∧ (fenceOpen (m [good]) good = true ∧ descriptorCheck (m [good]) good = none
        ∧ good.checked = false ∧ refusedUpdate (m [good]) good = false)
      ∧ (fenceOpen (m [bad]) bad = true ∧ descriptorCheck (m [bad]) bad = some (0x42, 8) ∧ bad.stage = .waiting
        ∧ refusedUpdate (m [bad]) bad = false) := by decide +kernel
theorem witness_HeadgateCycleOrder_ended :
    let e : Entry := doing (desc 0 []) (.ended { status := 0 })
    let m : Module := { withPool [e] with hg := { pool := [e], scan := true } }
    m.hg.scan = true ∧ entryAt m 0 = some e ∧ e.work = .ended { status := 0 } := by decide +kernel
/-- A no-op decoded in the scan retires in phase 1 of the next cycle. -/
theorem test_ended_retires_next : (match exec .headgateCycle
      (st { noopState [] with hg := { pool := [{ desc 0 [] with stage := .waiting }] } }) with
    | .next s =>
      (s.m.hg.pool.map (·.work) == [.ended { status := 0 }]) &&
      (match exec .headgateCycle s with
        | .next s => s.m.hg.pool == []
        | _ => false)
    | _ => false) = true := by decide +kernel
/-- A line that holds a store of the scope goes to its home slice. -/
theorem test_inv_complete_cleans : (match exec .mmuInvComplete (st (setCore 0
      { l1d := [{ line := 0x400000000, data := List.replicate 128 0x5A, mask := 1, asids := [0] }] }
      { up with host := { inv := some (.asid 0) } })) with
    | .next s => s.m.host.inv == none && byteAt (heldLine 0x400000000 s.m).1 0 == 0x5A
        && ((coreAt s.m 0).l1d.map (·.mask)) == [0]
    | _ => false) = true := by decide +kernel
/-! ## Scalar instructions -/

theorem witness_IntegerInstructionsWriteTheirResult :
    ∃ x, integerForm (.add 0 31 1 2) = some x ∧ x.thread = 0 ∧ IntegerReady (st (one th)).m x :=
  ⟨_, rfl, rfl, by unfold IntegerReady SourcesReady; decide +kernel⟩
/-- Divisor 0, and the most negative number divided by -1. -/
theorem witness_IntegerArithmeticNeverTraps :
    let x := { th with g := [(1, BitVec.ofNat 64 (2 ^ 63)), (2, BitVec.allOnes 64)] }
    IntegerReady (one x) ⟨0, 3, [1, 2], fun _ => 0⟩ ∧ (sourceValue x 1).toInt = -2 ^ 63 ∧ (sourceValue x 2).toInt = -1
      ∧ sourceValue x 4 = 0 := by unfold IntegerReady SourcesReady; decide +kernel
theorem test_div_zero : (match exec (.divS 0 3 1 6) (st (one th)) with
    | .next s => (threadAt s.m 0).reg 3 == BitVec.allOnes 64 && (threadAt s.m 0).pc == 0x1004
    | _ => false) = true := by decide +kernel
theorem test_mulhu : (match exec (.mulhu 0 3 1 2) (st (one { th with g := [(1, BitVec.allOnes 64), (2, BitVec.allOnes 64)] })) with
    | .next s => (threadAt s.m 0).reg 3 == BitVec.allOnes 64 - 1
    | _ => false) = true := by decide +kernel
theorem test_sra : (match exec (.srai 0 1 1 63) (st (one { th with g := [(1, BitVec.ofNat 64 (2 ^ 63))] })) with
    | .next s => (threadAt s.m 0).reg 1 == BitVec.allOnes 64
    | _ => false) = true := by decide +kernel
theorem test_g0 : (match exec (.addi 0 0 1 1) (st (one th)) with
    | .next s => (threadAt s.m 0).reg 0 == 0 && (threadAt s.m 0).pc == 0x1004
    | _ => false) = true := by decide +kernel

/-- A thread in loop 3 whose body ends at PC, with `c` passes left. -/
def looping (c : BitVec 32) : Thread := { th with lstat := 8, ls := [(3, 0x800)], le := [(3, 0x1000)], lc := [(3, c)] }
theorem witness_EndCheckLoopsBack : IntegerReady (one (looping 2)) ⟨0, 3, [1, 2], fun _ => 0⟩
    ∧ (looping 2).lstat.getLsbD 3 = true ∧ (∀ k, 3 < k → k < 4 → (looping 2).lstat.getLsbD k = false)
    ∧ (Sparse.get 0 (looping 2).le 3 : BitVec 48) = (looping 2).pc ∧ (Sparse.get 0 (looping 2).lc 3 : BitVec 32) ≠ 1
    ∧ (Sparse.get 0 (looping 1).lc 3 : BitVec 32) = 1 ∧ (∀ k, k < 3 → (looping 1).lstat.getLsbD k = false)
    ∧ th.lstat = 0 ∧ (Sparse.get 0 { looping 2 with pc := 0x900 }.le 3 : BitVec 48) ≠ 0x900 := by
  unfold IntegerReady SourcesReady
  refine ⟨by decide +kernel, by decide, ?_, by decide, by decide, by decide, by decide, by decide, by decide⟩
  intro k h1 h2; omega
theorem test_loop_back : ([2, 1].map fun c => match exec (.add 0 3 1 2) (st (one (looping c))) with
    | .next s => ((threadAt s.m 0).pc, (threadAt s.m 0).lstat)
    | _ => (0, 0)) = [(0x800, 8), (0x1004, 0)] := by decide +kernel
theorem witness_BranchesFollowTheirCondition : issuable (one th) 0 = true ∧ (∀ r ∈ ([31, 0] : List Reg), (th.src r).isSome = true)
    ∧ 6 ≤ (6 : BitVec 3).toNat ∧ (5 : BitVec 3).toNat < 6 ∧ sourceValue th 31 = 0 ∧ sourceValue th 1 ≠ 0 ∧ NoLoop th := by
  unfold NoLoop; decide +kernel
theorem test_branch_back : (match exec (.branch 0 1 1 0 0x1FFF) (st (one th)) with
    | .next s => (threadAt s.m 0).pc == 0xFFC
    | _ => false) = true := by decide +kernel
theorem test_branch_reserved : (match exec (.branch 0 1 1 6 1) (st (one th)) with
    | .next s => ((threadAt s.m 0).exc.map fun e => e.cause) == some 1
    | _ => false) = true := by decide +kernel

/-- A thread whose return stack is full, and one with its oldest entry alone, in memory. -/
def deep : Thread := { th with rstack := List.replicate 4096 0x40, cached := 16 }
theorem witness_TransfersReachTheirTarget : issuable (one th) 0 = true ∧ th.rstack = []
    ∧ (sourceValue th 1).toNat % 4 = 0 ∧ (sourceValue th 1).toNat < 2 ^ 48
    ∧ (locateMachine (one th) .read (sourceValue th 1).toNat).isSome = true
    ∧ th.cached < 16 ∧ (sourceValue th 3).toNat % 4 ≠ 0 := by decide +kernel
theorem witness_TransfersReachTheirTarget_full : 4096 ≤ deep.rstack.length ∧ issuable (one deep) 0 = true := by
  refine ⟨?_, by decide +kernel⟩
  show 4096 ≤ (List.replicate 4096 (0x40 : BitVec 48)).length
  exact Nat.le_of_eq List.length_replicate.symm
theorem witness_TransfersReachTheirTarget_address : let x := { th with g := [(1, BitVec.ofNat 64 (2 ^ 48))] }
    issuable (one x) 0 = true ∧ (sourceValue x 1).toNat % 4 = 0 ∧ 2 ^ 48 ≤ (sourceValue x 1).toNat := by decide +kernel
theorem witness_TransfersReachTheirTarget_ret : let x := { th with rstack := [0x40], cached := 1 }
    issuable (one x) 0 = true ∧ x.rstack = [0x40] ∧ 0 < x.cached ∧ { x with cached := 0 }.rstack ≠ []
      ∧ { x with cached := 0 }.cached = 0 ∧ issuable (one { x with cached := 0 }) 0 = true := by decide +kernel
theorem test_call_pushes : (match exec (.call 0 2) (st (one th)) with
    | .next s => (threadAt s.m 0).pc == 0x1008 && (threadAt s.m 0).rstack == [0x1004]
    | _ => false) = true := by decide +kernel
theorem test_ret_underflow : (match exec (.ret 0) (st (one th)) with
    | .next s => ((threadAt s.m 0).exc.map fun e => e.cause) == some 8
    | _ => false) = true := by decide +kernel
theorem witness_LoopInstructionsSetUpLoops : issuable (one th) 0 = true ∧ (th.src 6).isSome = true
    ∧ (sourceValue th 6).setWidth 32 = 0#32 ∧ (sourceValue th 2).setWidth 32 ≠ 0#32 := by decide +kernel
theorem test_loopi : (match exec (.loopi 0 3 5 4) (st (one th)) with
    | .next s => let x := threadAt s.m 0
                 (Sparse.get 0 x.ls 3 : BitVec 48) == 0x1004 && (Sparse.get 0 x.le 3 : BitVec 48) == 0x1010
                   && (Sparse.get 0 x.lc 3 : BitVec 32) == 5 && x.lstat == 8 && x.pc == 0x1004
    | _ => false) = true := by decide +kernel

/-! ## Loads and stores -/

/-- A line at 0x10000 in the data L1 of core 0, bytes 0x80 up. -/
def cachedLine : L1Line := { line := 0x10000, data := (List.range 128).map fun i => BitVec.ofNat 8 (0x80 + i) }
/-- Thread 0 in state `x`, with that line in its L1. -/
def cached (x : Thread) : Module := setCore 0 { vecUp := true, l1d := [cachedLine] } (setThread 0 x up)
def memOp (mode : BitVec 2) (disp : BitVec 10) : MemOp := { rd := 6, rb := 1, mode := mode, size := 1, hint := 0, disp := disp }

theorem witness_LoadsReadTheirLine :
    let m := cached th
    let o := memOp 1 1
    issuable m 0 = true ∧ o.wellFormed = true ∧ loadForm o = true ∧ o.size ≠ 3 ∧ memAddress o th = some (0x10000, some 0x10002)
      ∧ th.writable o.rb = true ∧ (0x10000#64).toNat % o.bytes = 0
      ∧ addressFault m th .read (o.rb == 31) 0x10000 o.bytes = none ∧ th.unnamed o.rd = true
      ∧ tileOwns th (.mem 0x10000) o.bytes = false ∧ l1Find (coreAt m (0 / 2)) (lineOf 0x10000) = some cachedLine
      ∧ touchesPoison cachedLine.poison (0x10000 % 128) o.bytes = false := by decide +kernel
theorem witness_LoadsReadTheirLine_place :
    (resolve (threadAgent (cached th) 0) .read (0x10000#64).toNat).go (cached th) = (.ok (.mem 0x10000), cached th)
    ∧ (resolve (threadAgent (cached th) 0) .write (0x10000#64).toNat).go (cached th) = (.ok (.mem 0x10000), cached th) :=
  ⟨rfl, rfl⟩
/-- A misaligned address, one of 2^48, and one through g31 below SBLO. -/
theorem witness_LoadsReadTheirLine_faults :
    let x := { th with g := [(1, 0x10001), (2, BitVec.ofNat 64 (2 ^ 48)), (31, 0x10000)], sblo := 0x10002, sbhi := 0x20000
                       priv := { level := 1 } }
    let o (rb : Reg) : MemOp := { memOp 0 0 with rb := rb }
    issuable (cached x) 0 = true ∧ memAddress (o 1) x = some (0x10001, none) ∧ (0x10001#64).toNat % (o 1).bytes ≠ 0
      ∧ memAddress (o 2) x = some (BitVec.ofNat 64 (2 ^ 48), none)
      ∧ memAddress (o 31) x = some (0x10000, none) ∧ x.priv.level ≠ 2 ∧ (0x10000#64).toNat < x.sblo.toNat := by decide +kernel
theorem test_loads_extend : (match exec (.loadS 0 (memOp 0 0)) (st (cached th)) with
    | .next s => ((threadAt s.m 0).loads.map fun p => p.data) == [some 0xFFFFFFFFFFFF8180#64]
    | _ => false) = true := by decide +kernel
def hostLoads (x : BitVec 2) : Module :=
  let m := one { th with g := [(1, BitVec.ofNat 64 hostBase)] }
  { m with host := { m.host with hostAnswers := [(0, x)] } }
theorem test_host_refuses_load : (match exec (.load 0 (memOp 0 0)) (st (hostLoads 2)) with
    | .next s => (threadAt s.m 0).run == .suspended && (threadAt s.m 0).pc == 0x1000
    | _ => false) = true := by decide +kernel
theorem test_host_poisons_load : (match exec (.load 0 (memOp 0 0)) (st (hostLoads 3)) with
    | .next s => (threadAt s.m 0).loads.isEmpty && ((threadAt s.m 0).exc.map fun e => (e.cause, e.fval.toNat)) ==
        some (0x0B, hostBase)
    | _ => false) = true := by decide +kernel
theorem test_host_refuses_copy : (match (askHost (.line (.entry 0)) 0 hostBase 0 5 false).go (hostLoads 2) with
    | (.error s, _) => s == .host 0x50 5
    | _ => false) = true := by decide +kernel
theorem test_load_shadow : (match exec (.load 0 (memOp 1 1)) (st (cached { th with g := [(1, 0x10000), (6, 5)] })) with
    | .next s => (threadAt s.m 0).latch == some (6, 5) && (threadAt s.m 0).reg 1 == 0x10002
    | _ => false) = true := by decide +kernel
theorem witness_StoresWriteTheirLine :
    let m := cached th
    let o := { memOp 2 0x3FF with rb := 4, rd := 2 }
    issuable (cached { th with g := [(4, 0x107FE), (2, 7)] }) 0 = true ∧ o.wellFormed = true
      ∧ memAddress o { th with g := [(4, 0x107FE), (2, 7)] } = some (0x10000, some 0x10000) ∧ th.writable o.rb = true
      ∧ (th.src o.rd).isSome = true ∧ addressFault m th .write (o.rb == 31) 0x10000 o.bytes = none := by decide +kernel
theorem test_store_marks : (match exec (.store 0 { memOp 0 1 with rd := 2 }) (st (cached th)) with
    | .next s => ((coreAt s.m 0).l1d.map fun l => (byteAt l.data 1, byteAt l.data 2, byteAt l.data 3, l.mask)) == [(0x81, 7, 0, 12)]
    | _ => false) = true := by decide +kernel
theorem witness_DataReachesItsRegister :
    let p : PendingLoad := { rd := 6, data := some 9, pc := 0x1000, addr := 0 }
    let x := { th with loads := [p] }
    x.loads.find? (fun q => q.rd == 6 && q.atomic == false) = some p ∧ p.data = some 9 ∧ p.fill = none := by decide +kernel
theorem witness_DataReachesItsRegister_fill :
    let x := { th with run := .filling, rstack := [0x40] }
    alive (one x) = true ∧ (threadAt (one x) 0).run = .filling ∧ x.spills = 0 ∧ 1 = Nat.min 8 x.rstack.length
      ∧ ∃ top rest m₁, (readReturns 0 (x.rstack.length - 1) 1).go (one x) = (.ok (top :: rest), m₁) ∧ threadAt m₁ 0 = x := by
  refine ⟨rfl, rfl, rfl, rfl, _, _, _, rfl, rfl⟩
theorem witness_DataReachesItsRegister_spill :
    let x := { th with rstack := [0x40], spills := 1 }
    0 < (threadAt (one x) 0).spills
      ∧ (llcWrite (lineOf 0x63FC000000) (0x63FC000000 % 128) (bytesOf 8 (x.rstack.reverse.getD 0 0).toNat) (fun _ => true) 0
          (one x)).isSome = true := by decide +kernel
theorem test_dead_load : (match exec (.loadDataReturn 0 6) (st (one { th with loads := [{ rd := 6, data := some 9, pc := 0, addr := 0, dead := true }] })) with
    | .next s => (threadAt s.m 0).reg 6 == 0 && (threadAt s.m 0).loads == []
    | _ => false) = true := by decide +kernel

/-! ## The system group -/

/-- Boundaries of the register groups: the last number of one, the first of the next. -/
theorem witness_SystemRegistersRead : issuable (one th) 0 = true ∧ th.writable 31 = true ∧ 1 ≤ th.priv.level.toNat
    ∧ issuable (one { th with priv := {} }) 0 = true ∧ ({ th with priv := {} } : Thread).priv.level = 0
    ∧ ({ th with priv := { level := 1 } } : Thread).priv.level.toNat < 2 := by decide +kernel
theorem test_mfsr_levels : ([(2, 0x126), (1, 0x126), (1, 0x117), (0, 0x117), (0, 0x034)].map fun c =>
    match exec (.mfsr 0 3 (BitVec.ofNat 12 c.2)) (st (one { th with priv := { level := BitVec.ofNat 2 c.1 } })) with
    | .next s => ((threadAt s.m 0).exc.map fun e => e.cause.toNat)
    | _ => none) = [none, some 2, none, some 2, some 1] := by decide +kernel
theorem witness_SystemRegistersWrite : SerialIssue (one th) 0 ∧ th.src 1 = some 0x10000 ∧ 1 ≤ th.priv.level.toNat
    ∧ th.priv.level = 2 ∧ bitsOf (3#64) 1 0 = 3 ∧ th.src 3 = some 3 ∧ bitsOf (0x10000#64) 1 0 = 0
    ∧ SerialIssue (one { th with priv := {} }) 0 := by unfold SerialIssue; decide +kernel
theorem witness_SystemRegistersWrite_lease : let x := { th with tile := { grant := 2 }, g := [(1, 1), (2, 2), (3, 0x80000000)] }
    SerialIssue (one x) 0 ∧ x.src 2 = some 2 ∧ (x.tile.grant = 1 ∨ x.tile.grant = 2)
      ∧ x.src 1 = some 1 ∧ ¬ x.tile.grant = 1 ∧ x.src 3 = some 0x80000000 ∧ (0x80000000#64).getLsbD 31 = true := by
  unfold SerialIssue; decide +kernel
theorem test_nilimit : (match exec (.mtsr 0 1 0x140) (st (one th)) with
    | .next s => (threadAt s.m 0).priv.nilimit == 4096
    | _ => false) = true := by decide +kernel
theorem test_su_state_window : (match exec (.mtsr 0 4 0x110) (st (one { th with g := [(4, 0x10F)] })) with
    | .next s => let p := (threadAt s.m 0).priv
                 p.nicount == 256 && p.su.state.getLsbD 3 == false && p.su.state.getLsbD 2 && bitsOf p.su.state 11 8 == 1
    | _ => false) = true := by decide +kernel

theorem witness_SystemInstructionsAct : SerialIssue (one th) 0 ∧ NoLoop th ∧ NothingToReport th false ∧ NothingToReport th true
    ∧ (∃ m₁, (endClean 0).go (one th) = (.ok (), m₁)) := by
  unfold SerialIssue NoLoop NothingToReport
  refine ⟨by decide +kernel, by decide, by decide, by decide, ?_⟩
  obtain ⟨_, m₁, h, _⟩ := answers_spec (f := endClean 0) (m := one th) (t := 0)
    (by decide +kernel)
  exact ⟨m₁, h⟩
/-- A return to supervisor level, one that is refused at each of its bounds, and one at user level. -/
theorem witness_SystemInstructionsAct_return :
    let x (l : BitVec 2) (p : Word) : Thread := { th with priv := { level := l, su := { state := p <<< 4 }, ma := { state := p <<< 4 } } }
    SerialIssue (one (x 1 2)) 0 ∧ bitsOf (x 1 2).priv.su.state 5 4 = 2 ∧ bitsOf (x 2 3).priv.ma.state 5 4 = 3
      ∧ bitsOf (x 1 1).priv.su.state 5 4 = 1 ∧ (x 1 1).priv.level ≠ 0 ∧ (x 0 0).priv.level = 0
      ∧ SerialIssue (one (x 0 0)) 0 ∧ SerialIssue (one (x 2 3)) 0 ∧ SerialIssue (one (x 1 1)) 0 := by
  unfold SerialIssue; decide +kernel
theorem test_trap_targets : ([0, 1].map fun l => match exec (.trap 0 5) (st (one { th with priv := { level := BitVec.ofNat 2 l } })) with
    | .next s => ((threadAt s.m 0).exc.map fun e => (e.target.toNat, e.info.toNat, e.rpc.toNat))
    | _ => none) = [some (1, 5, 0x1004), some (2, 5, 0x1004)] := by decide +kernel
theorem test_wait : (match exec (.wait 0) (st (one th)) with
    | .next s => (threadAt s.m 0).run == .waiting && (threadAt s.m 0).pc == 0x1004
    | _ => false) = true := by decide +kernel

/-! ## Entry, interrupts, stopping -/

/-- A user thread whose supervisor handler is at 0x8000, events and the timer enabled. -/
def user : Thread := { th with priv := { level := 0, su := { state := 3, hbase := 0x8000 } } }
/-- Die 0 with source 5 pending for core 0. -/
def ringing : Events := { pend := 1#512 <<< 5, en := 1#512 <<< 5, mask := [(5, 1)] }
/-- Thread 0 in state `x`, its handler mapped, and source 5 pending if `e`. -/
def entering (x : Thread) (e : Bool) : Module :=
  let m := mapped 7 x
  if e then setEvents 0 ringing m else m

theorem witness_EntriesFollowTheirRules_exception :
    let e : Exc := { cause := 1, fval := 9, rpc := 0x1000, target := 0 }
    let x := { user with exc := some e }
    MayEnter (entering x false) 0 ∧ x.exc = some e ∧ x.run = .running ∧ e.target.toNat ≤ 1 ∧ x.priv.su.hbase ≠ 0
      ∧ x.priv.es.state.getLsbD 63 = false
      ∧ ∃ m₁, (fetchCheck 0 1 (x.priv.su.hbase + if e.cause = 0x0A then 0x100 else 0)).go (entering x false) = (.ok (), m₁)
          ∧ threadAt m₁ 0 = threadAt (entering x false) 0 := by
  unfold MayEnter
  refine ⟨by decide +kernel, by decide, by decide, by decide, by decide, by decide, ?_⟩
  let e : Exc := { cause := 1, fval := 9, rpc := 0x1000, target := 0 }
  obtain ⟨_, m₁, h⟩ := answers_spec (f := fetchCheck 0 1 0x8000) (t := 0) (m := entering { user with exc := some e } false)
    (by decide +kernel)
  exact ⟨m₁, h⟩
/-- Thread 0, in state `x`, as an interrupt takes it out of what holds it. -/
def interrupted (x : Thread) (m : Module) : Module :=
  setThread 0 { x with aperture := none, tile := x.tile.leaveHold } (withdrawWrite 0 m)

theorem witness_EntriesFollowTheirRules_external :
    MayEnter (entering user true) 0 ∧ atBoundary (entering user true) 0 = true ∧ user.stop = false ∧ user.priv.su.hbase ≠ 0
      ∧ eventLine (entering user true) 0 = true ∧ user.priv.su.state.getLsbD 0 = true
      ∧ ∃ m₁, (fetchCheck 0 1 0x8200).go (interrupted user (entering user true)) = (.ok (), m₁)
          ∧ threadAt m₁ 0 = threadAt (interrupted user (entering user true)) 0 := by
  unfold MayEnter
  refine ⟨by decide +kernel, by decide +kernel, by decide, by decide, by decide +kernel, by decide, ?_⟩
  obtain ⟨_, m₁, h⟩ := answers_spec (f := fetchCheck 0 1 0x8200) (t := 0)
    (m := interrupted user (entering user true)) (by decide +kernel)
  exact ⟨m₁, h⟩
/-- The alarm is due when TIME equals TALARM. -/
theorem witness_EntriesFollowTheirRules_timer :
    atBoundary (entering user false) 0 = true ∧ eventLine (entering user false) 0 = false ∧ user.priv.su.state.getLsbD 1 = true
      ∧ user.priv.talarm.toNat ≤ (entering user false).time.toNat ∧ user.priv.talarm.toNat = (entering user false).time.toNat
      ∧ ∃ m₁, (fetchCheck 0 1 0x8200).go (interrupted user (entering user false)) = (.ok (), m₁)
          ∧ threadAt m₁ 0 = threadAt (interrupted user (entering user false)) 0 := by
  refine ⟨by decide +kernel, by decide +kernel, by decide, by decide, by decide, ?_⟩
  obtain ⟨_, m₁, h⟩ := answers_spec (f := fetchCheck 0 1 0x8200) (t := 0)
    (m := interrupted user (entering user false)) (by decide +kernel)
  exact ⟨m₁, h⟩
/-- A waiting thread is woken into its handler, or, with interrupts off, only goes on. -/
theorem witness_EntriesFollowTheirRules_wake :
    let x := { user with run := .waiting }
    let y := { th with run := .waiting, stop := true }
    x.run = .waiting ∧ atBoundary (entering x true) 0 = true ∧ eventLine (entering x true) 0 = true
      ∧ (answers (fetchCheck 0 1 0x8200)
          (interrupted { x with run := .running } (setThread 0 { x with run := .running } (entering x true))) 0) = true
      ∧ y.run = .waiting ∧ wakes (one y) 0 = true ∧ y.stop = true ∧ MayEnter (one y) 0 := by unfold MayEnter; decide +kernel
theorem witness_EntriesFollowTheirRules_firmware :
    let e : Exc := { cause := 0x0A, rpc := 0x1004, target := 2 }
    let x := { th with exc := some e }
    x.exc = some e ∧ x.run = .running ∧ e.target = 2 ∧ e.cause = 0x0A ∧ MayEnter (one x) 0
      ∧ answers (fetchCheck 0 2 (x.priv.ma.hbase + 0x100)) (one x) 0 = true := by unfold MayEnter; decide +kernel
theorem test_exception_entry : (match exec (.exceptionEntry 0 .raised)
      (st (entering { user with exc := some { cause := 1, fval := 9, rpc := 0x1000, target := 0 } } false)) with
    | .next s => let x := threadAt s.m 0
                 x.pc == 0x8000 && x.priv.level == 1 && x.priv.su.rpc == 0x1000 && x.priv.su.why == 1 && x.priv.su.fval == 9
    | _ => false) = true := by decide +kernel
theorem test_external_event : (match exec (.externalEvent 0) (st (entering user true)) with
    | .next s => (threadAt s.m 0).pc == 0x8200 && (threadAt s.m 0).priv.su.why == 0x8000000000000040#64
    | _ => false) = true := by decide +kernel

theorem witness_ThreadsStopAtBoundaries_window :
    let x := { th with priv := { level := 1, su := { state := 4 } } }
    alive (one x) = true ∧ x.priv.level = 1 ∧ x.ni = true := by decide +kernel
theorem witness_ThreadsStopAtBoundaries_request :
    let x := { user with stop := true }
    x.stop = true ∧ atBoundary (one x) 0 = true := by decide +kernel
theorem witness_ThreadsStopAtBoundaries_stopped :
    let x := { user with run := .stopping }
    x.run = .stopping ∧ workDone (one x) 0 = true ∧ answers (endClean 0) (one x) 0 = true := by decide +kernel
theorem test_ni_expiry : (match exec (.niExpiry 0) (st (one { th with priv := { level := 1, su := { state := 4 } } })) with
    | .next s => (threadAt s.m 0).priv.su.state == 8
    | _ => false) = true := by decide +kernel

/-! ## Event controllers -/

theorem witness_EventControllersFollowTheirRules_edge :
    sourceExists up.board.part 0 5 = true ∧ moduleWide 5 = false ∧ (eventsOf up 0).en.getLsbD 5 = false
      ∧ (eventsOf (setEvents 0 ringing up) 0).en.getLsbD 5 = true
      ∧ sourceExists up.board.part 3 321 = true ∧ moduleWide 321 = true := by decide +kernel
theorem witness_EventControllersFollowTheirRules_claim :
    let m := setEvents 0 { ringing with mod := [(5, 9)] } (one th)
    alive m = true ∧ (eventsOf m 0).pend.getLsbD 5 = true ∧ (0 : Nat) / 96 = 0
      ∧ (Sparse.get 0 (eventsOf m 0).mask 5 : BitVec 48).getLsbD (0 / 2 % 48) = true
      ∧ ¬ (Sparse.get 0 (eventsOf m 0).mask 5 : BitVec 48).getLsbD (2 / 2 % 48) = true := by decide +kernel
theorem witness_EventControllersFollowTheirRules_hold :
    let m := setEvents 0 { ringing with held := 1#512 <<< 5 } up
    (eventsOf m 0).held.getLsbD 5 = true ∧ (Sparse.get 0 (eventsOf m 0).mask 5 : BitVec 48).getLsbD 0 = true
      ∧ (threadAt m 0).run = .idle ∧ (threadAt m 1).run = .idle := by decide +kernel
theorem test_ev_claim : (match exec (.evClaim 0 5 (some (0, 6))) (st (setEvents 0 { ringing with mod := [(5, 9)] } (one th))) with
    | .next s => (threadAt s.m 0).reg 6 == 5 && (eventsOf s.m 0).pend == 0 && (eventsOf s.m 0).held == 1#512 <<< 5
    | _ => false) = true := by decide +kernel
theorem test_ev_claim_other_die : (match exec (.evClaim 0 5 (some (96, 6))) (st (setThread 96 th (setEvents 0 ringing up))) with
    | .next s => (threadAt s.m 96).reg 6 == 0x3FF && (eventsOf s.m 0).pend == 1#512 <<< 5
    | _ => false) = true := by decide +kernel

/-! ## Vector instructions -/

/-- A thread with VCOUNT 4, bytes 0x7F 0x80 0xFF 1 in v1, and 1 1 2 3 in v2; v0 selects elements 0 and 2. -/
def vth : Thread := { th with vec := { count := 4, v := [(0, 5), (1, 0x01FF807F), (2, 0x03020101)] } }
def vop (ty : BitVec 3) (m : BitVec 1) : VecOp := { scalar := 0, vd := 3, vs1 := 1, src2 := 2, ty := ty, m := m }

theorem witness_IntegerVectorsWriteActiveElements :
    (∃ x, vectorForm (.vadd 0 (vop 0 0)) = some x ∧ x.op = vop 0 0 ∧ x.thread = 0)
    ∧ (vop 0 0).ty.toNat ≤ 3 ∧ ¬ ((vop 0 0).m = 1 ∧ (vop 0 0).vd = 0) ∧ VectorReady (one vth) 0 (vecRegs (vop 0 0))
    ∧ ScalarReady vth (vop 0 0) ∧ VectorReady (one vth) 0 (vecRegs { vop 3 1 with scalar := 1 })
    ∧ ScalarReady vth { vop 3 1 with scalar := 1 } := by
  unfold VectorReady ScalarReady
  exact ⟨⟨_, rfl, rfl, rfl⟩, by decide +kernel⟩
/-- A type past 3, 64-bit results of a narrowing, and a masked instruction that writes v0 are illegal. -/
theorem witness_IntegerVectorsWriteActiveElements_illegal : ¬ (vop 4 0).ty.toNat ≤ 3 ∧ ¬ (vop 3 0).ty ≠ 3
    ∧ (({ vop 0 1 with vd := 0 } : VecOp).m = 1 ∧ ({ vop 0 1 with vd := 0 } : VecOp).vd = 0) ∧ issuable (one vth) 0 = true := by
  decide +kernel
theorem test_vadd : (match exec (.vadd 0 (vop 0 0)) (st (one vth)) with
    | .next s => (threadAt s.m 0).vreg 3 == 0x04018180
    | _ => false) = true := by decide +kernel
theorem test_vsadd_masked : (match exec (.vsadd 0 (vop 0 1)) (st (one vth)) with
    | .next s => (threadAt s.m 0).vreg 3 == 0x0001007F && (threadAt s.m 0).vec.flags == Fp.fSAT
    | _ => false) = true := by decide +kernel
theorem test_vector_illegal : (match exec (.vadd 0 (vop 4 0)) (st (one vth)) with
    | .next s => ((threadAt s.m 0).exc.map fun e => e.cause) == some 1
    | _ => false) = true := by decide +kernel

theorem witness_FloatVectorsRoundOnce :
    (∃ x, floatForm (.vfadd 0 (vop 6 0)) = some x ∧ x.legal = true ∧ x.op = vop 6 0 ∧ x.thread = 0)
    ∧ (∃ x, floatForm (.vfsqrt 0 (vop 6 0)) = some x ∧ x.legal = false)
    ∧ 4 ≤ (vop 4 0).ty.toNat ∧ (vop 6 0).ty.toNat ≤ 6 ∧ ¬ 4 ≤ (vop 3 0).ty.toNat ∧ ¬ (vop 7 0).ty.toNat ≤ 6
    ∧ VectorReady (one vth) 0 (vecRegs (vop 6 0)) ∧ ScalarReady vth (vop 6 0) := by
  unfold VectorReady ScalarReady
  exact ⟨⟨_, rfl, rfl, rfl, rfl⟩, ⟨_, rfl, rfl⟩, by decide +kernel⟩
theorem witness_FloatVectorsRoundOnce_convert :
    let o : CvtOp := { vd := 3, vs1 := 1, vs2 := 0, src := 0, dst := 4 }
    let p : CvtOp := { vd := 3, vs1 := 1, vs2 := 3, src := 0, dst := 7 }
    o.src.toNat ≤ 4 ∧ o.dst.toNat ≤ 4 ∧ o.src ≠ o.dst ∧ o.vs2 = 0 ∧ VectorReady (one vth) 0 [o.vd, o.vs1]
      ∧ p.src = 0 ∧ 7 ≤ p.dst.toNat ∧ ({ p with dst := 11 } : CvtOp).dst.toNat ≤ 11 ∧ p.vd = p.vs2
      ∧ VectorReady (one vth) 0 [p.vd, p.vs1, p.vs2] := by unfold VectorReady; decide +kernel
/-- Codes 5 and 6, and into and out of an MX format with its scales in v4. -/
theorem witness_FloatVectorsRoundOnce_scales :
    let legal (o : CvtOp) : Bool :=
      let a := o.src.toNat
      let b := o.dst.toNat
      let scaled := (decide (7 ≤ b) && decide (b ≤ 11)) || (decide (7 ≤ a) && decide (a ≤ 11))
      a ≠ b && ((a == 0 && 5 ≤ b && b ≤ 11) || (5 ≤ a && a ≤ 11 && b == 0)) && (scaled || o.vs2 == 0)
    ([{ vd := 3, vs1 := 1, vs2 := 0, src := 0, dst := 5 }, { vd := 3, vs1 := 1, vs2 := 0, src := 6, dst := 0 },
      { vd := 3, vs1 := 1, vs2 := 4, src := 0, dst := 7 }, { vd := 3, vs1 := 1, vs2 := 4, src := 11, dst := 0 }] : List CvtOp).all legal = true
    ∧ VectorReady (one vth) 0 [3, 1, 4] := by unfold VectorReady; decide +kernel
/-- 1.5 + 2^-24 in FP32 rounds to even; a signalling NaN sets NV. -/
theorem test_vfadd : ([0x33800000, 0x7F800001].map fun b => match exec (.vfadd 0 (vop 6 0))
      (st (one { vth with vec := { count := 1, v := [(1, 0x3FC00000), (2, b)] } })) with
    | .next s => (((threadAt s.m 0).vreg 3).toNat == 0x3FC00000, (threadAt s.m 0).vec.flags == Fp.fNV)
    | _ => (false, false)) = [(true, false), (false, true)] := by decide +kernel

theorem witness_ComparesAndReductionsSummarise :
    (∃ h, compareForm (.vclt 0 (vop 0 0)) = some (0, vop 0 0, true, h))
    ∧ (∃ h, compareForm (.vclt 0 (vop 4 0)) = some (0, vop 4 0, false, h))
    ∧ (∃ h, compareForm (.vcfun 0 (vop 6 0)) = some (0, vop 6 0, true, h))
    ∧ (∃ j, reduceForm (.vrmax 0 (vop 0 0)) = some (0, vop 0 0, true, j))
    ∧ VectorReady (one vth) 0 ((vop 0 0).vd :: (vop 0 0).vs1 :: (vop 0 0).src2 :: maskReg (vop 0 0))
    ∧ isFloatType (vop 6 0).ty = true ∧ vth.vec.start.toNat < vecCount vth 32
    ∧ ({ vth with vec := { vth.vec with start := 4 } } : Thread).vec.start.toNat = vecCount vth 32 := by
  unfold VectorReady
  exact ⟨⟨_, rfl⟩, ⟨_, rfl⟩, ⟨_, rfl⟩, ⟨_, rfl⟩, by decide +kernel⟩
/-- Signed and unsigned maximum of 0x7F, 0x80, 0xFF, 1 with 1, and a mask of those below the elements of v2. -/
theorem test_reductions : ([.vrmax 0 (vop 0 0), .vrmaxu 0 (vop 0 0), .vrsum 0 (vop 0 0), .vclt 0 (vop 0 0)] : List Instr).map
    (fun i => match exec i (st (one vth)) with
      | .next s => ((threadAt s.m 0).vreg 3).toNat
      | _ => 0) = [0x7F, 0xFF, 0x00, 0b1110] := by decide +kernel

theorem witness_PermutationsMoveElements : VectorReady (one vth) 0 (vecRegs (vop 2 0)) ∧ (vth.src (vop 2 0).src2).isSome = true
    ∧ (vop 2 0).ty ≠ 7 ∧ ¬ ((vop 2 0).m = 1 ∧ (vop 2 0).vd = 0) ∧ isIntType (vop 2 0).ty = true ∧ (vop 2 0).vd ≠ (vop 2 0).vs1
    ∧ (vop 2 0).m = 0 ∧ (vth.src (vop 2 0).vs1).isSome = true ∧ vth.writable (vop 2 0).vd = true := by
  unfold VectorReady; decide +kernel
theorem witness_PermutationsMoveElements_zero_fields : let o : VecOp := { vop 2 0 with vs1 := 0, src2 := 0 }
    VectorReady (one vth) 0 (vecRegs o) ∧ (vth.src o.src2).isSome = true ∧ o.vs1 = 0 ∧ o.src2 = 0 := by
  unfold VectorReady; decide +kernel
/-- Slides by g3 = 3 of the bytes 0x7F, 0x80, 0xFF, 1, which may not pass VCOUNT upwards. -/
theorem test_slides : ([.vshdn 0 { vop 0 0 with src2 := 3 }, .vshup 0 { vop 0 0 with src2 := 3 }] : List Instr).map
    (fun i => match exec i (st (one vth)) with
      | .next s => ((threadAt s.m 0).vreg 3).toNat
      | _ => 0) = [1, 0x7F000000] := by decide +kernel
theorem test_setvc : (match exec (.setvc 0 6 1 3) (st (one vth)) with
    | .next s => (threadAt s.m 0).vec.count == 64 && (threadAt s.m 0).reg 6 == 64
    | _ => false) = true := by decide +kernel

theorem witness_MasksAndVectorPower : VectorReady (one vth) 0 [(vop 0 0).vd, (vop 0 0).vs1, (vop 0 0).src2] ∧ (vop 0 0).ty = 0
    ∧ (vop 0 0).m = 0 ∧ vth.writable (vop 0 0).vd = true ∧ (∀ k, k < 4 → (vth.vreg 3).getLsbD k = false)
    ∧ (vth.vreg 1).getLsbD 0 = true := by unfold VectorReady; decide +kernel
theorem witness_MasksAndVectorPower_power :
    (coreAt (one vth) 0).vecUp = true ∧ (threadAt (one vth) 0).vec.hold = false ∧ (threadAt (one vth) 1).run = .idle
      ∧ (coreAt (setCore 0 { waking := true } up) 0).waking = true ∧ (coreAt up 0).vecUp = false ∧ (coreAt up 0).waking = false
      ∧ issuable (setThread 0 vth up) 0 = true ∧ (vop 2 0).ty.toNat ≤ 2 ∧ (coreAt (setThread 0 vth up) (0 / 2)).vecUp = false := by
  decide +kernel
theorem test_vmlow : (match exec (.vmlow 0 { vop 0 0 with vd := 6, vs1 := 3, src2 := 0 }) (st (one vth)) with
    | .next s => (threadAt s.m 0).reg 6 == BitVec.allOnes 64
    | _ => false) = true := by decide +kernel

/-! ## Vector memory, atomics, reductions and fences -/

def vmem : VMemOp := { v := 3, rb := 1, x := 0, size := 1, m := 0, mode := 0, ix := 0, sc := 0, hint := 0 }
/-- Thread 0 in precise mode, two elements, with the line at 0x10000 in its L1. -/
def vcached (count : BitVec 10) : Module := cached { vth with vec := { count := count, precise := true } }

/-- Elements run on a module: those that fault, and whether a later one waits. -/
theorem witness_VectorMemoryActsPerElement_load :
    let m := vcached 2
    let x := threadAt m 0
    let r := runElems true (fun k => loadElement 0 vmem (vmemAddress vmem x 0x10000 0 k)) (vmemActives vmem x) { m := m }
    VectorReady m 0 vmem.vregs ∧ vmem.legal true = true ∧ vmemScalars vmem x = some (0x10000, 0)
      ∧ r.blocked = none ∧ r.faults = [] ∧ x.vec.precise = true := by unfold VectorReady; decide +kernel
/-- A load whose element 1 is misaligned: the base is odd from there on. -/
theorem witness_VectorMemoryActsPerElement_load_fault :
    let o := { vmem with mode := 1, x := 3 }
    let m := vcached 2
    let x := threadAt m 0
    let r := runElems true (fun k => loadElement 0 o (vmemAddress o x 0x10000 3 k)) (vmemActives o x) { m := m }
    vmemScalars o x = some (0x10000, 3) ∧ o.legal true = true ∧ r.blocked = none ∧ r.faults = [(1, .exc 3 0x10003)] := by
  decide +kernel
theorem witness_VectorMemoryActsPerElement_store :
    let m := vcached 2
    let x := threadAt m 0
    let o := { vmem with mode := 1, x := 3 }
    let run (o : VMemOp) (d : Word) : ElemRun := runElems true (fun k => storeElement 0 o x (vmemAddress o x 0x10000 d k) k) (vmemActives o x) { m := m }
    (∃ f, elementForm (.vst 0 vmem) = some f ∧ f.legal = true ∧ f.thread = 0 ∧ f.op = vmem)
      ∧ VectorReady m 0 vmem.vregs ∧ vmemScalars vmem x = some (0x10000, 0) ∧ x.vec.precise = true
      ∧ (run vmem 0).blocked = none ∧ (run vmem 0).faults = []
      ∧ (run o 3).blocked = none ∧ (run o 3).faults = [(1, .exc 3 0x10003)] := by
  unfold VectorReady
  exact ⟨⟨_, rfl, rfl, rfl, rfl⟩, by decide +kernel⟩
/-- Imprecise: a load and a store of which element 1 is misaligned, and the elements written among those that are not. -/
theorem witness_VectorMemoryActsPerElement_imprecise :
    let o := { vmem with mode := 1, x := 3 }
    let m := cached { vth with vec := { count := 2 } }
    let x := threadAt m 0
    let act (k : Nat) : Acc Nat := storeElement 0 o x (vmemAddress o x 0x10000 3 k) k
    let load := runElems x.vec.precise (fun k => loadElement 0 o (vmemAddress o x 0x10000 3 k)) (vmemActives o x) { m := m }
    let store := runElems x.vec.precise act (vmemActives o x) { m := m }
    x.vec.precise = false ∧ VectorReady m 0 o.vregs ∧ o.legal true = true ∧ vmemScalars o x = some (0x10000, 3)
      ∧ load.blocked = none ∧ load.faults = [(1, .exc 3 0x10003)] ∧ store.blocked = none ∧ store.faults = [(1, .exc 3 0x10003)]
      ∧ ∀ l ∈ [[], [0]], (runElems false act l { m := { m with freeCount := m.freeCount + 1 } }).blocked = none := by
  unfold VectorReady; decide +kernel
theorem witness_VectorMemoryActsPerElement_imprecise_sound :
    let m := cached { vth with vec := { count := 2 } }
    let x := threadAt m 0
    let r := runElems false (fun k => loadElement 0 vmem (vmemAddress vmem x 0x10000 0 k)) (vmemActives vmem x) { m := m }
    x.vec.precise = false ∧ r.blocked = none ∧ r.faults = [] := by decide +kernel
theorem witness_VectorMemoryActsPerElement_answer :
    let x := { vth with vec := { vth.vec with pending := [{ vd := some 3, faults := [{}] }] } }
    (threadAt (one x) 0).vec.pending = { vd := some 3, faults := [{}] } :: [] := by decide +kernel
theorem test_vld : (match exec (.vld 0 vmem) (st (vcached 2)) with
    | .next s => (threadAt s.m 0).vreg 3 == 0x83828180 && (threadAt s.m 0).pc == 0x1004
    | _ => false) = true := by decide +kernel
theorem test_vld_fault : (match exec (.vld 0 { vmem with mode := 1, x := 3 }) (st (vcached 2)) with
    | .next s => (threadAt s.m 0).vreg 3 == 0x8180 && (threadAt s.m 0).vec.start == 1 && (threadAt s.m 0).pc == 0x1000
    | _ => false) = true := by decide +kernel

/-- The running module with thread 0 and the line at 0x10000 in its home slice. -/
def held : Module := setSlice (homeSlice 0x10000) { lines := [{ line := 0x10000, way := 0, data := cachedLine.data }] } (one th)

theorem witness_AtomicsAndReductionsUpdateTheirBytes :
    (∃ f, atomicForm (.acas 0 6 1 2 0) = some f ∧ f.thread = 0 ∧ f.compares = true)
    ∧ issuable held 0 = true ∧ SourcesReady th [1, 2] ∧ SourcesReady th [6] ∧ th.unnamed 6 = true ∧ 0x10000 % 8 = 0
    ∧ l1Find (coreAt held (0 / 2)) (lineOf 0x10000) = none ∧ (sliceAt held (homeSlice 0x10000)).miss (lineOf 0x10000) = none
    ∧ (∀ q ∈ (sliceAt held (homeSlice 0x10000)).queue, lineOf q.addr ≠ lineOf 0x10000)
    ∧ ∃ l, (sliceAt held (homeSlice 0x10000)).find (lineOf 0x10000) = some l ∧ touchesPoison l.poison (0x10000 % 128) 8 = false := by
  unfold SourcesReady
  exact ⟨⟨_, rfl, rfl, rfl⟩, by decide +kernel, by decide +kernel, by decide +kernel, by decide +kernel, by decide +kernel,
    by decide +kernel, by decide +kernel, by decide +kernel, { line := 0x10000, way := 0, data := cachedLine.data }, by decide +kernel, by decide +kernel⟩
/-- The core's own L1 holds the line, with a store in its first byte. -/
def ownLine : Module :=
  setCore 0 { coreAt held 0 with l1d := [{ cachedLine with data := List.replicate 128 0x5A, mask := 1 }] } held
theorem witness_AtomicsAndReductionsUpdateTheirBytes_own :
    LineStands ownLine (lineOf 0x10000) { line := 0x10000, way := 0, data := cachedLine.data }
    ∧ (∀ y, l1Find (coreAt ownLine (0 / 2)) (lineOf 0x10000) = some y → y.spoiled = [] ∧ y.data.length = 128)
    ∧ (elemPlace 0 .update 4 (sourceValue th 1)).go ownLine = (.ok (.mem 0x10000), ownLine) ∧ issuable ownLine 0 = true := by
  refine ⟨⟨by decide +kernel, rfl, by decide +kernel, by decide +kernel⟩, ?_, rfl, by decide +kernel⟩
  intro y hy
  have : y = { cachedLine with data := List.replicate 128 0x5A, mask := 1 } := by
    have h : l1Find (coreAt ownLine (0 / 2)) (lineOf 0x10000) = some { cachedLine with data := List.replicate 128 0x5A, mask := 1 } := by
      decide +kernel
    exact (Option.some.inj (h.symm.trans hy)).symm
  rw [this]; decide +kernel
theorem test_atomic_own : (match exec (.aadd 0 6 1 2 0) (st ownLine) with
    | .next s => ((sliceAt s.m (homeSlice 0x10000)).find 0x10000).map (fun l => lineValue l.data 0 8) == some 0x8786858483828161
        && (coreAt s.m 0).l1d == []
    | _ => false) = true := by decide +kernel
theorem witness_AtomicsAndReductionsUpdateTheirBytes_place :
    (elemPlace 0 .update 4 (sourceValue th 1)).go held = (.ok (.mem 0x10000), held) := rfl
theorem witness_AtomicsAndReductionsUpdateTheirBytes_red : redForm (.redInt32Max 0 1 2) = some (0, 3, 1, 2) := rfl
theorem witness_AtomicsAndReductionsUpdateTheirBytes_apply :
    let r : Request := { ask := .reduce none 3 7, addr := 0x1007C }
    let m := setSlice 0 { (sliceAt held (homeSlice 0x10000)) with reds := [r] } up
    alive m = true ∧ (sliceAt m 0).reds = r :: [] ∧ r.ask = .reduce none 3 7 ∧ ((sliceAt m 0).find (lineOf r.addr)).map (fun l => touchesPoison l.poison (r.addr % 128) 4) = some false
      ∧ r.addr % redBytes 3 = 0 ∧ 7 < 2 ^ (8 * redBytes 3) := by decide +kernel
theorem test_acas_word : (match exec (.acas 0 6 1 2 0) (st (setThread 0 { th with g := [(1, 0x10000), (2, 7), (6, 0xFFFFFFFF83828180#64)] } held)) with
    | .next s => ((sliceAt s.m (homeSlice 0x10000)).find 0x10000).map (fun l => lineValue l.data 0 8) == some 0x8786858400000007
    | _ => false) = true := by decide +kernel
theorem test_amin_signed : (match exec (.amin 0 6 1 2 0) (st held) with
    | .next s => ((sliceAt s.m (homeSlice 0x10000)).find 0x10000).map (fun l => lineValue l.data 0 4) == some 0x83828180
                   && ((threadAt s.m 0).loads.map fun p => p.data) == [some 0xFFFFFFFF83828180#64]
    | _ => false) = true := by decide +kernel

theorem witness_FencesCompleteTheirScope : issuable (one th) 0 = true ∧ accessesDone (one th) 0 = true ∧ NothingToReport th false
    ∧ SourcesReady th [1, 6] ∧ sourceValue th 6 = 0
    ∧ accessesDone (one { th with loads := [{ rd := 6, pc := 0, addr := 0 }] }) 0 = false := by
  unfold NothingToReport SourcesReady
  exact ⟨by decide +kernel, by decide +kernel, by decide, by decide, by decide, by decide +kernel⟩
theorem witness_FencesCompleteTheirScope_clean : ∃ m₁, (l1Clean 0 (fun _ => true) true).go (cached th) = (.ok (), m₁)
    ∧ accessesDone m₁ 0 = true := by
  have h : (match (l1Clean 0 (fun _ => true) true).go (cached th) with
    | (.ok _, m) => accessesDone m 0
    | _ => false) = true := by decide +kernel
  split at h
  · rename_i m e; exact ⟨m, e, h⟩
  · cases h
/-- A range that ends at 2^48 is in bounds, and one byte more is not. -/
theorem witness_FencesCompleteTheirScope_range : let x := { th with g := [(1, BitVec.ofNat 64 (2 ^ 48 - 1)), (2, 2)] }
    SourcesReady x [1, 2] ∧ 0 < (sourceValue x 2).toNat ∧ (sourceValue x 1).toNat + (sourceValue x 2).toNat = 2 ^ 48 + 1 := by
  unfold SourcesReady; decide
theorem test_fence_inv : (match exec (.fenceInv 0 0 0) (st (cached th)) with
    | .next s => (coreAt s.m 0).l1d == [] && (threadAt s.m 0).pc == 0x1004
    | _ => false) = true := by decide +kernel

/-! ## Tile instructions -/

/-- A thread with a full lease. -/
def tth : Thread := { th with tile := { grant := 1, lease := 1 } }
/-- INT8, 1 x 1 x 2, accumulating in array 0. -/
def mma : TmmaOp := { m := 0, n := 0, k := 1, fa := 5, acc := 1, fw := 5, acct := 3, wt := 7, t3 := 0, t2 := 0, t1 := 0, t0 := 2, amask := 1 }
def move (fmt : BitVec 4) : TileMoveOp :=
  { rb := 0, rs := 0, arr := 0, acct := 0, fmt := fmt, rows := 0, gs := 0, dtile := 0, darr := 0, hint := 0, red := 0 }
def tmem : TileMemOp := { rb := 1, rs := 4, tile := 8, arr := 0, tr := 0, fmt := 5, rows := 1, cols := 31, hint := 0 }

theorem witness_TileInstructionsFollowTheirQueue : issuable (one tth) 0 = true
    ∧ mmaLegal 1 mma = true ∧ mmaLegal 1 { mma with amask := 0 } = false
    ∧ taccvLegal 1 { move 0 with rb := 5 } = true ∧ taccvLegal 1 (move 1) = false
    ∧ tacctLegal 1 (move 1) = true ∧ tacctLegal 1 (move 0) = false ∧ taccsLegal 1 (move 7) = false
    ∧ tth.tile.queue.length < 16 ∧ (coreAt (one tth) (0 / 2)).vecUp = true ∧ tth.vecAwaits [5] = false ∧ SourcesReady tth [0] := by
  unfold SourcesReady; decide +kernel
theorem witness_TileInstructionsFollowTheirQueue_full :
    let e : TileEntry := { id := 0, op := .mma mma, half := false }
    let x := { tth with tile := { tth.tile with queue := List.replicate 16 e } }
    issuable (one x) 0 = true ∧ 16 ≤ x.tile.queue.length := by decide +kernel
/-- Rows checked, none or one of them stopped, with the thread as it was. -/
def checked (r : List (Nat × List (Nat × Nat)) × Option (Nat × Stop) × Module) (stop : Option (Nat × Stop)) : Bool :=
  decide (r.2.1 = stop ∧ threadAt r.2.2 0 = threadAt (one tth) 0)
theorem witness_TileInstructionsFollowTheirQueue_memory :
    tileMemLegal 1 false tmem = true ∧ tileMemLegal 1 true { tmem with fmt := 0, cols := 3 } = true
    ∧ tth.loads.any (·.data.isNone) = false ∧ tth.vec.pending = [] ∧ SourcesReady tth [tmem.rb, tmem.rs]
    ∧ checked (checkRows (fun r => checkRow 0 .read 1 32 (0x10000 + BitVec.ofNat 64 r * 64)) [0, 1] (one tth)) none = true
    ∧ checked (checkRows (fun r => checkRow 0 .write 1 32 (0x10000 + BitVec.ofNat 64 r * 64)) [0, 1] (one tth)) none = true := by
  unfold SourcesReady; decide +kernel
/-- A new load, one that holds its thread's dispatch, and rows a half lease does and does not name. -/
theorem witness_TileInstructionsFollowTheirQueue_dispatch :
    let e : TileEntry := { newTileEntry tth (.load tmem) with base := 0x10000, stride := 64 }
    let x := { tth with tile := { tth.tile with hold := some { e with rows := [(0, [])] } } }
    MayDispatch (one tth) 0 (.load tmem) (tileMemLegal 1 false tmem) [tmem.rb, tmem.rs] e e
    ∧ MayDispatch (one x) 0 (.load tmem) false [] e { e with rows := [(0, [])] }
    ∧ MayDispatch (one tth) 0 (.toMem (move 6)) true [] e e
    ∧ rowNamed true 7 15 = true ∧ rowNamed true 7 16 = false ∧ rowNamed true 8 31 = true ∧ rowNamed false 7 31 = true := by
  refine ⟨?_, ?_, ?_, by decide⟩
  · exact And.intro (by decide +kernel) (And.intro (by decide) (And.intro (by decide) (And.intro (by decide)
      (And.intro rfl (And.intro (by unfold SourcesReady; decide) rfl)))))
  · exact And.intro (by decide +kernel) (And.intro rfl rfl)
  · exact And.intro (by decide +kernel) (And.intro rfl (And.intro (by decide) (And.intro (by decide)
      (And.intro rfl (And.intro (by unfold SourcesReady; decide) rfl)))))
/-- Row 1 passes 2^48. -/
theorem witness_TileInstructionsFollowTheirQueue_fault :
    let x := { tth with g := [(1, 0x10000), (4, BitVec.ofNat 64 (2 ^ 48))] }
    SourcesReady x [1, 4] ∧ issuable (one x) 0 = true ∧
      (checkRows (fun r => checkRow 0 .read 1 32 (0x10000 + BitVec.ofNat 64 r * BitVec.ofNat 64 (2 ^ 48))) [0, 1] (one x)).2.1 =
        some (1, .exc 5 (2 ^ 48 + 0x10000)) := by unfold SourcesReady; decide +kernel
theorem witness_TileInstructionsFollowTheirQueue_taccs :
    taccsLegal 1 { move 6 with rb := 1, rs := 4 } = true ∧ SourcesReady tth [1, 4, 0]
    ∧ checked (checkRows (fun r => checkRow 0 .write 4 128 (0x10000 + BitVec.ofNat 64 r * 64)) [0] (one tth)) none = true := by
  unfold SourcesReady; decide +kernel

/-- A thread with one tile instruction queued, and the module in which activation row 0 of t2 is 3, -4 and weight row 0 of
w7 is 5, 6. -/
def queued (e : TileEntry) : Module :=
  setCore 0 { act := [(64, { data := 0xFC03 })], wt := [(224, { data := 0x0605 })], accum := [(96, 100)] }
    (setThread 0 { tth with tile := { tth.tile with queue := [e] } } up)
def mmaEntry : TileEntry := { id := 4, op := .mma mma, half := false }
theorem witness_TileInstructionsFollowTheirQueue_issue : tileAt (queued mmaEntry) 0 4 = some mmaEntry ∧ mmaEntry.op = .mma mma
    ∧ tileRuns (queued mmaEntry) 0 = true ∧ mayIssue (threadAt (queued mmaEntry) 0) mmaEntry = true := by decide +kernel
/-- 100 + 3 * 5 - 4 * 6 = 91. -/
theorem test_tmma : (match exec (.tileIssue 0 4) (st (queued mmaEntry)) with
    | .next s => accElem (coreAt s.m 0) 0 false 0 3 0 0
    | _ => 0) = 91 := by decide +kernel
def loadEntry (issued : Bool) : TileEntry :=
  { id := 4, op := .load tmem, half := false, base := 0x10000, stride := 64, issued := issued, rows := [(0, [(0x10000, 32)])] }
theorem witness_TileInstructionsFollowTheirQueue_load :
    tileAt (queued (loadEntry false)) 0 4 = some (loadEntry false) ∧ (loadEntry false).loads = some (tmem, false)
    ∧ tileRuns (queued (loadEntry false)) 0 = true ∧ mayIssue (threadAt (queued (loadEntry false)) 0) (loadEntry false) = true
    ∧ alive (queued (loadEntry true)) = true ∧ (loadEntry true).issued = true
    ∧ (loadRows 0 (loadEntry true) tmem false (loadEntry true).rows (queued (loadEntry true))).1 = none ∧ tmem.tr = 0 := by
  decide +kernel
theorem test_tld : (match exec (.tileLoadDataReturn 0 4)
      (st (let m := queued (loadEntry true); setCore 0 { coreAt m 0 with l1d := [cachedLine] } m)) with
    | .next s => bitsOf (tileRowAt (coreAt s.m 0) 0 false 8 0 0).data 31 0 == 0x83828180 && (threadAt s.m 0).tile.queue == []
    | _ => false) = true := by decide +kernel

/-! ## LLC slices and memory channels -/

def home : Nat := homeSlice 0x400000000
/-- A slice with one miss register open for the line at 2^34, whose waiter is a load of thread 0 to register 6. -/
def missing : Module :=
  setSlice home { misses := [{ line := 0x400000000, waiters := [{ ask := .load 0 6 8 false, addr := 0x400000008 }] }] }
    (one { th with loads := [{ rd := 6, pc := 0x1000, addr := 0x400000008 }] })
theorem witness_LlcServesMisses_fill :
    alive missing = true ∧ dramReady missing 0x400000000 = true ∧ readGranted missing 0x400000000 = true
    ∧ lineOf 0x400000008 = 0x400000000
    ∧ (sliceAt missing home).miss 0x400000000 =
        some { line := 0x400000000, waiters := [{ ask := .load 0 6 8 false, addr := 0x400000008 }] }
    ∧ memPoison missing 0x400000000 = 0 ∧ (sliceAt missing home).usable 15 = true
    ∧ (sliceAt missing home).wayLine (setOf 0x400000000) 15 = none ∧ (sliceAt missing home).find 0x400000000 = none
    ∧ { rd := 6, pc := 0x1000, addr := 0x400000008 } ∈ (threadAt missing 0).loads := by decide +kernel
theorem test_llc_fill : (match exec (.llcFill home 0x400000000)
      (st { missing with mem := [(0x400000008, 0x5A), (0x40000000F, 1)] }) with
    | .next s => ((threadAt s.m 0).loads.map fun p => p.data) == [some 0x010000000000005A#64] && (sliceAt s.m home).misses == []
    | _ => false) = true := by decide +kernel
theorem witness_LlcServesMisses_grant :
    let r : Request := { ask := .load 0 6 8 false, addr := 0x400000008 }
    let m := setSlice home { queue := [r] } up
    alive m = true ∧ (sliceAt m home).queue = [] ++ r :: [] ∧ (sliceAt m home).miss 0x400000000 = none
    ∧ (sliceAt m home).find 0x400000000 = none ∧ (sliceAt m home).entry 0x400000000 = none
    ∧ (sliceAt m home).underCap 0x400000000 = true ∧ (sliceAt m home).misses.length < sliceRegisters m := by decide +kernel
/-- A request whose line has a register already stands before it. -/
theorem witness_LlcServesMisses_passed_over :
    let q : Request := { ask := .load 0 6 8 false, addr := 0x10000 }
    grantable (setSlice home { queue := [q], bankCap := 1, misses := [{ line := 0x10000 + 128 * 515, waiters := [] }] } up) home q = false := by
  decide +kernel
/-- A slice with one line in its eviction buffer. -/
def evicting (sent : Bool) : Module :=
  setSlice home { evicted := [{ line := 0x400000000, data := cachedLine.data, sent := sent }] } up
theorem witness_LlcServesMisses_evict :
    let e : Evicted := { line := 0x400000000, data := cachedLine.data }
    (sliceAt (evicting false) home).entry 0x400000000 = some e ∧ alive (evicting false) = true ∧ e.sent = false
    ∧ dramReady (evicting false) 0x400000000 = true ∧ (∀ r ∈ (sliceAt (evicting false) home).reds, lineOf r.addr ≠ 0x400000000)
    ∧ e.data.length = 128 ∧ Memory.wf (evicting false).mem = true
    ∧ lineReady (evicting false) 0x400000000 = true
    ∧ (sliceAt (evicting true) home).entry 0x400000000 = some { e with sent := true } ∧ e.redirty = false := by decide +kernel
theorem test_eviction : (match exec (.evictionWriteBack home 0x400000000) (st (evicting false)) with
    | .next s => memGet s.m.mem 0x40000007F == 0xFF && memGet s.m.mem 0x400000080 == 0 && Memory.wf s.m.mem
    | _ => false) = true := by decide +kernel
/-- The last line a prefetch may reach of a run of thread 0, upwards and downwards, and one line further. -/
theorem witness_LlcServesMisses_prefetch :
    let line := 0x400800000
    let up4 := sliceIndex line + 4 - sliceIndex (line + 64 * 128 * 4)
    let last (d : Bool) : Nat := if d then line + 64 * 128 * 4 else line - 64 * 128 * 4
    let m (d : Bool) := setSlice (homeSlice line) { runs := [{ who := 1, last := last d, descends := some d }] } up
    let k (d : Bool) := sliceAt (m d) (homeSlice line)
    up4 = 0 ∧ ∀ d, alive (m d) = true ∧ (k d).pfEn = true ∧ line % 128 = 0 ∧ plainMemory (m d) line = true
    ∧ (k d).ahead line = true ∧ 2 ^ Nat.min 3 (k d).pfDepth.toNat = 4 ∧ (k d).find line = none ∧ (k d).entry line = none
    ∧ (k d).miss line = none ∧ (k d).underCap line = true ∧ (k d).misses.length < sliceRegisters (m d)
    ∧ (k d).queue = [] := by decide +kernel
/-- The running module whose thread 0 goes up by 256 bytes a time and stood at `last`. -/
def striding (last : Nat) : Module :=
  let m := one th
  setCore 0 { coreAt m 0 with follow := [(0, { last := last, step := 256, steady := true })] } m
/-- Four strides ahead within the page of 4 KiB, and no further. -/
theorem witness_LlcServesMisses_stride : (∃ r, Sparse.find (coreAt (striding 0xFC00) 0).follow 0 = some r ∧ r.ahead 0xFFFF = false
      ∧ r.ahead 0xFF00 = true ∧ r.ahead 0x10000 = false) ∧ Sparse.find (coreAt (striding 0x10000) 0).follow 0 =
        some { last := 0x10000, step := 256, steady := true } := ⟨⟨_, rfl, by decide⟩, rfl⟩
theorem witness_LlcServesMisses_l1 : let one (_ : Thread) := striding 0xFF00
    alive (one th) = true ∧ (threadAt (one th) 0).run = .running ∧ (threadAt (one th) 0).priv.level = 2
    ∧ locateMachine (one th) .read 0x10000 = some (.mem 0x10000) ∧ l1Find (coreAt (one th) (0 / 2)) (lineOf 0x10000) = none
    ∧ ∃ d m₁, llcReadBy 1 true (lineOf 0x10000) 0 (one th) = some (d, m₁) ∧ l1Victim (coreAt m₁ (0 / 2)) (lineOf 0x10000) = none := by
  refine ⟨by decide +kernel, by decide +kernel, by decide +kernel, by decide +kernel, by decide +kernel, ?_⟩
  have h : (match llcReadBy 1 true (lineOf 0x10000) 0 (striding 0xFF00) with
    | some (_, m) => (l1Victim (coreAt m (0 / 2)) (lineOf 0x10000)).isNone
    | none => false) = true := by decide +kernel
  split at h
  · rename_i d m e; exact ⟨d, m, e, Option.isNone_iff_eq_none.mp h⟩
  · cases h

theorem witness_WaysAndChannelsFollowTheirSequences_write :
    let k : Slice := { goingOff := 2 }
    ({} : Slice).goingOff = 0 ∧ ({} : Slice).goingOn = 0 ∧ k.goingOff ≠ 0 := by decide
/-- A dirty line in way 15, which goes off. -/
def goingOff : Module :=
  setSlice home { goingOff := 0x8000, lines := [{ line := 0x400000000, way := 15, data := cachedLine.data, dirty := true }] } up
theorem witness_WaysAndChannelsFollowTheirSequences_complete :
    let k := sliceAt goingOff home
    Memory.wf goingOff.mem = true ∧ k.goingOff ≠ 0 ∧ k.nextEn = none
    ∧ ∀ l ∈ k.lines, k.goingOff.getLsbD l.way = true → k.busy l.line = false ∧ (l.dirty = true → lineReady goingOff l.line = true) := by
  decide +kernel
theorem test_way_off : (match exec (.waySequenceComplete home) (st goingOff) with
    | .next s => (sliceAt s.m home).lines == [] && (sliceAt s.m home).wayOn == 0x7FFF && memGet s.m.mem 0x400000000 == 0x80
    | _ => false) = true := by decide +kernel
theorem test_wayen_zero : (match exec (.wayPowerDown 0 0) (st up) with
    | .next s => (sliceAt s.m 0).wayEn == 1 && (sliceAt s.m 0).goingOff == 0xFFFE
    | _ => false) = true := by decide +kernel
theorem witness_WaysAndChannelsFollowTheirSequences_channels :
    let m := { setDram 0 { trained := true } up with time := 10000, clocks := { up.clocks with standby := true } }
    alive m = true ∧ lineReady m 0x400000000 = true ∧ lineReady m 0x10000 = true ∧ m.clocks.standby = true
    ∧ 10000 ≤ (m.time - (dramAt m 0).lastAccess).toNat ∧ (dramAt m 0).trained = true ∧ (dramAt m 0).blocked = false
    ∧ (dramAt m 0).lost = false := by decide +kernel
/-- The third and the fourth failure. -/
theorem witness_WaysAndChannelsFollowTheirSequences_retrain :
    let d (n : Nat) : DramChannel := { trained := true, blocked := true, attempts := n }
    (d 2).blocked = true ∧ (d 2).lost = false ∧ (d 2).attempts < 3 ∧ 3 ≤ (d 3).attempts ∧ up.errors.fatal = none := by decide
theorem test_retrain_lost : (match exec (.retrainComplete 5 false) (st (setDram 5 { trained := true, blocked := true, attempts := 3 } up)) with
    | .next s => (dramAt s.m 5).lost && !alive s.m && (s.m.errors.fatal.map fun r => r.dcode) == some 0xF4
    | _ => false) = true := by decide +kernel

/-! ## Basin jobs, engines and arbiters -/

/-- A started job of operation `op` and revision 1 with the record bytes listed. -/
def job (op : Nat) (l : List (Nat × Nat)) : Job :=
  { id := 0, addr := 0x8000, record := listed 64 ((0, op) :: (1, 0x10) :: l), thread := 0, task := 0, asid := 0, tag := 0
    ring := 0, level := 1, started := true, total := 1 }
/-- One FP32 element at X = 0x10000, Y = 0x20000, Z = 0x30000, whose ALPHA is 2.0. -/
def operands : List (Nat × Nat) := [(20, 1), (26, 1), (34, 2), (42, 3), (51, 0x40)]
/-- The running module with stack 0 as `k` says, whose engines reach the first 2^40 bytes. -/
def basin (k : Stack) : Module :=
  { setStack 0 k up with
    tlbs := [(handleStack 0, [{ asid := 0, va := 0, log := 40, pa := 0, perms := 7 }])] }
/-- A stack with one job, the next identifier being 1. -/
def with1 (j : Job) : Stack := { jobs := [j], nextId := 1 }

theorem witness_BasinJobsRunTheirCourse_post :
    let m (lvl : BitVec 2) := setThread 0 { th with priv := { level := lvl } } up
    alive (m 1) = true ∧ stackPresent (m 1).board.part 7 = true ∧ unitGated (m 1) (handleStack 7) = false
    ∧ (threadAt (m 2) 0).priv.level = 2 ∧ (threadAt (m 1) 0).priv.level ≠ 2
    ∧ ((stackAt (m 1) 7).jobs.filter fun j => j.kind.isNone && !j.started).length < 256 := by decide +kernel
/-- The last place of the queue. -/
theorem witness_BasinJobsRunTheirCourse_post_last :
    ((stackAt (basin { jobs := List.replicate 255 { job 5 [] with started := false } }) 0).jobs.filter fun j =>
      j.kind.isNone && !j.started).length < 256 := by decide +kernel
theorem test_post : (match exec (.jobPost (some 0) 0 0xFFFF00000000807F) (st (setThread 0 { th with priv := { level := 1 } } up)) with
    | .next s => ((stackAt s.m 0).jobs.map fun j => (j.addr, j.level, j.started)) == [(0x8040, 1, false)]
    | _ => false) = true := by decide +kernel
theorem witness_BasinJobsRunTheirCourse_start :
    let start (j : Job) : Bool := match (checkJob j (j.reach 0)).go (basin (with1 j)) with
      | (.ok (why, j'), m) => (why == if j.op = 5 then none else some (0x40, 0)) && j'.id == j.id && (jobAt m 0 j.id).isSome
          && stackRuns m 0 && (stackAt m 0).jobs.length == 1 && (stackAt m 0).engines == []
      | _ => false
    let bad : Job := { job 0 operands with started := false, total := 0 }
    let good : Job := { job 5 ((26, 0) :: (34, 0) :: operands) with started := false, total := 0 }
    stackRuns (basin (with1 good)) 0 = true ∧ nextOf (stackAt (basin (with1 good)) 0) false = some good ∧ good.checked = false ∧ good.kind = none
    ∧ good.suspended = [] ∧ good.record ≠ [] ∧ good.order = false ∧ start good = true
    ∧ stackRuns (basin (with1 bad)) 0 = true ∧ nextOf (stackAt (basin (with1 bad)) 0) false = some bad ∧ bad.checked = false ∧ bad.kind = none
    ∧ bad.suspended = [] ∧ bad.record ≠ [] ∧ bad.order = false ∧ start bad = true := by decide +kernel
/-- The operations 0 and 11, revision 0, and a reserved field. -/
theorem witness_BasinJobsRunTheirCourse_checks :
    ¬ (1 ≤ (job 0 []).op ∧ (job 0 []).op ≤ 10) ∧ ¬ (1 ≤ (job 11 []).op ∧ (job 11 []).op ≤ 10)
    ∧ (1 ≤ (job 10 []).op ∧ (job 10 []).op ≤ 10) ∧ byteAt (job 1 []).record 1 / 16 = up.host.select.toNat
    ∧ byteAt { job 1 [] with record := listed 64 [(0, 1)] }.record 1 / 16 ≠ up.host.select.toNat
    ∧ firstNonzero (job 1 [(7, 0x10), (14, 1)]).record (reservedJob 1) = some 7
    ∧ firstNonzero (job 6 [(49, 0x10)]).record (reservedJob 6) = some 49
    ∧ firstNonzero (job 9 [(17, 0x40)]).record (reservedJob 9) = some 17 := by decide +kernel
theorem witness_BasinJobsRunTheirCourse_chunk :
    let m := basin { with1 (job 5 []) with engines := [(31, { job := 0, chunk := 0, done := true })] }
    stackRuns m 0 = true ∧ Sparse.find (stackAt m 0).engines 31 = some { job := 0, chunk := 0, done := true }
    ∧ jobAt m 0 0 = some (job 5 []) := by decide +kernel
theorem witness_BasinJobsRunTheirCourse_prefetch :
    let e : GatherLine := { line := 0x10000, data := List.replicate 128 0 }
    let m := basin { with1 (job 9 []) with held := [dramRequest e.line forGather], gathers := [(3, [{ e with line := 0, open_ := false }, e])] }
    stackRuns m 0 = true ∧ (gatherLines m 0 3).find? (·.open_) = some e ∧ e.stale = false
    ∧ dramReady m e.line = true ∧ holdsRegister m e.line forGather = true ∧ memPoison m e.line = 0 := by decide +kernel

/-- An access of a module's memory that ends well. -/
def ends (f : Acc Unit) (m : Module) : Bool := match f.go m with
  | (.ok _, _) => true
  | _ => false
theorem ends_spec {f : Acc Unit} {m : Module} (h : ends f m = true) : ∃ m₁, f.go m = (.ok (), m₁) := by
  unfold ends at h
  split at h
  · rename_i a m₁ e; exact ⟨m₁, e⟩
  · cases h

/-- A CLEAN. -/
def cleanJob : Job := job 10 ((34, 0) :: (42, 0) :: (51, 0) :: operands)
/-- A direct FILL with region clean. -/
def cleaned : Job := { job 5 [] with record := listed 64 ((0, 5) :: (1, 0x13) :: operands) }
theorem witness_BasinJobsRunTheirCourse_clean :
    (jobAt (basin (with1 cleaned)) 0 0 = some cleaned ∧ stackRuns (basin (with1 cleaned)) 0 = true
      ∧ cleaned.started = true ∧ cleaned.kind = none ∧ cleaned.ending = none ∧ cleaned.wantsClean = true
      ∧ cleaned.cleaned = false ∧ ∃ m₁, (cleanRanges cleaned (cleaned.reach 0)).go (basin (with1 cleaned)) = (.ok (), m₁))
    ∧ jobAt (basin (with1 cleanJob)) 0 0 = some cleanJob ∧ stackRuns (basin (with1 cleanJob)) 0 = true
      ∧ cleanJob.started = true ∧ cleanJob.kind = none ∧ cleanJob.ending = none ∧ cleanJob.op = 10
      ∧ cleanJob.complete = [] ∧ cleanJob.suspended = [] ∧ cleanJob.wantsClean = false
      ∧ ∃ m₁, (cleanLines cleanJob (cleanJob.reach 0)).go (basin (with1 cleanJob)) = (.ok (), m₁) := by
  refine ⟨⟨?_, ?_, ?_, ?_, ?_, ?_, ?_, ends_spec ?_⟩, ?_, ?_, ?_, ?_, ?_, ?_, ?_, ?_, ?_, ends_spec ?_⟩ <;> decide +kernel
/-- A completed job that wrote one line directly. -/
def wrote : Job := { job 5 [] with complete := [0], direct := [0x30000] }
theorem witness_BasinJobsRunTheirCourse_back :
    let m := basin (with1 wrote)
    jobAt m 0 0 = some wrote ∧ stackRuns m 0 = true ∧ wrote.kind = none ∧ jobOver m 0 wrote = true
    ∧ wrote.direct = [0x30000] ∧ lineReady m 0x30000 = true
    ∧ (sliceAt m (homeSlice 0x30000)).miss 0x30000 = none ∧ (sliceAt m (homeSlice 0x30000)).queue = [] := by decide +kernel
theorem test_back_invalidate : (match exec (.backInvalidate 0 0) (st (setSlice (homeSlice 0x30000)
      { lines := [{ line := 0x30000, way := 0, data := List.replicate 128 1, dirty := true }] } (basin (with1 wrote)))) with
    | .next s => ((sliceAt s.m (homeSlice 0x30000)).find 0x30000).isNone && (stackAt s.m 0).conflict
        && ((stackAt s.m 0).jobs.map fun j => (j.direct, j.conflict)) == [([], true)]
    | _ => false) = true := by decide +kernel

/-- A completed job with a DONE word at 0x40000, and one without. -/
def ended (done : Nat) : Job := { job 5 ((58, done) :: operands) with complete := [0] }
theorem witness_BasinJobsRunTheirCourse_complete :
    (jobAt (basin (with1 (ended 4))) 0 0 = some (ended 4) ∧ stackRuns (basin (with1 (ended 4))) 0 = true
      ∧ (ended 4).kind = none ∧ jobOver (basin (with1 (ended 4))) 0 (ended 4) = true ∧ (ended 4).direct = []
      ∧ (ended 4).suspended = [] ∧ (ended 4).record ≠ [] ∧ (ended 4).noDone = false ∧ (ended 4).ending = none
      ∧ (ended 4).doneAt ≠ 0 ∧ (ended 0).doneAt = 0
      ∧ assignAll 0 (basin (with1 (ended 4))) = basin (with1 (ended 4))
      ∧ assignAll 0 (basin (with1 (ended 0))) = basin (with1 (ended 0))
      ∧ 0 < (stackAt (setJob 0 (ended 0) (basin (with1 (ended 0)))) 0).nextId
      ∧ jobOver (basin (with1 (ended 0))) 0 (ended 0) = true)
    ∧ ∃ m₁, (engineWrite { (ended 4).reach 0 with direct := false } (ended 4).doneAt
        (bytesOf 2 0 ++ [0] ++ bytesOf 1 0 ++ bytesOf 4 1)).go (setJob 0 (ended 4) (basin (with1 (ended 4)))) = (.ok (), m₁)
      ∧ 0 < (stackAt m₁ 0).nextId := by
  refine ⟨by decide +kernel, ?_⟩
  have h : (match (engineWrite { (ended 4).reach 0 with direct := false } (ended 4).doneAt
        (bytesOf 2 0 ++ [0] ++ bytesOf 1 0 ++ bytesOf 4 1)).go (setJob 0 (ended 4) (basin (with1 (ended 4)))) with
    | (.ok _, m) => decide (0 < (stackAt m 0).nextId)
    | _ => false) = true := by decide +kernel
  split at h
  · rename_i a m₁ e; exact ⟨m₁, e, of_decide_eq_true h⟩
  · cases h
/-- Status and flags of the DONE word: a job ended at its first check, with a conflict. -/
theorem test_done_word : (match exec (.jobComplete 0 0) (st (basin (with1 { ended 4 with ending := some (0x43, 20), conflict := true }))) with
    | .next s => (match (engineRead { (ended 4).reach 0 with direct := false } 0x40000 8).go s.m with
        | (.ok b, _) => b == [0x43, 0, 0, 1, 20, 0, 0, 0] && (stackAt s.m 0).jobs == [] && (stackAt s.m 0).lastStatus == 0x43
        | _ => false)
    | _ => false) = true := by decide +kernel
theorem witness_BasinJobsRunTheirCourse_register :
    let q (b : Nat) : DramRequest := { bank := b, requester := 0 }
    let m := basin { bankCap := 1, held := [q 0], waiting := [q 0, q 1] }
    let k := stackAt m 0
    alive m = true ∧ k.waiting = [q 0] ++ q 1 :: [] ∧ k.held.length < stackRegisters m
    ∧ (k.held.filter fun h => h.bank == (q 1).bank).length < stackCap k
    ∧ ∀ x ∈ [q 0], ¬ (k.held.filter fun h => h.bank == x.bank).length < stackCap k := by decide +kernel

/-- The running module with `j` on engine 0. -/
def engaged (j : Job) : Module := basin { with1 j with engines := [(0, { job := 0, chunk := 0 })] }
/-- What holds of every job an engine may run. -/
def engages (j : Job) : Bool :=
  stackRuns (engaged j) 0 && Sparse.find (stackAt (engaged j) 0).engines 0 == some { job := 0, chunk := 0 }
    && jobAt (engaged j) 0 0 == some j && j.ending.isNone && !j.wantsClean
    && decide (assignAll 0 (engaged j) = engaged j)
def runs (op : Nat) (l : List (Nat × Nat)) (act : Nat → Job → Nat → Reach → Acc Unit) : Bool :=
  let j := job op (l ++ operands)
  engages j && j.op == op && ends (act 0 j 0 (j.reach 0)) (engaged j)
theorem witness_EnginesAndArbitersAct_engines :
    runs 1 [] convertChunk = true ∧ runs 2 [(55, 0x3F)] axpbyChunk = true ∧ runs 3 [] mulChunk = true
    ∧ runs 4 [] reduceAct = true ∧ runs 5 [] fillChunk = true ∧ runs 6 [] finiteChunk = true
    ∧ runs 7 [(51, 0)] stashAct = true ∧ runs 8 [(51, 0)] unstashAct = true := by
  refine ⟨?_, ?_, ?_, ?_, ?_, ?_, ?_, ?_⟩ <;> decide +kernel
/-- FILL of 2.0 in FP32. -/
theorem test_fill : (match exec (.fill 0 0) (st (engaged (job 5 operands))) with
    | .next s => (match (engineRead { (ended 4).reach 0 with direct := false } 0x30000 4).go s.m with
        | (.ok b, _) => b == [0, 0, 0, 0x40]
        | _ => false)
    | _ => false) = true := by decide +kernel
/-- MUL: 2.0 (1.5 3.0) is 9.0. -/
theorem test_mul : (match exec (.jobMul 0 0) (st { engaged (job 3 operands) with
      mem := [(0x10002, 0xC0), (0x10003, 0x3F), (0x20002, 0x40), (0x20003, 0x40)] }) with
    | .next s => (match (engineRead { (ended 4).reach 0 with direct := false } 0x30000 4).go s.m with
        | (.ok b, _) => b == [0, 0, 0x10, 0x41]
        | _ => false)
    | _ => false) = true := by decide +kernel
/-- A dense gather of one FP32 element a row, on gather engine 0. -/
def rows : Job := job 9 [(20, 1), (26, 1), (42, 3), (48, 1)]
theorem witness_EnginesAndArbitersAct_gather :
    let m := basin (with1 rows)
    (jobAt m 0 0 = some rows ∧ stackRuns m 0 = true ∧ rows.op = 9 ∧ gatherJob m 0 rows.first = some rows
      ∧ rows.wantsClean = false ∧ nextRow rows = some 0)
    ∧ ∃ m₁ k, (gatherRow rows 0 (rows.reach 0)).go m = (.ok (), m₁) ∧ jobAt m₁ 0 0 = some k := by
  refine ⟨by decide +kernel, ?_⟩
  have h : (match (gatherRow rows 0 (rows.reach 0)).go (basin (with1 rows)) with
    | (.ok _, m) => (jobAt m 0 0).isSome
    | _ => false) = true := by decide +kernel
  split at h
  · rename_i a m₁ e
    obtain ⟨k, hk⟩ := Option.isSome_iff_exists.mp h
    exact ⟨m₁, k, e, hk⟩
  · cases h

theorem witness_EnginesAndArbitersAct_rounding : (3 : Nat) ≠ 2 ∧ (4 : Nat) ≠ 2 := by decide
/-- Arbiter 0 with a beat of requester 1 and one of requester 6 pending. -/
def contended (window age : Nat) (commit : Option Bool) : Module :=
  let r (q : Nat) : Requester := { arbDefault 0 q with transfer := some (4, 0), age := age }
  setArb 0 { reqs := [(1, r 1), (6, r 6)], window := window, commit := commit } up
theorem witness_EnginesAndArbitersAct_choose : (∀ q ∈ [1, 6], q < 8) ∧ [1, 6] ≠ ([] : List Nat)
    ∧ (arbAt (contended 0 0 none) 0).holder 0 = none := by decide +kernel
theorem witness_EnginesAndArbitersAct_cycle : arbRuns (contended 1023 0 none) 0 = true
    ∧ knob (dataPhase 0 [] (contended 1023 0 none)) 1 = false
    ∧ (let d := dataPhase 0 [] (contended 1023 0 none)
       ∃ v, ((arbAt d 0).applyCommit 0).choose 0 (((arbAt d 0).applyCommit 0).pendingReqs 0) = some v) := by
  refine ⟨by decide +kernel, by decide +kernel, 1, by decide +kernel⟩
theorem test_arbiter : (match exec (.arbiterCycle 0 []) (st (contended 5 0 none)) with
    | .next s => (arbAt s.m 0).owner == some 1 && (arbAt s.m 0).window == 6 && ((arbAt s.m 0).req 0 6).age == 1
        && ((arbAt s.m 0).req 0 6).left == 4 && ((arbAt s.m 0).req 0 6).backoff == 8
    | _ => false) = true := by decide +kernel
theorem witness_EnginesAndArbitersAct_events :
    (arbRuns (contended 1023 0 none) 0 = true ∧ (arbAt (contended 1023 0 none) 0).window = 1023
      ∧ (arbAt (contended 1023 0 none) 0).commit ≠ some true)
    ∧ agingDue 0 (contended 0 1023 none) = true
    ∧ arbReached up 323 = true ∧ (3 : BitVec 32).getLsbD 0 = true
    ∧ arbRuns (contended 0 0 (some false)) 0 = true ∧ (arbAt (contended 0 0 (some false)) 0).commit.isSome = true := by
  decide +kernel
/-! ## What engines compute -/

/-- A line of FP32 elements, the rest of it zero. -/
def words (line : Nat) (l : List Nat) : LlcLine :=
  { line := line, way := 0, data := (l.map (bytesOf 4)).flatten ++ List.replicate (128 - 4 * l.length) 0 }
/-- The running module with one job on stack 0 and some lines in their home slices. -/
def cells (j : Job) (ls : List LlcLine) : Module :=
  ls.foldl (fun m l => setSlice (homeSlice l.line) { lines := [l] } m) (basin (with1 j))
/-- Engines that know the pages they use. -/
def reach : Reach :=
  { ag := { asid := 0, level := 1, unit := handleStack 0 }, st := 0, job := 0, direct := false
    pages := [(0x10, 0x10), (0x20, 0x20), (0x30, 0x30)] }
def straightReach : Reach := { reach with direct := true }

theorem witness_EnginesAndArbitersAct_read :
    let m := cells (job 1 []) [words 0x10000 [1, 2]]
    (engineAt reach .read 0x10004).go m = (.ok 0x10004, m) ∧ reach.straight 0x10004 = false
      ∧ LineStands m (lineOf 0x10004) (words 0x10000 [1, 2]) ∧ (words 0x10000 [1, 2]).data.length = 128
      ∧ touchesPoison (words 0x10000 [1, 2]).poison (0x10004 % 128) 4 = false := by
  refine ⟨rfl, by decide +kernel, ⟨by decide +kernel, rfl, by decide +kernel, by decide +kernel⟩, by decide +kernel, by decide +kernel⟩
theorem witness_EnginesAndArbitersAct_write :
    let m := basin (with1 (job 1 []))
    (engineAt straightReach .write 0x10004).go m = (.ok 0x10004, m) ∧ straightReach.straight 0x10004 = true
      ∧ lineReady m (lineOf 0x10004) = true ∧ Memory.wf m.mem = true := ⟨rfl, by decide +kernel, by decide +kernel, by decide +kernel⟩
theorem test_engine_write : (gives (engineWrite straightReach 0x1007E [9, 8, 7]) (basin (with1 (job 1 []))) fun _ m =>
      m.mem == [(0x1007E, 9), (0x1007F, 8), (0x10080, 7)])
    ∧ (gives (engineWrite reach 0x10004 [9, 8]) (cells (job 1 []) [words 0x10000 [1, 2]]) fun _ m =>
      m.mem == [] && ((heldLine 0x10000 m).1.take 8) == [1, 0, 0, 0, 9, 8, 0, 0]) = true := by decide +kernel

/-- 1.0, -3.0, 2.0 in FP32. -/
def three : List Nat := [0x3F800000, 0xC0400000, 0x40000000]
/-- A REDUCE of them, alone or as the second of two chunks. -/
def reduceJob (sub total : Nat) : Job :=
  { job 4 ((17, 16 * sub) :: (20, 3) :: operands) with total := total }
theorem witness_EnginesAndArbitersAct_reduce : (∀ n ∈ [1, 2], gives
    (readElems reach (reduceJob 0 n) (reduceJob 0 n).x (reduceJob 0 n).xf 0) (cells (reduceJob 0 n) [words 0x10000 three]) (fun xs m =>
      xs == three && jobAt m 0 0 == some (reduceJob 0 n)
        && gives (engineWrite reach (reduceJob 0 n).z (bytesOf 4 0)) m fun _ m => (jobAt m 0 0).isSome) = true)
    ∧ (reduceJob 0 1).partials.length = 0 ∧ (reduceJob 0 1).tv = false := by decide +kernel
/-- The sum 0.0, the largest magnitude 3.0, the sum of squares 14.0. -/
theorem test_reduce : ([0, 1, 2].map fun sub => match exec (.reduce 0 0) (st { cells (reduceJob sub 1) [words 0x10000 three] with
      basins := [(0, { with1 (reduceJob sub 1) with engines := [(0, { job := 0, chunk := 0 })] })] }) with
    | .next s => ofBytes ((heldLine 0x30000 s.m).1.take 4)
    | _ => 1) = [0, 0x40400000, 0x41600000] := by decide +kernel

/-- A FINITE of the same elements, which folds into tensor 5 of step 0 or into layer 7. -/
def finiteJob (tv : Nat) : Job := job 6 ((6, 5) :: (7, tv) :: (20, 3) :: (48, 7) :: operands)
def collecting (m : Module) : Module := { m with gate := { m.gate with bank0 := { state := .collecting } } }
theorem witness_EnginesAndArbitersAct_finite : gives (readElems reach (finiteJob 128) (finiteJob 128).x (finiteJob 128).xf 0)
      (cells (finiteJob 128) [words 0x10000 three]) (fun xs _ => xs == three && (xs.map (widen 0)).all Fp.finite32) = true
    ∧ (finiteJob 128).tv = true ∧ (finiteJob 0).tv = false := by decide +kernel
theorem witness_EnginesAndArbitersAct_finite_not : gives (readElems reach (finiteJob 0) (finiteJob 0).x (finiteJob 0).xf 0)
      (collecting (cells (finiteJob 0) [words 0x10000 [0x7F800000]])) (fun xs m => (xs.map (widen 0)).any (fun x => !Fp.finite32 x)
        && (stepBank m (finiteJob 0).step).state == .collecting && (stepBank m (finiteJob 0).step).step == (finiteJob 0).step) = true := by
  decide +kernel
theorem test_finite : gives (finiteChunk 0 (finiteJob 128) 0 reach) (cells (finiteJob 128) [words 0x10000 three])
      (fun _ m => Sparse.get {} (stackAt m 0).pend 5 == { p := 0x40400000, v := true }) = true
    ∧ gives (finiteChunk 0 (finiteJob 0) 0 reach) (collecting (cells (finiteJob 0) [words 0x10000 [0x7F800000]]))
      (fun _ m => m.gate.bank0.nonfin && m.gate.bank0.layer == 7) = true := by decide +kernel

/-- A STASH of 1.0, 0, 2.0 at 0x10000 into the slot at 0x30000, in format `f` with the zero bitmap; and an UNSTASH of that slot. -/
def stashJob_ (f : Nat) : Job :=
  let j := job 7 ((20, 3) :: (51, 0) :: operands)
  { j with record := j.record ++ listed 8 [(0, 0x20 + f)] }
def unstashJob (n f : Nat) : Job :=
  let j := job 8 ((20, n) :: (26, 3) :: (42, 1) :: (51, 0) :: operands)
  { j with record := j.record ++ listed 8 [(0, 0x20 + f)] }
def sparse : List Nat := [0x3F800000, 0, 0x40000000]
theorem witness_EnginesAndArbitersAct_stash : ∀ f ∈ [3, 7],
    stashSr (stashJob_ f).stashEntry = false ∧ stashScaled (stashJob_ f).stashEntry = false
      ∧ gives (readElems reach (stashJob_ f) (stashJob_ f).x (stashJob_ f).xf 0) (cells (stashJob_ f) [words 0x10000 sparse]) (fun xs m =>
        xs == sparse && (slotPieces (stashJob_ f).stashEntry 2).all fun p => quiet (engineProbe reach .write (0x30000 + p.1) p.2) () m) = true := by
  decide +kernel
/-- The slot: N 3, two elements stored, the bitmap 5, scale 2^1 with E4M3 0.5 and 1, or E4M3 1 and 2. -/
theorem test_stash : ([3, 7].map fun f => match (stashChunk 0 (stashJob_ f) 0 reach).go (cells (stashJob_ f) [words 0x10000 sparse]) with
    | (.ok _, m) => (gives (engineRead reach 0x30000 10) m fun b _ => b == [3, 0, 0, 0, 2, 0, 0, 0, BitVec.ofNat 8 f, 1],
        gives (engineRead reach 0x30080 2) m fun b _ => b == [5, 0],
        match (unstashChunk (unstashJob 3 f) 0 reach).go m with
        | (.ok ok, m) => ok && ((heldLine 0x10000 m).1.take 12) == (sparse.map (bytesOf 4)).flatten
        | _ => false)
    | _ => (false, false, false)) = [(true, true, true), (true, true, true)] := by decide +kernel
/-- An UNSTASH whose slot says another count. -/
theorem witness_EnginesAndArbitersAct_unstash : ∀ f ∈ [3, 7],
    (match (stashChunk 0 (stashJob_ f) 0 reach).go (cells (unstashJob 3 f) [words 0x10000 sparse]) with
    | (.ok _, m) => gives (engineRead reach 0x30000 22) m fun h m =>
        field h 0 4 == 3 && field h 10 2 == (unstashJob 3 f).alpha % 4096 && byteAt h 8 == f
          && ((unstashJob 4 f).span 0).2 == 4 && (jobAt m 0 0).isSome
          && gives (engineRead reach 0x30080 512) m fun bits m =>
            natBit (byteAt bits 0) 0 && !natBit (byteAt bits 0) 1 && natBit (byteAt bits 0) 2
              && gives (if Fp.isMx f then engineRead reach 0x30280 1 else pure []) m fun scales m =>
                scales.length == (if f = 7 then 1 else 0)
                  && gives (engineRead reach 0x30300 2) m fun data _ => data.length == 2
    | _ => false) = true := by decide +kernel
theorem test_unstash_other : gives (unstashAct 0 (unstashJob 4 3) 0 reach) (cells (unstashJob 4 3) [words 0x30000 [3, 2]])
    (fun _ m => (jobAt m 0 0).map (·.ending) == some (some (0x43, 24))) = true := by decide +kernel

/-- Rows of two FP32 elements, 8 bytes apart; transposed with T, indexed with an index of 1 for row 0. -/
def gatherJob_ (sub : Nat) : Job :=
  job 9 ((17, 16 * sub) :: (20, 2) :: (26, 1) :: (34, 2) :: (42, 3) :: (48, 2) :: (52, 8) :: [])
theorem witness_EnginesAndArbitersAct_rows : ∀ sub ∈ [0, 1, 2, 3],
    let j := gatherJob_ sub
    let put (c : Nat) : Nat := j.z + (if natBit j.sub 0 then c * j.count else c) * 4
    gives (if natBit j.sub 1 then engineRead reach j.y 4 else pure [0, 0, 0, 0])
      (cells j [words 0x10000 [1, 2, 3, 4], words 0x20000 [1]]) (fun b m =>
        let i := ofBytes b
        i == (if natBit j.sub 1 then 1 else 0)
          && gives (streamRead reach j.first (intLow 64 (j.x + (i : Int) * natSigned 32 j.beta)) (j.alpha * 4)) m fun bs m =>
            bs.length == 8 && ([0, 1].all fun c => quiet (engineProbe reach .write (put c) 4) () m)
              && quiet (engineProbe reach .write (put 0) 8) () m) = true := by decide +kernel
theorem test_gather : ([0, 1, 2, 3].map fun sub => match (gatherRow (gatherJob_ sub) 1 reach).go
      (cells (gatherJob_ sub) [words 0x10000 [1, 2, 3, 4], words 0x20000 [1, 0]]) with
    | (.ok _, m) => (List.range 4).map fun i => ofBytes (((heldLine 0x30000 m).1.drop (4 * i)).take 4)
    | _ => []) = [[0, 0, 3, 4], [0, 3, 0, 4], [0, 0, 1, 2], [0, 1, 0, 2]] := by decide +kernel
theorem witness_EnginesAndArbitersAct_gated :
    let m : Module := { up with clocks := { up.clocks with gated := 1#384 <<< handleStack 0 } }
    arbUnit m 0 = some (handleStack 0) ∧ unitGated m (handleStack 0) = true := by decide +kernel
/-! ## The Step Gate -/

/-- The running module whose thread 0 runs a task of gate role 1 and step 6, under the gate `g`. -/
def gated (g : Gate) : Module :=
  setThread 0 { th with priv := { level := 1 }, task := 0 }
    { withPool [desc 1 [(13, 1), (56, 6)]] with gate := g }
/-- A bank that collects for step `n`. -/
def collects (n : BitVec 48) : Bank := { state := .collecting, step := n, since := some 0 }
theorem witness_StepGateActs_no_role : alive up = true ∧ (threadAt (one th) 0).priv.level = 2
    ∧ roleStep (setThread 0 { th with priv := { level := 1 }, task := 5 } up) 0 = none := by decide +kernel
/-- A free bank, one that collects for the step or for another, and one past collecting. -/
theorem witness_StepGateActs_fold :
    let m (b : Bank) := gated { bank0 := b }
    alive (m {}) = true ∧ (threadAt (m {}) 0).priv.level ≠ 2 ∧ roleStep (m {}) 0 = some 6
    ∧ (stepBank (m {}) 6).state = .idle ∧ (stepBank (m { state := .refused, step := 4 }) 6).state = .refused
    ∧ (stepBank (m (collects 6)) 6).state = .collecting ∧ (stepBank (m (collects 6)) 6).step = 6
    ∧ (stepBank (m (collects 4)) 6).step ≠ 6
    ∧ ¬ ((stepBank (m (collects 4)) 6).state = .idle ∨ (stepBank (m (collects 4)) 6).state = .refused)
    ∧ (stepBank (m { state := .sent, step := 6 }) 6).state = .sent ∧ (0x80000005 : BitVec 32).getLsbD 31 = true := by
  decide +kernel
theorem test_fold : (match exec (.gpFold (some 0) 0x80000005) (st (gated { bank0 := { collects 6 with nonfin := true, layer := 9 } })) with
    | .next s => s.m.gate.bank0 == { collects 6 with nonfin := true, layer := 5 }
    | _ => false) = true := by decide +kernel
/-- Tensors 0 and 4,095, of a gated and of a running stack. -/
theorem witness_StepGateActs_amax : stackPresent up.board.part (0 / 512) = true ∧ stackPresent up.board.part (4095 / 512) = true
    ∧ unitGated up (handleStack 7) = false
    ∧ unitGated { up with clocks := { up.clocks with gated := 1#384 <<< handleStack 0 } } (handleStack 0) = true := by
  decide +kernel
theorem test_amax : (match exec (.scAmax 1 4095 0xC0400000) (st up) with
    | .next s => Sparse.find (stackAt s.m 7).pend 8191 == some { p := 0x40400000, v := true, nonfin := false }
    | _ => false) = true := by decide +kernel

/-- A fresh message, and one whose first copy has come. -/
def told (seen : List (BitVec 12 × BitVec 8 × BitVec 48)) (root : Bool) : Module :=
  { up with gate := { children := [7], root := root, parent := 9 }, fabric := { seen := seen } }
/-- A vote: all finite, one member, step 6. -/
def ballot : List Byte := listed 32 [(0, 1), (1, 1), (2, 1), (4, 6), (10, 6), (16, 6)]
theorem witness_StepGateActs_vote :
    (alive (told [] true) = true ∧ ∃ x m₁, takeMsg (fun y => y.type == 0x30 && y.src == 7 && y.payload == padSlots ballot)
      (told [] true) = some (x, m₁)) ∧ firstCopy (told [] true) 7 0x30 6 = true
    ∧ firstCopy (told [(7, 0x30, 6)] true) 7 0x30 6 = false ∧ (8 : BitVec 12) ∉ (told [] true).gate.children := by
  exact ⟨⟨by decide +kernel, none, told [] true, by decide +kernel⟩, by decide +kernel, by decide +kernel, by decide +kernel⟩
theorem test_vote : (match exec (.vote 7 ballot) (st { told [] true with gate := { children := [7], bank0 := collects 6 } }) with
    | .next s => (s.m.gate.bank0.kids.map fun k => (k.1, k.2.finite, k.2.members)) == [(0, true, 1)]
    | _ => false) = true := by decide +kernel
/-- A verdict of reason 0 for step 6. -/
def verdict : List Byte := listed 32 [(0, 2), (2, 2), (4, 6), (10, 6), (16, 6)]
theorem witness_StepGateActs_result :
    alive (told [] false) = true ∧ ∃ x m₁, takeMsg (fun y => y.type == 0x31 && y.payload == padSlots verdict)
      (told [] false) = some (x, m₁) ∧ (x.isSome = true ∨ m₁.gate.root = false) :=
  ⟨by decide +kernel, none, told [] false, by decide +kernel, .inr rfl⟩
theorem test_result : (match exec (.result verdict) (st (told [] false)) with
    | .next s => s.m.gate.bank0.state == .opened && s.m.gate.bank0.step == 6
    | _ => false) = true := by decide +kernel
/-- A bank of another step, and one of the step that opens. -/
theorem witness_StepGateActs_apply :
    let m (b : Bank) : Module := { up with gate := { bank0 := b } }
    ((stepBank (m (collects 4)) 6).state = .collecting ∧ (stepBank (m (collects 4)) 6).step ≠ 6)
    ∧ (stepBank (m (collects 6)) 6).step = 6 ∧ ({} : Report).reason = 0 := by decide +kernel
/-- A non-finite vote among two, and skew before saturation. -/
theorem witness_StepGateActs_votes :
    let v : Vote := { finite := true, members := 1, step := 6, min := 6, max := 6, node := 3, layer := 0 }
    let w : Vote := { v with finite := false, node := 2, layer := 8 }
    (combineVotes 6 v [w] up).1.finite = false ∧ (2 : BitVec 11) ≠ 1
    ∧ ((combineVotes 6 v [w] up).1.members = 2 ∧ (combineVotes 6 v [w] up).1.min = (combineVotes 6 v [w] up).1.max) := by
  decide +kernel
theorem test_votes :
    let v : Vote := { finite := true, members := 1, step := 6, min := 6, max := 6, node := 3, layer := 0 }
    reasonOf 2 (combineVotes 6 v [{ v with finite := false, node := 2, layer := 8 }] up).1 = 1 ∧ reasonOf 3 v = 2
    ∧ reasonOf 1 { v with min := BitVec.allOnes 48, max := BitVec.allOnes 48 } = 3 := by decide +kernel

/-- A root that has cast for step 6 and waits for one child, 2 ms after it began. -/
def waitsForChild : Module :=
  { up with
    time := 2000000
    gate := { children := [7], timeout := 1, bank0 := { collects 6 with cast := some (ownVote up 6 (collects 6)) } } }
theorem witness_StepGateActs_timeout :
    let k := bankAt waitsForChild.gate 0
    alive waitsForChild = true ∧ waitsForChild.gate.root = true ∧ k.state = .collecting
    ∧ k.cast = some (ownVote up 6 (collects 6)) ∧ k.since = some 0 ∧ waitsForChild.gate.timeout ≠ 0
    ∧ millis waitsForChild.gate.timeout.toNat ≤ (waitsForChild.time - 0).toNat
    ∧ missingKids waitsForChild.gate (stepBank waitsForChild 6) ≠ [] := by decide +kernel
theorem test_timeout : (match exec (.gateTimeout 0) (st waitsForChild) with
    | .next s => s.m.gate.bank0.state == .refused && s.m.gate.bank0.report.reason == 2 && s.m.gate.timedOut
        && s.m.gate.bank0.report.min == 0
    | _ => false) = true := by decide +kernel
/-- One event of each kind, waiting for a bank that is free now. -/
theorem witness_StepGateActs_wait_end :
    let v : Vote := ownVote up 6 (collects 6)
    let m : Module := gated { waiting := [.opening 0 6, .cast 0 6, .fold 0 6 true 3, .child 0 v] }
    alive m = true ∧ m.gate.waiting[0]? = some (.opening 0 6) ∧ m.gate.waiting[1]? = some (.cast 0 6)
    ∧ m.gate.waiting[2]? = some (.fold 0 6 true 3) ∧ m.gate.waiting[3]? = some (.child 0 v)
    ∧ m.gate.waiting.all (waitEnds m) = true := by decide +kernel
/-- An open bank of step 6 whose commit update has retired. -/
def committing (scaleBase : Word) : Module :=
  { up with
    gate := { bank0 := { state := .opened, step := 6 }, commits := [(6, 0, 0)] }
    haze := { scaleBase := scaleBase } }
theorem witness_StepGateActs_commit :
    (working (committing 0) = true ∧ (bankAt (committing 0).gate 0).state = .opened ∧ bankIndex 6 = 0
      ∧ (committing 0).gate.commits.find? (fun x => x.1 == 6) = some (6, 0, 0) ∧ updateRuns (committing 0) 6 = false
      ∧ scaleSuspended (committing 0) 0 = false ∧ (committing 0).haze.scaleBase = 0 ∧ (committing 0).haze.ctoken = none
      ∧ ∀ e ∈ (committing 0).hg.pool, opcodeOf e ≠ 3)
    ∧ working (committing 0x10000) = true ∧ (bankAt (committing 0x10000).gate 0).state = .opened
      ∧ updateRuns (committing 0x10000) 6 = false ∧ scaleSuspended (committing 0x10000) 0 = false := by decide +kernel
/-- An acknowledgement of the verdict, and the verdict held for node 7. -/
def receipt : Msg := { type := 0x32, op := 0x31, dst := 0, src := 7, addr := 6 }
def holding : Module :=
  { up with
    time := 1000000
    fabric := { heldMsgs := [{ msg := { type := 0x31, dst := 7, src := 0, payload := verdict }, last := 0 }] } }
theorem witness_StepGateActs_receipt :
    alive holding = true ∧ decodeMsg (encodeMsg receipt) = some (receipt, []) ∧ receipt.type = 0x32
    ∧ receipt.dst = holding.fabric.node ∧ takeMsg (fun z => z == receipt) holding = some (none, holding)
    ∧ holding.fabric.heldMsgs[0]?.isSome = true ∧ ∀ h ∈ holding.fabric.heldMsgs, millis 1 ≤ (holding.time - h.last).toNat := by
  decide +kernel
theorem test_receipt : (match exec (.ctlAck (encodeMsg receipt)) (st holding) with
    | .next s => s.m.fabric.heldMsgs == []
    | _ => false) = true := by decide +kernel

/-- Messages with a reserved bit set, and a verdict that opened, acknowledged or not. -/
theorem witness_StepGateActs_reserved :
    controlReserved 0x30 ballot = false ∧ controlReserved 0x30 (listed 32 [(0, 1), (1, 0x80), (2, 1), (4, 6)]) = true
    ∧ controlReserved 0x31 verdict = false ∧ controlReserved 0x31 (listed 32 [(0, 2), (1, 0x80), (4, 6)]) = true
    ∧ receipt.unsound = false
    ∧ (let set := (encodeMsg receipt).take 5 ++ [0x10] ++ (encodeMsg receipt).drop 6
       (decodeMsg set).map (fun p => (p.1.unsound, p.1.type, p.1.dst, p.2)) = some (true, 0x32, 0, []))
    ∧ (∀ h ∈ holding.fabric.heldMsgs, ackNames receipt.src receipt.op (ackStep receipt) h = true ∧ h.msg.type = 0x31
        ∧ byteAt h.msg.payload 1 % 4 = 0) := by decide +kernel
theorem test_vote_again : (match exec (.vote 7 ballot) (st { told [(7, 0x30, 6)] true with gate := { children := [7], bank0 := collects 6 } }) with
    | .next s => s.m.gate.bank0.kids == []
    | _ => false) = true := by decide +kernel
/-! ## Haze and updates -/

theorem witness_HazeAndUpdatesAct_ignored : alive up = true ∧ (threadAt (one th) 0).priv.level = 2
    ∧ (setThread 0 { th with priv := { level := 1 } } up).haze.enabled = false := by decide +kernel
/-- A sound offer record of a one-element tile, but for the output format `f`. -/
def offerAt (f : Byte) : List (Nat × Byte) := [(0x10002, 0x11), (0x10003, f), (0x10008, 1), (0x20000, 0x81)]
/-- Thread 0 may offer; layer 0 samples every second offer and has had `n`. -/
def offering (f : Byte) (n : BitVec 32) (k : Stack) : Module :=
  let m := setThread 0 { th with priv := { level := 1 } } (basin k)
  let h : Haze := { enabled := true, hazeTab := 0x20000, layers := 1, offers := [(0, n)] }
  { m with
    mem := offerAt f
    haze := h }
/-- A sample that waits. -/
def sample (id : Nat) : Job :=
  { job 0 [] with
    id := id
    kind := some (.haze 0 6 1)
    started := false
    record := listed 72 [(2, 0x11), (8, 1)] }
def waitingIn (m : Module) : Nat := ((stackAt m 0).jobs.filter fun j => !j.started && (match j.kind with
  | some (.haze _ _ _) => true
  | _ => false)).length
/-- The offer counts, with its counter at `n`, sound or not, behind `w` waiting samples. -/
def offers (m : Module) (n : BitVec 32) (sound : Bool) (w : Nat) : Bool :=
  alive m && m.haze.enabled && (threadAt m 0).priv.level == 1 &&
    (match (readOffer 0 0 0x10000).go m with
      | (.ok (some (b, e)), m₁) => Sparse.get 0 m₁.haze.offers (hzLayer b) == n && hzRate e == 1 && offerSound b == sound
          && waitingIn m₁ == w && (sound || (flagReport 0 1 0 4 m₁).isSome) && (w < 64 || (flagReport 0 1 0 2 m₁).isSome)
      | _ => false)
/-- Offers passed over, malformed, one too many, and taken with the last place left. -/
theorem witness_HazeAndUpdatesAct_offer :
    let full (n : Nat) : Stack := { jobs := (List.range n).map sample, nextId := n }
    offers (offering 0 1 {}) 1 true 0 = true ∧ offers (offering 5 0 {}) 0 false 0 = true
    ∧ offers (offering 0 2 (full 64)) 2 true 64 = true ∧ offers (offering 0 2 (full 63)) 2 true 63 = true := by
  decide +kernel
theorem test_offer : (match exec (.hzOffer (some 0) 0x10000) (st (offering 0 0 {})) with
    | .next s => ((stackAt s.m 0).jobs.map fun j => j.kind) == [some (.haze 0 0 1)] && s.m.haze.offers == [(0, 1)]
    | _ => false) = true := by decide +kernel
/-- The sample, started on engines 0 to 3, with no report. -/
def sampling : Job := { sample 0 with started := true, checked := true, total := 4 }
theorem witness_HazeAndUpdatesAct_sample :
    let m := basin { with1 sampling with engines := (List.range 4).map fun e => (e, { job := 0, chunk := e }) }
    (assignAll 0 m = m ∧ stackRuns m 0 = true ∧ jobAt m 0 0 = some sampling ∧ sampling.kind = some (.haze 0 6 1)
      ∧ sampling.ending = none ∧ 4 ≤ enginesOn (stackAt m 0) 0)
    ∧ ∃ above m₁, (sampleTile sampling 0 6 1 0).go m = (.ok above, m₁) := by
  refine ⟨by decide +kernel, ?_⟩
  have h : (match (sampleTile sampling 0 6 1 0).go (basin
      { with1 sampling with engines := (List.range 4).map fun e => (e, { job := 0, chunk := e }) }) with
    | (.ok _, _) => true
    | _ => false) = true := by decide +kernel
  split at h
  · rename_i a m₁ e; exact ⟨a, m₁, e⟩
  · cases h
theorem witness_HazeAndUpdatesAct_report : [0x3F800000].foldl Nat.max 0 < 2 ^ 32 := by decide
/-- An error of 1.0 above the threshold 0.5: bin 15, MAXERR, TILES, EXCEED. -/
theorem test_report :
    let r := newReport [] [0x3F800000] 0x3F000000 7 6
    r.2 = true ∧ field r.1 60 4 = 1 ∧ field r.1 64 4 = 0x3F800000 ∧ field r.1 68 4 = 1 ∧ field r.1 76 4 = 1
    ∧ field r.1 80 6 = 6 := by decide +kernel

/-- An update of step 6 whose parameter record stands at 0x10000, with the flags `f`. -/
def upd (f : Nat) : Entry := desc 3 [(10, f), (18, 1), (48, 6)]
/-- The parameter record of a matrix of `n` rows and columns. -/
def params (n : Nat) : List (Nat × Nat) :=
  [(2, 2), (8, 0x80), (10, 2), (17, 1), (18, 2), (24, 0x80), (25, 1), (26, 2)]
    ++ (if n ≤ 1 then [] else [(33, 2), (34, 2), (40, 0x80), (41, 2), (42, 2)]) ++ [(48, n), (52, n), (67, 0x38)]
def paramMem (n : Nat) : List (Nat × Byte) := (params n).map fun p => (0x10000 + p.1, BitVec.ofNat 8 p.2)
/-- The module with that descriptor, its record for `n` rows, and bank 0 as `b` says. -/
def updating (e : Entry) (n : Nat) (b : Bank) (k : Stack) : Module :=
  { basin k with
    hg := { pool := [e], nextId := 1 }
    gate := { bank0 := b }
    mem := paramMem n }
def opened6 : Bank := { state := .opened, step := 6 }
/-- Refused, not open, frozen and strict, and prepared. -/
theorem witness_HazeAndUpdatesAct_admit :
    (Sound (updating (upd 0) 1 { state := .refused, step := 6 } {}) 0 3 (upd 0) ∧ (upd 0).work = .idle
      ∧ (stepBank (updating (upd 0) 1 { state := .refused, step := 6 } {}) (updateStep (upd 0))).step = updateStep (upd 0)
      ∧ (stepBank (updating (upd 0) 1 { state := .refused, step := 6 } {}) (updateStep (upd 0))).state = .refused)
    ∧ (Sound (updating (upd 0) 1 {} {}) 0 3 (upd 0)
      ∧ (stepBank (updating (upd 0) 1 {} {}) (updateStep (upd 0))).state = .idle)
    ∧ (Sound (updating (upd 0x30) 1 opened6 {}) 0 3 (upd 0x30) ∧ ready (updating (upd 0x30) 1 opened6 {}) (upd 0x30) = true
      ∧ (stepBank (updating (upd 0x30) 1 opened6 {}) (updateStep (upd 0x30))).step = updateStep (upd 0x30)
      ∧ (stepBank (updating (upd 0x30) 1 opened6 {}) (updateStep (upd 0x30))).state = .opened
      ∧ frozenUpdate (consumeInputs (upd 0x30) (updating (upd 0x30) 1 opened6 {})) (upd 0x30) = true
      ∧ strictUpdate (upd 0x30) = true)
    ∧ (Sound (updating (upd 0) 1 opened6 {}) 0 3 (upd 0) ∧ ready (updating (upd 0) 1 opened6 {}) (upd 0) = true
      ∧ strictUpdate (upd 0) = false) := by unfold Sound; decide +kernel
theorem test_update_strict : (match exec (.layerUpdate 0) (st { updating (upd 0x30) 1 opened6 {} with host := (withRing ring).host }) with
    | .next s => byteAt (getHost s.m 0 32) 0 == 0x21 && s.m.hg.pool.isEmpty
    | _ => false) = true := by decide +kernel
/-- The parameter record of `n` rows and columns is read, and its first failing field is `first`. -/
def reads (e : Entry) (n : Nat) (first : Option Nat) : Bool :=
  match (updateRecord e).go (updating e n opened6 {}) with
  | (.ok par, _) => lowest (UpdateJob.mk e par).failures == first
  | _ => false
theorem witness_HazeAndUpdatesAct_prepare : reads (upd 0x10) 1 none = true ∧ reads (upd 0) 0 (some 48) = true
    ∧ reads (upd 0) 1 none = true ∧ reads (upd 2) 2 none = true
    ∧ ({ frozen := true } : UpdateRun).record = [] ∧ ({ frozen := true } : UpdateRun).frozen = true
    ∧ ({} : UpdateRun).record = [] ∧ ({} : UpdateRun).frozen = false := by decide +kernel

/-- The record of `n` rows and columns, once read. -/
def record (n : Nat) : List Byte := listed 128 (params n)
/-- The module job of an update. -/
def updJob (cleaned : Bool) : Job :=
  { job 0 [] with
    kind := some (.update 0 1)
    checked := true
    cleaned := cleaned }
/-- The update whose translation pass has ended, its arrays being mapped to themselves. -/
def went (n : Nat) : UpdateRun := { job := some 0, record := record n, translated := true, pages := [(0x20, 0x20)] }
/-- A running update of the rule in `f`, whose one chunk stands on engine 0. -/
def running (f n : Nat) (cleaned : Bool) (r : UpdateRun) : Module :=
  updating (doing (upd f) (.update r)) n opened6 { with1 (updJob cleaned) with engines := [(0, { job := 0, chunk := 0 })] }
/-- The arrays translate, and of a module whose stack holds no translation they fault. -/
theorem witness_HazeAndUpdatesAct_translate :
    let r : UpdateRun := { job := some 0, record := record 1 }
    let e := doing (upd 0) (.update r)
    let m := running 0 1 false r
    let u : UpdateJob := { e := e, par := r.record }
    r.record ≠ [] ∧ r.job = some 0
    ∧ (match (probeArrays u (updateReach e 0 [])).go m with
        | (.ok pages, m₁) => pages == [(0x20, 0x20)] && (jobAt m₁ 0 0).isSome
        | _ => false) = true
    ∧ (match (probeArrays u (updateReach e 0 [])).go { m with tlbs := [] } with
        | (.error x, _) => !x.waits
        | _ => false) = true := by decide +kernel
theorem witness_HazeAndUpdatesAct_runs :
    let r : UpdateRun := went 1
    let e := doing (upd 0) (.update r)
    let m := running 0 1 false r
    entryAt m 0 = some e ∧ e.work = .update r ∧ working m = true ∧ r.waiting = false ∧ r.ending = none ∧ r.job = some 0
    ∧ r.translated = true ∧ jobAt (assignAll 0 m) (updateStack e) 0 = some (updJob false) ∧ (updJob false).started = true
    ∧ stackRuns (assignAll 0 m) (updateStack e) = true := by decide +kernel
theorem witness_HazeAndUpdatesAct_runs_before :
    let r : UpdateRun := { job := some 0 }
    let e := doing (upd 0) (.update r)
    entryAt (running 0 1 false r) 0 = some e ∧ e.work = .update r ∧ working (running 0 1 false r) = true
    ∧ r.waiting = false ∧ r.ending = none ∧ r.translated = false := by decide +kernel
/-- Its region clean, the gradient scale, the first pass of rule 2, and a chunk. -/
theorem witness_HazeAndUpdatesAct_stages :
    let r (n : Nat) : UpdateRun := { went n with gs := some 0x3F800000 }
    let e (f n : Nat) := doing (upd f) (.update (r n))
    let u (f n : Nat) : UpdateJob := { e := e f n, par := (r n).record }
    let reach (f n : Nat) := updateReach (e f n) 0 (r n).pages
    ends (cleanArrays (u 0 1) (reach 0 1)) (running 0 1 false (went 1)) = true
    ∧ (went 1).gs = none ∧ (match (gradScale (e 0 1) (reach 0 1)).go (running 0 1 true (went 1)) with
        | (.ok gs, _) => gs == 0x3F800000
        | _ => false) = true
    ∧ (u 2 2).rule = 2 ∧ (r 2).pass1 = false
    ∧ ends (do let _ ← firstPass (u 2 2) 0x3F800000 (reach 2 2)) (running 2 2 true (r 2)) = true
    ∧ (u 0 1).rule ≠ 2 ∧ heldChunk (stackAt (running 0 1 true (r 1)) 0) 0 = some (0, 0)
    ∧ (match (updateChunk (u 0 1) 0x3F800000 [] 0 (reach 0 1)).go (running 0 1 true (r 1)) with
        | (.ok x, m₁) => x == (1, 0) && (jobAt (setUpdate (e 0 1) { r 1 with updated := 1 } m₁) 0 0).isSome
        | _ => false) = true := by decide +kernel
/-- One element: master 1.0, gradient 1.0, momentum 0, rate 0.5: master 0.5. -/
theorem test_update_element :
    let k : Shared := { rule := 0, gs := 0x3F800000, lr := 0x3F000000, wd := 0, beta1 := 0, beta2 := 0, eps := 0, c1 := 0,
                        c2 := 0, bc1 := 0, bc2 := 0 }
    stepElem k 0x3F800000 0x3F800000 0 0 = some (0x3F000000, 0x3F800000, 0) ∧ stepElem k 0x7F800000 0 0 0 = none := by
  decide +kernel
theorem witness_HazeAndUpdatesAct_over :
    let r : UpdateRun := { went 1 with gs := some 0x3F800000, updated := 1 }
    let j := { updJob true with complete := [0], direct := [0x20000] }
    let e := doing (upd 0) (.update r)
    let u : UpdateJob := { e := e, par := r.record }
    let reach := updateReach e 0 r.pages
    let m := updating e 1 opened6 (with1 j)
    entryAt m 0 = some e ∧ working m = true ∧ jobAt m (updateStack e) 0 = some j ∧ stackRuns m (updateStack e) = true
    ∧ r.waiting = false ∧ r.translated = true ∧ r.job = some 0 ∧ updateOver u r j = true
    ∧ (match (do writeStats u r reach; highLines u reach : Acc (List Nat)).go m with
        | (.ok l, m₁) => l == [0x20000] && jobAt m₁ 0 0 == some j && (updateBack 0 l j m₁).isSome
        | _ => false) = true := by decide +kernel
theorem test_update_complete :
    let r : UpdateRun := { went 1 with gs := some 0x3F800000, updated := 1 }
    let e := doing (upd 0) (.update r)
    let m := updating e 1 opened6 (with1 { updJob true with complete := [0] })
    (match exec (.updateComplete 0) (st { m with host := (withRing ring).host }) with
      | .next s => byteAt (getHost s.m 0 32) 12 == 1 && (stackAt s.m 0).jobs == []
      | _ => false) = true := by decide +kernel
/-! ## Sluiceway ports and flits -/

/-- The running module at time `t`, with port 3 of way 1 as `p` says and the way as `y` says but for its ports. -/
def ported (t : Word) (y : Way) (p : Port) : Module := setWay 1 { y with ports := [(3, p)] } { up with time := t }
def portIn (x : PortState) : Port := { state := x }
theorem witness_PortsAndFlitsFollowTheLink_entry :
    let m := ported 0 {} (portIn .disabled)
    slOut m 1 = true ∧ portPresent m.board.part 1 3 = true ∧ (portAt m 1 3).enable = true ∧ (portAt m 1 3).state = .disabled := by
  decide +kernel
theorem witness_PortsAndFlitsFollowTheLink_loopback :
    let m := ported 1000000 {} (portIn .loopback)
    alive m = true ∧ (portAt m 1 3).state = .loopback ∧ millis 1 ≤ (m.time - (portAt m 1 3).since).toNat
    ∧ (portAt m 1 3).passed = false := by decide +kernel
theorem test_loopback_fails : (match exec (.loopbackComplete 1 3 false) (st (ported 1000000 {} (portIn .loopback))) with
    | .next s => (portAt s.m 1 3).state == .failed && (portAt s.m 1 3).reason == 1
    | _ => false) = true := by decide +kernel
/-- Both ways of a dimension hold, or have passed, or neither. -/
theorem witness_PortsAndFlitsFollowTheLink_hold :
    let y : Way := { ports := [(0, { state := .loopback, passed := true })] }
    let m := setWay 3 y (setWay 1 y up)
    (∀ w ∈ dimWays false, (wayAt (setWay 3 { hold := true } (setWay 1 { hold := true } up)) w).hold = true)
    ∧ (¬ ∀ w ∈ dimWays false, (wayAt m w).hold = true)
    ∧ (∀ w ∈ dimWays false, (wayAt m w).retryAt = none ∧ ∃ i, i < 4 ∧ (portAt m w i).passed = true ∧ (portAt m w i).enable = true)
    ∧ (∀ w ∈ dimWays false, (wayAt up w).retryAt = none) ∧ (portAt up 1 0).passed = false := by
  refine ⟨by decide +kernel, by decide +kernel, ?_, by decide +kernel, by decide +kernel⟩
  intro w hw
  refine ⟨?_, 0, by decide, ?_⟩ <;> revert w <;> decide +kernel
theorem witness_PortsAndFlitsFollowTheLink_training :
    (portAt (ported 0 {} (portIn .wait)) 1 3).state = .wait ∧ (portAt (ported 0 {} (portIn .train)) 1 3).state = .train
    ∧ (portAt (ported 0 {} (portIn .align)) 1 3).state = .align
    ∧ (let due (x : PortState) (n : Nat) : Bool :=
        let m := ported (BitVec.ofNat 64 (millis n)) {} (portIn x)
        alive m && (portAt m 1 3).state == x && decide (millis n ≤ (m.time - (portAt m 1 3).since).toNat)
       (due .wait 1000 && due .train 500 && due .align 10 && due .handshake 1) = true) := by decide +kernel
/-- ERRMAX 64 codewords, and one more. -/
theorem witness_PortsAndFlitsFollowTheLink_failures :
    let m := ported 100000 {} (portIn .active)
    alive m = true ∧ (portAt m 1 3).state = .active ∧ (portAt m 1 3).errMax.toNat ≠ 0 ∧ (portAt m 1 3).errMax.toNat < 65
    ∧ ¬ (portAt m 1 3).errMax.toNat < 64 ∧ micros 100 ≤ (m.time - (portAt m 1 3).heard).toNat := by decide +kernel
/-- Ports 2 and 3 of a way carry flits. -/
def twoPorts : Module :=
  setWay 1 { up := true, retry := [{ seq := 0, msgs := [], port := 3 }],
             ports := [(2, { portIn .active with matched := true }), (3, { portIn .active with matched := true })] } up
theorem witness_PortsAndFlitsFollowTheLink_remaining :
    (2 : Nat) < 4 ∧ (2 : Nat) ≠ 3 ∧ (portAt twoPorts 1 2).matched = true ∧ (portAt twoPorts 1 3).state = .active
    ∧ (portAt twoPorts 1 3).matched = true := by decide +kernel
theorem test_port_fails : (match exec (.lockLoss 1 3) (st twoPorts) with
    | .next s => (wayAt s.m 1).up && ((wayAt s.m 1).retry.map fun x => x.port) == [2] && (portAt s.m 1 3).reason == 3
    | _ => false) = true := by decide +kernel
theorem witness_PortsAndFlitsFollowTheLink_failed :
    let m (h : Bool) := ported 100000000 { hold := h } (portIn .failed)
    alive (m true) = true ∧ (portAt (m true) 1 3).state = .failed ∧ millis 100 ≤ ((m true).time - (portAt (m true) 1 3).since).toNat
    ∧ (wayAt (m true) 1).hold = true ∧ (portAt (m false) 1 3).state = .failed ∧ (wayAt (m false) 1).hold = false := by
  decide +kernel
/-- Ring holds 2 s old: of ways that are up, and of ways that are not. -/
def held2s (x : PortState) : Module :=
  let y : Way := { hold := true, holdDue := true, ports := [(0, portIn x)] }
  setWay 2 y (setWay 0 y { up with time := 2000000000 })
theorem witness_PortsAndFlitsFollowTheLink_held :
    let due (m : Module) : Bool := alive m && (dimWays true).all fun w => (wayAt m w).hold && (wayAt m w).holdDue
      && decide (millis 2000 ≤ (m.time - (wayAt m w).holdSince).toNat)
    due (held2s .active) = true ∧ due (held2s .train) = true
    ∧ (∀ w ∈ dimWays true, (portAt (held2s .active) w 0).state = .active)
    ∧ ∀ w ∈ dimWays true, ∀ i, i < 4 → (portAt (held2s .train) w i).state ≠ .active := by
  refine ⟨by decide +kernel, by decide +kernel, by decide +kernel, ?_⟩
  decide +kernel
theorem witness_PortsAndFlitsFollowTheLink_retry :
    let y : Way := { retryAt := some 10 }
    let m := setWay 2 y (setWay 0 y { up with time := 10 })
    alive m = true ∧ ∀ w ∈ dimWays true, (wayAt m w).retryAt = some 10 ∧ (10 : Word).toNat ≤ m.time.toNat := by decide +kernel
/-- Matching and mis-wired links, before and after the fabric is valid. -/
theorem witness_PortsAndFlitsFollowTheLink_link :
    let f : Fabric := { valid := true, nx := 4, ny := 1, node := 0 }
    linkMatches f 1 3 1 true 3 3 4 1 = true ∧ linkMatches f 1 3 0 true 3 3 4 1 = false ∧ linkMatches f 1 3 1 true 1 3 4 1 = false
    ∧ linkMatches {} 1 3 9 true 3 3 9 9 = true
    ∧ (let m (x : PortState) := ported 0 {} (portIn x)
       alive (m .handshake) = true ∧ (portAt (m .handshake) 1 3).state = .handshake ∧ (portAt (m .active) 1 3).state = .active
       ∧ (wayAt (m .handshake) 1).up = false ∧ (portAt (m .train) 1 3).state ≠ .handshake
       ∧ (portAt (m .train) 1 3).state ≠ .active) := by decide +kernel
theorem test_link : (match exec (.linkMessage 1 3 1 true 3 3 4 1) (st (ported 0 {} (portIn .handshake))) with
    | .next s => (wayAt s.m 1).up && (portAt s.m 1 3).matched && (wayAt s.m 1).neigh == 1
    | _ => false) = true := by decide +kernel
theorem test_link_active : (match exec (.linkMessage 1 3 1 true 3 3 4 1) (st (ported 9 {} (portIn .active))) with
    | .next s => (portAt s.m 1 3).heard == s.m.time && s.m.time == 9 && (wayAt s.m 1).neigh == 1
    | _ => false) = true := by decide +kernel

/-- The sound flit with the header bytes listed and empty slots. -/
def flitOf (l : List (Nat × Nat)) : List Byte :=
  let h := listed 12 l
  let z : List Byte := List.replicate 1008 0
  h ++ bytesOf 4 (crc32 (h ++ z)) ++ z
/-- The CRC of nine ASCII digits is the one its polynomial is known by. -/
theorem test_crc : crc32 [0x31, 0x32, 0x33, 0x34, 0x35, 0x36, 0x37, 0x38, 0x39] = 0xCBF43926 := by decide +kernel
theorem crcBits_lt (n c : Nat) (h : c < 2 ^ 32) : crcBits n c < 2 ^ 32 := by
  induction n generalizing c with
  | zero => exact h
  | succ n ih =>
    unfold crcBits
    apply ih
    have h2 : c / 2 < 2 ^ 32 := by omega
    split
    · exact Nat.xor_lt_two_pow h2 (by decide)
    · exact h2
theorem crc32_lt (bs : List Byte) : crc32 bs < 2 ^ 32 := by
  unfold crc32
  refine Nat.xor_lt_two_pow ?_ (by decide)
  suffices ∀ c, c < 2 ^ 32 → bs.foldl (fun c b => crcBits 8 (c ^^^ b.toNat)) c < 2 ^ 32 from this _ (by decide)
  induction bs with
  | nil => intro c h; exact h
  | cons b bs ih =>
    intro c h
    exact ih _ (crcBits_lt _ _ (Nat.xor_lt_two_pow h (by have := b.isLt; omega)))
theorem bytesOf_length (n x : Nat) : (bytesOf n x).length = n := by
  induction n generalizing x with
  | zero => rfl
  | succ n ih => simp [bytesOf, ih]
theorem ofBytes_bytesOf4 (c : Nat) (h : c < 2 ^ 32) : ofBytes (bytesOf 4 c) = c := by
  simp only [bytesOf, ofBytes, BitVec.toNat_ofNat]
  omega
theorem flitSound_of (h z : List Byte) (hh : h.length = 12) (hz : z.length = 1008) :
    flitSound (h ++ bytesOf 4 (crc32 (h ++ z)) ++ z) = true := by
  have hb := bytesOf_length 4 (crc32 (h ++ z))
  have e := ofBytes_bytesOf4 _ (crc32_lt (h ++ z))
  generalize bytesOf 4 (crc32 (h ++ z)) = b at hb e
  have h1 : (h ++ b ++ z).length = 1024 := by simp only [List.length_append]; omega
  have h2 : (h ++ b ++ z).take 12 = h := by
    rw [List.append_assoc, List.take_append_of_le_length (by omega), List.take_of_length_le (by omega)]
  have h3 : (h ++ b ++ z).drop 16 = z := by
    have : (h ++ b).length = 16 := by simp only [List.length_append]; omega
    rw [← this, List.drop_left]
  have h4 : ((h ++ b ++ z).drop 12).take 4 = b := by
    rw [List.append_assoc, ← hh, List.drop_left, ← hb, List.take_left]
  simp only [flitSound, field, h1, h2, h3, h4, e, beq_self_eq_true, Bool.and_self]
theorem flitOf_sound (l : List (Nat × Nat)) : flitSound (flitOf l) = true :=
  flitSound_of _ _ (by simp only [listed, List.length_map, List.length_range]) List.length_replicate
theorem witness_PortsAndFlitsFollowTheLink_flit :
    alive twoPorts = true ∧ (portAt twoPorts 1 3).matched = true ∧ flitSound [] = false
    ∧ (∀ b, b < 4 → byteAt (flitOf [(0, b)]) 0 % 4 = b) ∧ ∀ b, flitSound (flitOf [(0, b)]) = true :=
  ⟨by decide +kernel, by decide +kernel, by decide +kernel, by decide +kernel, fun b => flitOf_sound _⟩
theorem test_flit_in_order :
    let m := takeData_ 1 (flitOf [(2, 0), (4, 0xFF), (5, 0xFF)]) twoPorts
    (wayAt m 1).ack = 0 ∧ (wayAt m 1).discarding = false := by decide +kernel
theorem test_flit_acknowledges : (wayAt (takeReturns 1 (flitOf [(0, 1)]) twoPorts) 1).retry = []
    ∧ (wayAt (takeReturns 1 (flitOf [(0, 1), (4, 0xFF), (5, 0xFF)]) twoPorts) 1).retry.map (fun x => x.seq) = [0] := by
  decide +kernel
/-- A duplicate, the next in order, the first and the last early one, and the first past the window. -/
theorem witness_PortsAndFlitsFollowTheLink_order :
    let ahead (n : BitVec 16) : Nat := (n - (wayAt twoPorts 1).ack).toNat
    ahead 0xFFFF = 0 ∧ 32768 ≤ ahead 0x7FFF ∧ ahead 0 = 1 ∧ ahead 1 = 2 ∧ ahead 63 = 64 ∧ (wayAt twoPorts 1).discarding = false
    ∧ 64 < ahead 64 ∧ ahead 0x7FFE < 32768 := by decide +kernel
theorem witness_PortsAndFlitsFollowTheLink_sent : ((({ kind := 1, ack := 0 } : Flit).msgs.map Msg.size).sum ≤ 63) := by decide
theorem witness_PortsAndFlitsFollowTheLink_resend :
    let m := { twoPorts with time := 4000 }
    alive m = true ∧ (wayAt m 1).up = true ∧ (wayAt m 1).retry ≠ []
    ∧ micros 4 ≤ (m.time - (wayAt m 1).retrySince).toNat := by decide +kernel

/-! ## Fabric messages -/

/-- A message from node 7. -/
def letter (type op : BitVec 8) (addr : Nat) (payload : List Byte) : Msg :=
  { type := type, op := op, dst := 0, src := 7, addr := addr, payload := payload }
/-- A command brings the message to a module. -/
def comes (x : Msg) (m : Module) : Bool :=
  !x.unsound && alive m && x.dst == m.fabric.node && decodeMsg (encodeMsg x) == some (x, [])
    && takeMsg (fun z => z == x) m == some (none, m)
theorem comes_spec {x : Msg} {m : Module} (h : comes x m = true) : Arrives (st m) x.type.toNat (encodeMsg x) x m := by
  simp only [comes, Bool.and_eq_true, beq_iff_eq, Bool.not_eq_true'] at h
  exact ⟨h.1.1.1.1, h.1.1.1.2, rfl, h.1.1.2, ⟨[], h.1.2⟩, none, h.2⟩

/-- A module whose home memory is blocked, and one with the first quarter of a line poisoned. -/
def blockedAt (a : Nat) : Module := setDram (dramKey a) { trained := true, blocked := true } up
def poisoned (a : Nat) : Module := { up with poison := [(a / 32, true)] }
def askRead (a : Nat) : Msg := letter 0x01 0x03 a []
theorem witness_FabricRequestsAreAnswered_read :
    comes (askRead hostBase) up = true ∧ plainMemory up hostBase = false
    ∧ comes (askRead 0x400000040) (blockedAt 0x400000000) = true ∧ plainMemory (blockedAt 0x400000000) 0x400000040 = true
    ∧ llcRead 0x400000000 0 (blockedAt 0x400000000) = none
    ∧ (match llcRead 0x400000000 0 (poisoned 0x400000000) with
        | some (d, _) => touchesPoison d.2 0 8 && !touchesPoison d.2 64 8
        | none => false) = true := by decide +kernel
theorem test_read_answers : (match exec (.fabricRead (encodeMsg (askRead 0x400000048))) (st { up with
      mem := [(0x400000048, 0x5A)], fabric := { valid := true, nx := 8, table := 8#16384 <<< 28, ways := [(1, { up := true, neigh := 1 })] } }) with
    | .next s => ((s.m.fabric.ways.flatMap fun y => y.2.queues.flatMap fun q => q.2.map fun k =>
        (k.msg.type, k.msg.dst, k.msg.payload.length, byteAt k.msg.payload 8))) == [(0x10, 7, 16, 0x5A)]
    | _ => false) = true := by decide +kernel
/-- A WR of byte 0x48 of a line: the mask, then the slots from the one ADDR names. -/
def askWrite (a : Nat) : Msg := letter 0x02 0 a (listed 16 [(9, 1)] ++ listed 16 [(8, 0x77)])
def askAtom (a : Nat) : Msg := letter 0x03 0x10 a (listed 16 [(0, 5)])
theorem witness_FabricRequestsAreAnswered_write :
    comes (askWrite hostBase) up = true ∧ comes (askWrite 0x400000048) up = true ∧ plainMemory up 0x400000048 = true
    ∧ llcWrite 0x400000000 0 [] (fun _ => true) 0 (blockedAt 0x400000000) = none
    ∧ (llcWrite 0x400000000 0 (List.replicate 64 0 ++ listed 16 [(8, 0x77)])
        (fun i => (field (askWrite 0x400000048).payload 0 16).testBit i) 0 up).isSome = true := by decide +kernel
theorem test_write : (match exec (.fabricWrite (encodeMsg (askWrite 0x400000048))) (st up) with
    | .next s => ((sliceAt s.m (homeSlice 0x400000000)).lines.map fun l => (l.line, byteAt l.data 0x48, byteAt l.data 0x40))
        == [(0x400000000, 0x77, 0)]
    | _ => false) = true := by decide +kernel
theorem witness_FabricRequestsAreAnswered_atom :
    comes (askAtom hostBase) up = true ∧ comes (askAtom 0x400000000) up = true
    ∧ comes (askAtom 0x400000000) (poisoned 0x400000000) = true
    ∧ (match llcAtomic 0 8 0x400000000 5 0 up with
        | some (some old, _) => old == 0
        | _ => false) = true
    ∧ (match llcAtomic 0 8 0x400000000 5 0 (poisoned 0x400000000) with
        | some (none, _) => true
        | _ => false) = true
    ∧ llcAtomic 0 8 0x400000000 5 0 (blockedAt 0x400000000) = none
    ∧ comes (askAtom 0x400000000) (blockedAt 0x400000000) = true := by decide +kernel
/-- Requests whose byte 15 is not 0. -/
theorem witness_FabricRequestsAreAnswered_unsound :
    [askRead 0x400000040, askWrite 0x400000048, askAtom 0x400000000, letter 0x04 0 0x400000000 []].all (fun x =>
      let y := { x with byte15 := 1 }
      y.unsound && y.dst == up.fabric.node && decodeMsg (encodeMsg y) == some (y, [])) = true := by decide +kernel
/-- A RED of one origin that adds 5 to the second FP32-sized element of a line. -/
def askRed (a : Nat) : Msg :=
  letter 0x04 0 a (listed 16 [(0, 7), (5, 0xF0), (9, 0xF0), (13, 0xF0)] ++ listed 16 [(0, 0xF0)] ++ listed 16 [(4, 5)])
theorem witness_FabricRequestsAreAnswered_reduce :
    comes (askRed hostBase) up = true ∧ comes (askRed 0x400000000) up = true ∧ plainMemory up 0x400000000 = true
    ∧ (redElements (askRed 0x400000000)) = [(0x400000004, 5)]
    ∧ (match (redElements (askRed 0x400000000)).foldl (fun m e => match m with
        | some m => llcReduce 0 e.1 e.2 m
        | none => none) (some up) with
        | some _ => true
        | none => false) = true
    ∧ (match (redElements (askRed 0x400000000)).foldl (fun m e => match m with
        | some m => llcReduce 0 e.1 e.2 m
        | none => none) (some (blockedAt 0x400000000)) with
        | some _ => false
        | none => true) = true := by decide +kernel

/-- A request of this module with tag 5 to node 7. -/
def tagOfKind (who : Requestor) (late : Bool) : Tag :=
  { tid := 5, who := who, node := 7, addr := 0x1000, va := 0x1000, msg := letter 0x01 3 0x1000 [], sent := 0, way := 1, quarantined := late }
def awaiting (l : List Tag) : Module :=
  setThread 0 { th with loads := [{ rd := 6, pc := 0x1000, addr := 0x1000 }] } { up with fabric := { tags := l } }
def responds (type op : BitVec 8) (payload : List Byte) : Msg := { letter type op 0x1000 payload with tid := 5 }
theorem witness_FabricRequestsAreAnswered_late :
    (∀ type ∈ [0x10, 0x11, 0x12, 0x13], comes (responds type 0 []) (awaiting [tagOfKind (.load 0 6 8 false 0) true]) = true
      ∧ comes (responds type 0 []) (awaiting []) = true) := by decide +kernel
theorem answers_of {x : Msg} {l : List Tag} {g : Tag} (h : comes x (awaiting l) = true)
    (hg : ((l.find? fun h => h.tid == x.tid) == some g && !g.quarantined) = true) :
    ∃ m₂, Answers (st (awaiting l)) x.type.toNat (encodeMsg x) x g m₂ := by
  simp only [Bool.and_eq_true, beq_iff_eq, Bool.not_eq_true'] at hg
  exact ⟨_, awaiting l, comes_spec h, hg.1, hg.2, rfl⟩
/-- One response of each kind to each kind of request it may answer. -/
theorem witness_FabricRequestsAreAnswered_answer :
    let load : Requestor := .load 0 6 8 false 0
    let line : Requestor := .line (.thread 0)
    let atom : Requestor := .atomic 0 6 8
    let ok (type op : BitVec 8) (who : Requestor) : Bool :=
      comes (responds type op []) (awaiting [tagOfKind who false])
        && (([tagOfKind who false].find? fun h => h.tid == 5) == some (tagOfKind who false) && !(tagOfKind who false).quarantined)
    (ok 0x10 0 load && ok 0x10 0 line && ok 0x11 0 (.reduce none) && ok 0x12 0 atom && ok 0x13 1 load && ok 0x13 3 load
      && ok 0x13 2 load && ok 0x13 2 atom && ok 0x13 2 line) = true := by decide +kernel
theorem test_read_data : (match exec (.readData (encodeMsg (responds 0x10 0 (listed 128 [(7, 0x80)])))) (st (awaiting [tagOfKind (.load 0 6 8 true 0) false])) with
    | .next s => ((threadAt s.m 0).loads.map fun p => p.data) == [some 0x8000000000000000#64] && s.m.fabric.tags == []
    | _ => false) = true := by decide +kernel
theorem witness_FabricRequestsAreAnswered_poison :
    (threadAt (awaiting []) 0).loads.find? (fun q => q.rd == 6 && q.data.isNone) = some { rd := 6, pc := 0x1000, addr := 0x1000 }
    ∧ (threadAt (awaiting []) 0).exc = none ∧ ({ rd := 6, pc := 0x1000, addr := 0x1000 } : PendingLoad).squashed = false
    ∧ (let p : PendingLoad := { rd := 6, pc := 0x1000, addr := 0x1000, squashed := true, undo := some (1, 5, false) }
       let m := setThread 0 { th with loads := [p] } up
       (threadAt m 0).loads.find? (fun q => q.rd == 6 && q.data.isNone) = some p) := by decide +kernel
/-- RTO 0 counts as 1 ms. -/
theorem witness_FabricRequestsAreAnswered_timeout :
    let g (late : Bool) := tagOfKind (.load 0 6 8 false 0) late
    let m (late : Bool) : Module := { awaiting [g late] with time := 1000000, fabric := { tags := [g late], rto := 0 } }
    (∀ late, ((m late).fabric.tags.find? fun h => h.tid == 5) = some (g late)
      ∧ millis (max (m late).fabric.rto.toNat 1) ≤ ((m late).time - (g late).sent).toNat)
    ∧ alive (m false) = true ∧ (g true).quarantined = true := by decide +kernel
theorem test_request_timeout :
    let g := tagOfKind (.load 0 6 8 false 0) false
    (match exec (.requestTimeout 5) (st { awaiting [g] with time := 1000000, fabric := { tags := [g], rto := 1 } }) with
      | .next s => (s.m.fabric.tags.map fun h => (h.quarantined, h.sent)) == [(true, 1000000)]
          && (threadAt s.m 0).loads == []
      | _ => false) = true := by decide +kernel

/-! ## The Weir -/

/-- The table entry of an expert whose one home is this module: one intake slot of 16 bytes, and `ov` overflow slots. -/
def expertBody (ov : Nat) : List Byte :=
  listed 48 [(2, 1), (3, if ov = 0 then 0 else 1), (14, 1), (16, 1), (18, ov), (20, 16), (26, 5), (42, 6)]
/-- The running module, its engines reaching memory, with expert 0, one batch and one token-table entry. -/
def weir (k : Expert) (b : List Batch) (c : Sparse Choice) : Module :=
  let w : Weir := { experts := [(0, k)], batches := b, nextId := 1, entries := c }
  { setThread 0 { th with priv := { level := 1 } } up with
    weir := w
    tlbs := [(handleWeir, [{ asid := 0, va := 0, log := 40, pa := 0, perms := 7 }])] }
/-- A batch of one token with one choice of a row of four FP32 elements. -/
def batch : Batch :=
  { id := 0, addr := 0x8000, thread := 0, task := 0, asid := 0, tag := 0, ring := 0, level := 1
    record := listed 64 [(0, 1), (1, 0x10), (3, 1), (8, 1), (12, 1), (16, 4), (26, 1), (34, 2), (42, 3), (50, 4), (58, 5)] }
theorem witness_WeirMovesTokens_post :
    let m (lvl : BitVec 2) (n : Nat) : Module :=
      setThread 0 { th with priv := { level := lvl } } (weir {} (List.replicate n batch) [])
    weirPresent { up with board := { up.board with part := .s } }.board.part = false ∧ weirRuns (m 2 0) = true
    ∧ (threadAt (m 2 0) 0).priv.level = 2 ∧ (threadAt (m 1 0) 0).priv.level ≠ 2
    ∧ 64 ≤ (m 1 64).weir.batches.length ∧ (m 1 63).weir.batches.length < 64 := by decide +kernel
theorem test_weir_post : (match exec (.wpPost (some 0) 0xFFFF00000000807F) (st (weir {} [] [])) with
    | .next s => (s.m.weir.batches.map fun b => (b.id, b.addr, b.level)) == [(1, 0x8040, 1)]
    | _ => false) = true := by decide +kernel

/-- Messages of one slot each for entry 0, expert 0, and one with a reserved field. -/
def asked (type op : BitVec 8) (addr : Nat) (payload : List Byte) : Msg := { letter type op addr payload with tid := 0 }
def weirAct (type : BitVec 8) : Msg → Module → Except (Module → Module) Module :=
  if type = 0x20 then takeDispatch else if type = 0x21 then takeGrant else if type = 0x22 then takeTdata
  else if type = 0x23 then takeEnd else takeRdata
/-- A command brings the message, sound or not. -/
def comesOne (x : Msg) (m : Module) : Bool :=
  alive m && x.dst == m.fabric.node && decodeMsg (encodeMsg x) == some (x, [])
    && takeMsg (fun z => z == x) m == some (none, m)
theorem comesOne_spec {x : Msg} {m : Module} (h : comesOne x m = true) :
    Comes (st m) x.type.toNat (encodeMsg x) x m := by
  simp only [comesOne, Bool.and_eq_true, beq_iff_eq] at h
  exact ⟨h.1.1.1, rfl, h.1.1.2, ⟨[], h.1.2⟩, none, h.2⟩
theorem witness_WeirMovesTokens_messages :
    let m := weir { body := expertBody 0 } [] []
    let ok (x : Msg) : Bool := weirRuns m && comesOne x m && weirSound x && (match weirAct x.type x m with
      | .ok _ => true
      | .error _ => false)
    (ok (asked 0x20 0 0 []) && ok (asked 0x21 0 0 []) && ok (asked 0x22 0 0 (listed 16 [])) && ok (asked 0x23 0 0 [])
      && ok (asked 0x24 0 0 (listed 16 []))) = true
    ∧ [0x20, 0x21, 0x22, 0x23, 0x24].all (fun t => !weirSound (asked t 0x80 0 []) && comesOne (asked t 0x80 0 []) m) = true := by
  decide +kernel
/-- Expert 0 in a state, at a round, with these slots taken. -/
def expert (ov : Nat) (x : ExpertState) (round : BitVec 16) (slots : Sparse Granted) : Expert :=
  { body := expertBody ov, state := x, round := round, slots := slots }
def taken : Granted := { src := 7, entry := 0, vbytes := 16 }
/-- A row too long or a strange expert; slots free, overflowed, full; a later round, the last later one, and a past one. -/
theorem witness_WeirMovesTokens_dispatch :
    let m (k : Expert) := weir k [] []
    let k := expert 1 .opened 0 []
    ¬ (hosted (m k) k = true ∧ 16 * (1 + 1) ≤ k.slotBytes) ∧ ¬ hosted (m {}) {} = true
    ∧ (hosted (m k) k = true ∧ 16 * (0 + 1) ≤ k.slotBytes) ∧ k.state = .opened ∧ slotFree k 0 k.intake = some 0
    ∧ (let y := expert 1 .opened 0 [(0, taken)]
       slotFree y 0 y.intake = none ∧ y.spill = true ∧ slotFree y y.intake y.ovSlots = some 1)
    ∧ (let y := expert 0 .opened 0 [(0, taken)]
       slotFree y 0 y.intake = none ∧ y.spill = false)
    ∧ (let y := expert 1 .opened 0 [(0, taken), (1, taken)]
       slotFree y 0 y.intake = none ∧ slotFree y y.intake y.ovSlots = none)
    ∧ (1 ≤ (1 - 0 : BitVec 16).toNat ∧ (1 - 0 : BitVec 16).toNat ≤ 32767)
    ∧ (0x7FFF - 0 : BitVec 16).toNat ≤ 32767 ∧ ¬ (0x8000 - 0 : BitVec 16).toNat ≤ 32767 := by decide +kernel
theorem witness_WeirMovesTokens_slot : slotFree (expert 2 .opened 0 [(1, taken)]) 1 2 = some 2 := by decide +kernel
theorem witness_WeirMovesTokens_granting :
    let k := expert 0 .opened 0 []
    ends (writeLocal (tagAt k 0) (tagBytes taken false)) (weir k [] []) = true := by decide +kernel
theorem test_dispatch : (match takeDispatch (asked 0x20 0 0 []) (weir (expert 0 .opened 0 []) [] []) with
    | .ok m => (expertAt m 0).slots == [(0, taken)] && (expertAt m 0).since == some 0
    | .error _ => false) = true := by decide +kernel
/-- No slot; a wrong sender, a byte too many; a whole row. -/
theorem witness_WeirMovesTokens_tdata :
    let k := expert 0 .opened 0 [(0, taken)]
    Sparse.find (expert 0 .opened 0 []).slots 0 = none ∧ Sparse.find k.slots 0 = some taken
    ∧ taken.src = (asked 0x22 0 0 []).src ∧ taken.src ≠ 8 ∧ taken.vbytes < 16 * 1 + 16 ∧ 16 * 0 + 16 ≤ taken.vbytes
    ∧ ends (writeLocal (k.slotAt 0 + 0) (listed 16 [])) (weir k [] []) = true := by decide +kernel
theorem witness_WeirMovesTokens_end : let k := expert 0 .opened 0xFFFF []
    hosted (weir k [] []) (expertAt (weir k [] []) 0) = true ∧ (0 : BitVec 16) = k.round + 1 ∧ (1 : BitVec 16) ≠ k.round + 1 := by
  decide +kernel
theorem witness_WeirMovesTokens_close :
    let k := { expert 0 .opened 0 [(0, { taken with arrived := 16 })] with ends := 1, since := some 0 }
    let m := { weir k [] [] with time := 10000000 }
    weirRuns m = true ∧ hosted m k = true ∧ k.expect ≤ k.ends ∧ (∀ p ∈ k.slots, p.2.whole = true)
    ∧ ends (writeClose k) m = true ∧ millis (max m.weir.cto.toNat 1) ≤ (m.time - 0).toNat := by decide +kernel
theorem witness_WeirMovesTokens_return :
    let k := expert 0 .closed 3 []
    weirRuns (weir k [] []) = true ∧ hosted (weir k [] []) k = true ∧ k.state = .closed ∧ k.round.toNat = 0x3000 / 4096 % 65536
    ∧ k.round.toNat ≠ 0x4000 / 4096 % 65536 := by decide +kernel
/-- A returning expert with one whole slot. -/
def returning : Expert := expert 0 .returning 3 [(0, { taken with arrived := 16 })]
theorem witness_WeirMovesTokens_results :
    returning.state = .returning ∧ (sendResults returning returning.slots (weir returning [] [])).1 = true := by decide +kernel
theorem test_return : (match exec (.wpReturn none 0x3000) (st (weir (expert 0 .closed 3 []) [] [])) with
    | .next s => (expertAt s.m 0).state == .opened && (expertAt s.m 0).round == 4
    | _ => false) = true := by decide +kernel

theorem witness_WeirMovesTokens_starts : weirRuns (weir {} [batch] []) = true := by decide +kernel
/-- A batch of another opcode; one with its entries free; one that wants one entry too many. -/
theorem witness_WeirMovesTokens_launch :
    let act : Acc (Sparse Nat × List Byte) := do
      let pages ← if batch.pages.isEmpty then batchPages batch else pure batch.pages
      let routes ← batchRead { batch with pages := pages } batch.route (8 * (batch.count * batch.k))
      pure (pages, routes)
    checkBatch up { batch with record := listed 64 [] } = some (0x40, 0) ∧ checkBatch up batch = none
    ∧ (match act.go (weir {} [batch] []) with
        | (.ok _, m₁) => decide (m₁.weir.entries.length + batch.count * batch.k ≤ 131072)
        | _ => false) = true
    ∧ 131072 < 131072 + batch.count * batch.k := by decide +kernel
/-- The batch, started, with the pages it uses, and one choice of it. -/
def batch' : Batch := { batch with started := true, pages := [(0x10, 0x10), (0x20, 0x20), (0x30, 0x30), (0x40, 0x40), (0x50, 0x50)] }
def choice (p : ChoicePhase) : Choice := { batch := 0, token := 0, choice := 0, expert := 0, phase := p }
/-- Granted, refused and told to wait. -/
theorem witness_WeirMovesTokens_grant :
    let m := weir {} [batch'] [(0, choice (.awaiting 7 0))]
    Sparse.find m.weir.entries (entryOf (asked 0x21 0 0 [])) = some (choice (.awaiting 7 0))
    ∧ batchAt m 0 = some batch' ∧ (asked 0x21 4 0 []).op.toNat / 2 = 2 ∧ (asked 0x21 6 0 []).op.toNat / 2 = 3
    ∧ (asked 0x21 2 0 []).op.toNat / 2 < 2
    ∧ (match (batchRead batch' (batch'.x + batch'.vbytes * 0) batch'.vbytes).go m with
        | (.ok row, _) => decide (row.length = 16)
        | _ => false) = true := by decide +kernel
/-- Late and timely results. -/
theorem witness_WeirMovesTokens_rdata :
    let m (p : ChoicePhase) := weir {} [batch'] [(0, choice p)]
    Sparse.find (m (.lost 0)).weir.entries 0 = some (choice (.lost 0))
    ∧ Sparse.find (m (.granted 0)).weir.entries 0 = some (choice (.granted 0)) ∧ batchAt (m (.granted 0)) 0 = some batch'
    ∧ 16 * 0 + (listed 16 []).length ≤ batch'.vbytes ∧ batch'.draining = false
    ∧ ends (batchWrite batch' (batch'.staging (batch'.k * 0 + 0) + 0) (listed 16 [])) (m (.granted 0)) = true := by
  decide +kernel
theorem test_rdata : (match takeRdata (asked 0x24 0 0 (listed 16 [])) (weir {} [batch'] [(0, choice (.granted 0))]) with
    | .ok m => m.weir.entries == [] && (m.weir.batches.map fun b => b.outcomes) == [[(0, 1)]]
    | .error _ => false) = true := by decide +kernel
theorem witness_WeirMovesTokens_timers :
    let m (p : ChoicePhase) : Module := { weir {} [batch'] [(0, choice p)] with time := 20000000 }
    weirRuns (m .fresh) = true ∧ Sparse.find (m (.retry 7 0)).weir.entries 0 = some (choice (.retry 7 0))
    ∧ batchAt (m .fresh) 0 = some batch' ∧ batch'.waiting = false ∧ batch'.draining = false
    ∧ micros (max (m .fresh).weir.retry.toNat 1) ≤ ((m .fresh).time - 0).toNat
    ∧ millis (max (m .fresh).weir.tto.toNat 1) ≤ ((m .fresh).time - 0).toNat
    ∧ (choice (.awaiting 7 0)).phase = .awaiting 7 0 ∧ (choice (.granted 0)).phase = .granted 0
    ∧ (choice (.lost 0)).phase = .lost 0
    ∧ (let b := { batch' with stopped := true }
       batchAt (weir {} [b] [(0, choice (.granted 0))]) 0 = some b ∧ b.draining = true ∧ b.waiting = false) := by decide +kernel
theorem test_choice_lost :
    (match exec (.choiceLost 0) (st { weir {} [batch'] [(0, choice (.granted 0))] with time := 20000000 }) with
      | .next s => (s.m.weir.entries.map fun p => p.2.phase) == [.lost 20000000]
          && s.m.weir.batches == []
      | _ => false) = true := by decide +kernel
/-- The bytes of a row whose home memory is blocked must wait. -/
theorem witness_WeirMovesTokens_waits :
    let k := expert 0 .opened 0 [(0, taken)]
    let m : Module := setDram (dramKey (k.slotAt 0)) { trained := true, blocked := true } (weir k [] [])
    let x := asked 0x22 0 0 (listed 16 [])
    weirRuns m = true ∧ comesOne x m = true ∧ weirSound x = true ∧ (match takeTdata x m with
      | .ok _ => false
      | .error _ => true) = true := by decide +kernel
/-- A token whose choice has come, with a row that can be written, and with a page that cannot. -/
theorem witness_WeirMovesTokens_token :
    let b : Batch := { batch' with outcomes := [(0, 1)] }
    let bad : Batch := { b with pages := b.pages.map fun p => if p.1 = 0x40 then (0x40, 0x63FC000) else p }
    let m (b : Batch) : Module := weir {} [b] []
    (∀ x ∈ [b, bad], batchAt (m x) 0 = some x ∧ x.draining = false ∧ x.waiting = false ∧ tokenReady x 0 = true)
    ∧ gives (combineToken b 0) (m b) (fun row m₁ => decide (row.length = 16) && ends (writeToken b 0 row) m₁) = true
    ∧ gives (combineToken bad 0) (m bad) (fun row m₁ => match (writeToken bad 0 row).go m₁ with
        | (.error (.fault kind _ _), _) => decide (kind ≠ 8)
        | _ => false) = true := by decide +kernel
/-- 2.0 (3.0) + 0.5 (4.0) is 8.0. -/
theorem test_combine : combineElem [(0x40000000, 0x40400000), (0x3F000000, 0x40800000)] = 0x41000000 := by decide +kernel

/-! ## Clocks and resets -/

/-- The running module with loop 2 as `l` says. -/
def looped (l : Loop) : Module := setLoop 2 l up
def badFosc (m : Module) : Module := { m with clocks := { m.clocks with srcGood := 0xE } }
theorem witness_ClocksAndResetsAct_divider :
    let down (d : Nat) : Loop := { bootLoop 2 with lock := true, div := d, phase := .down 4 }
    let rise (d : Nat) : Loop := { bootLoop 2 with lock := true, div := d, phase := .up, target := (1, 0, 1) }
    alive (looped (down 1)) = true ∧ (loopAt (looped (down 1)) 2).phase = .down 4 ∧ (down 2).div + 1 < 4
    ∧ 4 ≤ (down 3).div + 1 ∧ sourceGood (looped (down 3)) 0 = true ∧ sourceGood (badFosc (looped (down 3))) 0 = false
    ∧ (loopAt (looped (rise 3)) 2).phase = .up ∧ (rise 3).target.2.2 + 1 < (rise 3).div ∧ (rise 2).div ≤ (rise 2).target.2.2 + 1 := by
  decide +kernel
theorem test_divider : (match exec (.dividerStep 2) (st (looped { bootLoop 2 with lock := true, div := 2, phase := .down 4 })) with
    | .next s => (loopAt s.m 2).div == 3
    | _ => false) = true := by decide +kernel
/-- Relocking to a fast and to a slow target. -/
theorem witness_ClocksAndResetsAct_relock :
    let l (mult : BitVec 24) : Loop := { bootLoop 2 with lock := true, div := 4, phase := .relock, target := (1, mult, 1) }
    let m := looped (l 0x040000)
    alive m = true ∧ (loopAt m 2).phase = .relock ∧ sourceGood m 0 = true ∧ sourceGood m (l 0).target.1.toNat = true
    ∧ 1 < slowDivider (productOf 1 0x040000) 1 ∧ ¬ 1 < slowDivider (productOf 1 0x010000) 1 := by decide +kernel
theorem witness_ClocksAndResetsAct_slow : 1 ≤ 1 ∧ 1 ≤ 8 ∧ 8 ≤ 64 ∧ khz 1000000 ≤ 8 * khz 125000 := by decide
/-- Source 3 runs no lane loop; source 1 is bad already. -/
theorem witness_ClocksAndResetsAct_source :
    sourceGood up 0 = true ∧ sourceGood { up with clocks := { up.clocks with srcGood := 0xD } } 1 = false
    ∧ (loopAt up 6).src.toNat ≠ 0 ∧ (loopAt up 7).src.toNat ≠ 0 := by decide +kernel
theorem test_source_fail : (match exec (.sourceFail 1) (st up) with
    | .next s => (loopAt s.m 0).coast && !(loopAt s.m 0).lock && s.m.clocks.srcFail == 2 && s.m.errors.tail != 0
    | _ => false) = true := by decide +kernel
/-- A unit with a clock bit, absent or present, busy or idle, in the words that hold it. -/
theorem witness_ClocksAndResetsAct_enable :
    let u := handleCore 0
    unitOf u = some (.core 0) ∧ u = 64 * (u / 64) + u % 64 ∧ u / 64 < 6 ∧ clockEnabled (.core 0) = true
    ∧ unitPresent up.board.part (.core 0) = true ∧ unitIdle up (.core 0) = true ∧ unitIdle (one th) (.core 0) = false
    ∧ clockEnabled .module = false ∧ unitOf 0 = some .module := by decide +kernel
theorem test_gate_busy : (match exec (.ckEnWrite (handleCore 0 / 64) 0) (st (one th)) with
    | .next s => s.m.clocks.gateRej && !s.m.clocks.gated.getLsbD (handleCore 0) && s.m.clocks.gated.getLsbD (handleCore 1)
    | _ => false) = true := by decide +kernel
theorem witness_ClocksAndResetsAct_touch :
    let m := { up with clocks := { up.clocks with gated := 1#384 <<< handleWeir } }
    handlePresent m.board.part handleWeir = true ∧ unitGated m handleWeir = true ∧ handleWeir < 384 := by decide +kernel
theorem witness_ClocksAndResetsAct_standby :
    let on (moving : Bool) : Module := { up with clocks := { up.clocks with standby := true, moving := moving } }
    alive up = true ∧ standbyAllowed up = true ∧ standbyAllowed (withPool [desc 0 []]) = false
    ∧ (withPool [desc 0 []]).clocks.standby = false ∧ standbyAllowed (on true) = false ∧ (on false).clocks.standby = true
    ∧ (on false).clocks.moving = false ∧ alive (on true) = true := by decide +kernel
/-- Reset inputs, with all rails and without; a warm reset 10 us after its record. -/
theorem witness_ClocksAndResetsAct_resets :
    let m : Module := { up with time := 10000, pendingReset := { warm := [(0, some 5, true)] } }
    m.board.input = true ∧ m.clocks.booting = none ∧ m.errors.stopped = false ∧ m.clocks.bootFail = false
    ∧ m.board.rails = railsUp ∧ (3 : BitVec 5) ≠ railsUp ∧ m.pendingReset.warm = [(0, some 5, true)]
    ∧ micros 10 ≤ (m.time - 0).toNat ∧ up.board.rails.getLsbD 1 = true ∧ inPerst up = false
    ∧ ({ up with board := { up.board with input := false } } : Module).board.input = false := by decide +kernel
theorem test_warm_reset : (match exec (.warmReset) (st { one th with time := 10000, mem := [(0x1000, 5)], pendingReset := { warm := [(0, some 5, true)] } }) with
    | .next s => s.m.clocks.booting == some (.warm, 5) && s.m.clocks.seed == 5 && s.m.threads == [] && memGet s.m.mem 0x1000 == 5
    | _ => false) = true := by decide +kernel
/-- Loops 3 and 4 kept through a reset, a fabric loop a recovered source restarts, and outputs CLKMON shows and does not. -/
theorem witness_ClocksAndResetsAct_kept :
    (∀ stopped, ({ bootLoop 3 with stopped := stopped } : Loop).stopped = stopped) ∧ (3 : Nat) < 4 ∧ (4 : Nat) ≤ 4
    ∧ (loopAt (setLoop 6 { bootLoop 6 with stopped := true } up) 6).stopped = true ∧ wayPresent up.board.part 0 = true
    ∧ inReset up = false ∧ (0x10002 % 64 = 2) ∧ sourceKhz 1 ≤ 250000 * (0x10002 / 2 ^ 16 + 1)
    ∧ sourceGood (badFosc up) (loopAt up 0).src.toNat = true
    ∧ sourceGood { up with clocks := { up.clocks with srcGood := 0 } } (loopAt up 0).src.toNat = false := by decide +kernel
theorem witness_ClocksAndResetsAct_steps : nextStep .warm false 5 = some 7 ∧ nextStep .warm true 5 = some 6
    ∧ nextStep .powerOn false 7 = some 8 ∧ nextStep .warm false 10 = none := by decide +kernel
theorem witness_ClocksAndResetsAct_boot :
    let m (n : Nat) : Module := { up with clocks := { up.clocks with booting := some (.powerOn, n) } }
    bootRuns (m 1) 1 = true ∧ stepFailure .powerOn 1 none false (m 1) = none ∧ bootRuns (m 10) 10 = true
    ∧ stepFailure .powerOn 10 none false (m 10) = none ∧ codeFits 4 3 = true ∧ bootRuns (m 4) 4 = true := by decide +kernel
theorem test_boot_fails : (match exec (.bootStepComplete (some (3, 0x12)) false)
      (st { up with clocks := { up.clocks with booting := some (.powerOn, 4) } }) with
    | .next s => s.m.clocks.bootFail && s.m.clocks.code == 3 && s.m.clocks.whereAt == 0x12 && !alive s.m
    | _ => false) = true := by decide +kernel

/-! ## Errors, inputs and registers -/

theorem witness_ErrorsInputsAndRegisters_classes :
    (1 ≤ (1 : BitVec 4).toNat ∧ (8 : BitVec 4).toNat ≤ 8 ∧ (8 : BitVec 4) ≠ 5) ∧ (9 ≤ (9 : BitVec 4).toNat ∧ (14 : BitVec 4).toNat ≤ 14)
    ∧ handleSlice 0 ≤ (BitVec.ofNat 15 (handleSlice 63)).toNat ∧ unitOf (BitVec.ofNat 15 (handleSlice 63)).toNat = some (.slice 63) := by
  decide +kernel
/-- A log with a record like the next, a full one, and one with its last place free. -/
theorem witness_ErrorsInputsAndRegisters_log :
    let r : ErrorRecord := { cls := 3, dcode := 0x20, unit := 0, addr := 0 }
    let e : Errors := { log := [(0, r)], tail := 1 }
    newestUnread e = some r ∧ newestUnread ({} : Errors) = none
    ∧ (let full : Errors := { log := [(63, { r with addr := 8 })], tail := 64 }
       newestUnread full = some { r with addr := 8 } ∧ 64 ≤ (full.tail - full.head).toNat)
    ∧ ((63 : BitVec 7) - 0).toNat < 64 := by decide +kernel
theorem test_log_merges :
    (match exec (.errorDetected 3 0x21 0 0x40 0) (st up) with
      | .next s => (match exec (.errorDetected 3 0x21 0 0x40 0) s with
          | .next s => s.m.errors.tail == 1 && (s.m.errors.log.map fun r => r.2.rep) == [1]
          | _ => false)
      | _ => false) = true := by decide +kernel
theorem test_fatal_written_again :
    (match exec (.errorDetected 0xF 0xF0 0 1 0) (st up) with
      | .next s => (match exec (.errorDetected 0xF 0xF1 0 2 0) s with
          | .next s => !alive s.m && (s.m.errors.fatal.map fun r => r.addr) == some 2
          | _ => false)
      | _ => false) = true := by decide +kernel
/-- HEAD up to TAIL, and one past it. -/
theorem test_head :
    let m : Module := { up with errors := { tail := 2 } }
    (match exec (.erPtrHeadWrite 2) (st m), exec (.erPtrHeadWrite 3) (st m) with
      | .next s, .next t => s.m.errors.head == 2 && !s.m.errors.badHead && t.m.errors.head == 0 && t.m.errors.badHead
      | _, _ => false) = true := by decide +kernel
theorem witness_ErrorsInputsAndRegisters_clear : up.errors.clearing = none
    ∧ ({ up with errors := { clearing := some 0 } } : Module).errors.clearing.isSome = true := by decide +kernel
theorem witness_ErrorsInputsAndRegisters_inputs :
    up.board.input = true ∧ up.board.excursion = false
    ∧ ({ up with board := { up.board with excursion := true } } : Module).board.excursion = true := by decide +kernel
/-- 95 C, just above it; 110 C, just above it. -/
theorem witness_ErrorsInputsAndRegisters_thermal :
    diePowered up 13 = true ∧ diePowered up 0 = true ∧ ¬ 95 * 256 < (0x5F00 : BitVec 16).toInt ∧ 95 * 256 < (0x5F01 : BitVec 16).toInt
    ∧ Sparse.get false up.board.hot 13 = false ∧ (0x6E00 : BitVec 16).toInt ≤ 110 * 256 ∧ 110 * 256 < (0x6E01 : BitVec 16).toInt := by
  decide +kernel
theorem test_too_hot : (match exec (.thermalReading 13 0x6E01) (st up), exec (.thermalReading 13 0x6E00) (st up) with
    | .next s, .next t => s.m.board.thermTrip && s.m.board.rails == 3 && !alive s.m && alive t.m && t.m.errors.tail == 1
    | _, _ => false) = true := by decide +kernel
theorem test_temperatures : (match exec .moduleTemperature (st { up with board := { up.board with temp := [(0, 0xFF00), (3, 0x2A80)] } }) with
    | .next s => s.m.board.smbus == some [2, 0x80, 0x2A]
    | _ => false) = true := by decide +kernel
/-- The check value of the CRC-8 of the bus, over the digits 1 to 9. -/
theorem test_packet_error : packetError [0x31, 0x32, 0x33, 0x34, 0x35, 0x36, 0x37, 0x38, 0x39] = 0xF4 := by decide +kernel
/-- A read with the packet error code, one of another address, and one before step 2 has ended. -/
theorem witness_ErrorsInputsAndRegisters_bus :
    ({ up.board with busPec := true } : Board).busPec = true ∧ up.board.busAddr.toNat = 0x58 + up.board.smbAddr.toNat
    ∧ 2 ≤ up.clocks.step ∧ ({ up.board with busAddr := 0x59 } : Board).busAddr.toNat ≠ 0x58 + up.board.smbAddr.toNat
    ∧ ¬ 2 ≤ ({ up.clocks with step := 1 } : Clocks).step := by decide +kernel
/-- A trip that meets a regulator fault, whose record stands; another FATAL error takes its place. -/
theorem witness_ErrorsInputsAndRegisters_trip :
    let m := raiseFatal 0xF2 handleClocks 0 0 { up with board := { up.board with rails := 3 } }
    diePowered m 0 = false ∧ meetsFault m 0 = true ∧ 0 < 14 ∧ m.errors.stopped = true
    ∧ (m.errors.fatal.map fun f => f.dcode) = some 0xF2 ∧ (0xF0 : BitVec 8) ≠ 0xF1 ∧ up.errors.stopped = false := by
  decide +kernel
theorem test_trip_after_fault : (match exec (.thermalReading 0 0x6E01)
      (st (raiseFatal 0xF2 handleClocks 0 0 { up with board := { up.board with rails := 3 } })) with
    | .next s => (s.m.errors.fatal.map fun f => f.dcode) == some 0xF2 && s.m.board.thermTrip
    | _ => false) = true := by decide +kernel

/-- BAR0 offsets of SQ_CTRL of ring 0, of 32 bits, and of BS_JOBPOST of stack 0, of 64. -/
def narrow : Nat := 0x100008
def wide_ : Nat := 0x1E00008
theorem witness_ErrorsInputsAndRegisters_places :
    0xFF000 ≤ narrow ∧ narrow < 0x8000000 ∧ 0xFF000 ≤ wide_ ∧ wide_ < 0x8000000 ∧ up.host.linkUp = true
    ∧ (shut narrow up).isNone = true ∧ (shut wide_ up).isNone = true ∧ (match meetsAt narrow 4, meetsAt wide_ 8, meetsAt wide_ 4, meetsAt (wide_ + 4) 4 with
        | .reg _ _ false, .reg _ 0 true, .reg _ 0 true, .reg _ 4 true => true
        | _, _, _, _ => false) = true
    ∧ (match meetsAt narrow 8, meetsAt narrow 2 with
        | .bad, .bad => true
        | _, _ => false) = true
    ∧ (shut 0x400000 { up with board := { up.board with part := .s } }).isSome = true := by decide +kernel
theorem witness_ErrorsInputsAndRegisters_halves :
    Sparse.find ([(wide_, 5)] : Sparse (BitVec 32)) (wide_ + 4 - 4) = some 5 ∧ Sparse.find up.host.lowHalf wide_ = none := by
  decide +kernel
/-- A thread below machine level, inside the aperture and outside it; one at machine level. -/
theorem witness_ErrorsInputsAndRegisters_threads :
    let user := one { th with priv := { level := 0 } }
    alive user = true ∧ (threadAt user 0).priv.level ≠ 2 ∧ apertureOpen wide_ = true ∧ apertureOpen narrow = false
    ∧ apertureOpen 0xFFFFF = true ∧ apertureOpen 0x4FFFFFF = true ∧ apertureOpen 0x5000000 = false
    ∧ (threadAt (one th) 0).priv.level = 2 := by decide +kernel
theorem test_register_reach :
    let user := one { th with priv := { level := 0 } }
    (match exec (.badWidthAccess (some 0) narrow 8) (st user), exec (.badWidthAccess (some 0) narrow 8) (st (one th)) with
    | .next s, .next t => s.m.errors.tail == 0 && t.m.errors.tail == 1
    | _, _ => false) = true := by decide +kernel
theorem test_bad_width : (match exec (.badWidthAccess none narrow 8) (st up) with
    | .next s => s.m.errors.tail == 1 && (s.m.errors.log.map fun r => (r.2.cls, r.2.dcode)) == [(6, 0x51)]
    | _ => false) = true := by decide +kernel

end Sys2Proof.Tests
end

section
/-! PROOF. Boot step 8 of a power-on reset: what a boot step that does not fail leaves (R422), and the counters that step 8
restores (R78). -/

namespace Sys2Proof.Machine

/-! ## Key slots at power-on -/

theorem KeySlot.powerOn_eq (k : KeySlot) : k.powerOn = if k.key = none then k else { k with last := k.ceil } := by
  cases h : k.key with
  | none => simp [KeySlot.powerOn, h]
  | some key => simp [KeySlot.powerOn, h]

@[simp] theorem slotAt_powerOn (a : Auth) (i : Nat) : slotAt a.powerOn i = (slotAt a i).powerOn := by
  unfold slotAt
  split <;> rfl

/-! ## A boot step that completes -/

@[simp] theorem bootOn_pending (k : ResetKind) (n : Nat) (bad : Bool) (s : State) : (bootOn k n bad s).pending = s.pending := rfl
@[simp] theorem bootOn_step (k : ResetKind) (n : Nat) (bad : Bool) (s : State) : (bootOn k n bad s).m.clocks.step = n := rfl
@[simp] theorem bootOn_auth (k : ResetKind) (n : Nat) (bad : Bool) (s : State) :
    (bootOn k n bad s).auth = if n = 8 then s.auth.powerOn else s.auth := rfl
theorem bootOn_booting (k : ResetKind) (n : Nat) (bad : Bool) (s : State) : (bootOn k n bad s).m.clocks.booting
    = (nextStep k (stepDone n bad s.m).pendingReset.clearMem n).map fun i => (k, i) := rfl

/-- Only steps 2, 3 and 5 have a failure that the module's state forces (R423). -/
theorem stepFailure_eq_none {n : Nat} (h2 : n ≠ 2) (h3 : n ≠ 3) (h5 : n ≠ 5) (k : ResetKind) (bad : Bool) (m : Module) :
    stepFailure k n none bad m = none := by
  simp [stepFailure, h2, h3, h5]

/-- Step 9 follows step 8 of a power-on boot, whether or not a clearing of memory was asked for (R422). -/
theorem nextStep_powerOn_eight (clear : Bool) : nextStep .powerOn clear 8 = some 9 := by
  cases clear <;> rfl

/-- A boot step that may go on and does not fail ends as `bootOn` has it (R422). -/
theorem exec_bootStepComplete_of_runs {s : State} {k : ResetKind} {n : Nat} {bad : Bool}
    (hboot : s.m.clocks.booting = some (k, n)) (hruns : bootRuns s.m n = true)
    (hfail : stepFailure k n none bad s.m = none) :
    exec (.bootStepComplete none bad) s = .next (bootOn k n bad s) := by
  have harm : exec (.bootStepComplete none bad) s = execBootStepComplete none bad s := rfl
  rw [harm, execBootStepComplete, hboot]
  simp [hruns, hfail]

/-- Settles O7: step 8 cannot fail, so it ends as `bootOn` has it, whose key slots are those of `Auth.powerOn`. -/
theorem powerOnRestoresCounters : Obligations.PowerOnRestoresCounters := by
  intro s hboot hruns
  have hfail : stepFailure .powerOn 8 none false s.m = none :=
    stepFailure_eq_none (by decide) (by decide) (by decide) _ _ _
  refine ⟨bootOn .powerOn 8 false s, exec_bootStepComplete_of_runs hboot hruns hfail, bootOn_step .., ?_, bootOn_pending .., ?_⟩
  · rw [bootOn_booting, nextStep_powerOn_eight, Option.map_some]
  · intro i _
    rw [bootOn_auth, if_pos rfl, slotAt_powerOn, KeySlot.powerOn_eq]

end Sys2Proof.Machine
end

section
/-! PROOF. Retirement and transfer (R110, R119): what the end check may change, what the thread holds afterwards, and that no
other thread and nothing outside the threads but counters changes. -/

namespace Sys2Proof.Machine

/-! ## Changes of one thread -/

theorem OnlyThread.trans {t : Nat} {a b c : Module} (h : OnlyThread t a b) (k : OnlyThread t b c) : OnlyThread t a c := by
  obtain ⟨hab, hother⟩ := h
  obtain ⟨hbc, kother⟩ := k
  refine ⟨?_, fun u hu => (kother u hu).trans (hother u hu)⟩
  unfold OnlyThreads at *
  rw [hbc, hab]

theorem setThread_onlyThread (t : Nat) (x : Thread) (m : Module) : OnlyThread t m (setThread t x m) :=
  ⟨rfl, fun _ hu => threadAt_setThread_other hu x m⟩

theorem CountsOnly.onlyThread {m m' : Module} (h : CountsOnly m m') (t : Nat) : OnlyThread t m m' := by
  refine ⟨?_, fun u _ => h.threadAt u⟩
  unfold OnlyThreads
  rw [h]

theorem retire_onlyThread (t n : Nat) (m : Module) : OnlyThread t m (retire t n m) :=
  (setThread_onlyThread t _ m).trans ((retire_only t n m).onlyThread t)

theorem transfer_onlyThread (t : Nat) (a : BitVec 48) (m : Module) : OnlyThread t m (transfer t a m) :=
  (setThread_onlyThread t _ m).trans ((transfer_only t a m).onlyThread t)

/-! ## The end check (R119) -/

/-- The end check counts loops down and ends them; it touches no other part of the thread. -/
theorem endCheck_frame (a : BitVec 48) (n : Nat) (th : Thread) :
    ∃ lc lstat, (endCheck a n th).1 = { th with lc := lc, lstat := lstat } := by
  induction n generalizing th with
  | zero => exact ⟨_, _, rfl⟩
  | succ n ih =>
    unfold endCheck
    dsimp only
    split
    · split
      · split
        · exact ⟨_, _, rfl⟩
        · obtain ⟨lc, lstat, h⟩ := ih { th with
            lc := Sparse.set th.lc n (Sparse.get 0 th.lc n - 1), lstat := putBit th.lstat n false }
          exact ⟨lc, lstat, h⟩
      · exact ⟨_, _, rfl⟩
    · exact ih th

theorem endCheck_noLoop (a : BitVec 48) (n : Nat) {th : Thread} (h : NoLoop th) : endCheck a n th = (th, none) := by
  have hbit : ∀ k, th.lstat.getLsbD k = false := by
    intro k
    rw [show th.lstat = 0 from h]
    exact BitVec.getLsbD_zero
  induction n with
  | zero => rfl
  | succ n ih => rw [endCheck, if_neg (by simp [hbit n]), ih]

/-! ## The thread after a retirement -/

theorem threadAt_retire_frame (t n : Nat) (m : Module) :
    ∃ pc lc lstat, threadAt (retire t n m) t = { threadAt m t with pc := pc, latch := none, lc := lc, lstat := lstat } := by
  obtain ⟨lc, lstat, h⟩ := endCheck_frame ((threadAt m t).pc + BitVec.ofNat 48 (4 * (n - 1))) 4 (threadAt m t)
  rw [(retire_only t n m).threadAt, threadAt_setThread_same, h]
  exact ⟨_, lc, lstat, rfl⟩

/-- With no loop active an instruction of one word goes on at the next word. -/
theorem threadAt_retire_noLoop {t : Nat} {m : Module} (h : NoLoop (threadAt m t)) :
    threadAt (retire t 1 m) t = { threadAt m t with pc := (threadAt m t).pc + 4, latch := none } := by
  rw [(retire_only t 1 m).threadAt, threadAt_setThread_same, endCheck_noLoop _ _ h]
  simp

theorem retire_keepsSpecial (t n : Nat) (m : Module) : KeepsSpecial (threadAt m t) (threadAt (retire t n m) t) := by
  obtain ⟨pc, lc, lstat, h⟩ := threadAt_retire_frame t n m
  rw [h]
  exact ⟨rfl, rfl, rfl, rfl, rfl, rfl, rfl, rfl, rfl, rfl⟩

@[simp] theorem threadAt_retire_g (t n : Nat) (m : Module) : (threadAt (retire t n m) t).g = (threadAt m t).g := by
  obtain ⟨pc, lc, lstat, h⟩ := threadAt_retire_frame t n m
  rw [h]

@[simp] theorem threadAt_retire_loads (t n : Nat) (m : Module) :
    (threadAt (retire t n m) t).loads = (threadAt m t).loads := by
  obtain ⟨pc, lc, lstat, h⟩ := threadAt_retire_frame t n m
  rw [h]

@[simp] theorem threadAt_retire_reg (t n : Nat) (m : Module) (r : Reg) :
    (threadAt (retire t n m) t).reg r = (threadAt m t).reg r := by
  rw [Thread.reg, threadAt_retire_g, ← Thread.reg]

/-! ## The thread after a transfer -/

@[simp] theorem threadAt_transfer (t : Nat) (a : BitVec 48) (m : Module) :
    threadAt (transfer t a m) t = { threadAt m t with pc := a, latch := none } := by
  rw [(transfer_only t a m).threadAt, threadAt_setThread_same]

theorem transfer_keepsSpecial (t : Nat) (a : BitVec 48) (m : Module) :
    KeepsSpecial (threadAt m t) (threadAt (transfer t a m) t) := by
  rw [threadAt_transfer]
  exact ⟨rfl, rfl, rfl, rfl, rfl, rfl, rfl, rfl, rfl, rfl⟩

/-! ## Illegal instructions (R101) -/

/-- An illegal instruction raises cause 1 with its word. -/
theorem illegal_raises (t : Nat) (i : Instr) (m : Module) :
    Raises t 0x01 (BitVec.ofNat 64 (firstWord i)) m (illegal t i m) := rfl

end Sys2Proof.Machine
end

section
/-! PROOF. Integer instructions (R103-R105): each is an `alu` step over one or two sources, so it retires with its result
written and raises nothing (R104). -/

namespace Sys2Proof.Machine

/-! ## Sources and results -/

theorem src_eq_sourceValue {th : Thread} {r : Reg} (h : (th.src r).isSome = true) : th.src r = some (sourceValue th r) := by
  obtain ⟨v, hv⟩ := Option.isSome_iff_exists.mp h
  rw [sourceValue, hv, Option.getD_some]

theorem src1_ready {th : Thread} {a : Reg} (h : SourcesReady th [a]) (f : Word → Word) :
    src1 a f th = some (f (sourceValue th a)) := by
  rw [src1, src_eq_sourceValue (h a (by simp)), Option.map_some]

theorem src2_ready {th : Thread} {a b : Reg} (h : SourcesReady th [a, b]) (f : Word → Word → Word) :
    src2 a b f th = some (f (sourceValue th a) (sourceValue th b)) := by
  rw [src2, src_eq_sourceValue (h a (by simp)), src_eq_sourceValue (h b (by simp))]

theorem putReg_keepsSpecial (th : Thread) (r : Reg) (v : Word) : KeepsSpecial th (th.putReg r v) := by
  unfold Thread.putReg
  split <;> exact ⟨rfl, rfl, rfl, rfl, rfl, rfl, rfl, rfl, rfl, rfl⟩

theorem result_keepsSpecial (th : Thread) (r : Reg) (v : Word) : KeepsSpecial th (th.result r v) :=
  putReg_keepsSpecial th r v

theorem KeepsSpecial.exc_eq {th th' : Thread} (h : KeepsSpecial th th') : th'.exc = th.exc := by
  obtain ⟨-, -, -, -, -, -, -, hexc, -, -⟩ := h
  exact hexc

theorem reg_result_same {r : Reg} (h : r ≠ 0) (th : Thread) (v : Word) : (th.result r v).reg r = v := by
  rw [Thread.reg, if_neg h, Thread.result, Thread.putReg, if_neg h]
  exact Sparse.get_set_same _ _ _ _

/-- A thread that may issue has raised nothing (R124). -/
theorem exc_eq_none_of_issuable {m : Module} {t : Nat} (h : issuable m t = true) : (threadAt m t).exc = none := by
  simp only [issuable, runsNext, Bool.and_eq_true] at h
  obtain ⟨⟨⟨⟨-, hexc⟩, -⟩, -⟩, -⟩ := h
  exact Option.isNone_iff_eq_none.mp hexc

/-! ## Every integer instruction is an `alu` step -/

/-- The 27 forms with two sources, then the 14 with one, in the order of `integerForm`. -/
theorem exec_integerForm {i : Instr} {x : IntegerForm} (h : integerForm i = some x) (s : State) :
    (∃ a b f, x.sources = [a, b] ∧ exec i s = alu x.thread x.rd (src2 a b f) s)
    ∨ ∃ a f, x.sources = [a] ∧ exec i s = alu x.thread x.rd (src1 a f) s := by
  unfold integerForm at h
  split at h
  iterate 27 next => cases h; exact .inl ⟨_, _, _, rfl, rfl⟩
  iterate 14 next => cases h; exact .inr ⟨_, _, rfl, rfl⟩
  next => cases h

/-- A ready integer instruction writes some value to its destination and retires. -/
theorem integerForm_becomes {i : Instr} {x : IntegerForm} {s : State} (h : integerForm i = some x)
    (hready : IntegerReady s.m x) : ∃ v, Becomes i s
      (retire x.thread 1 (setThread x.thread ((threadAt s.m x.thread).result x.rd v) s.m)) := by
  obtain ⟨hissue, hsources, hwrite⟩ := hready
  obtain ⟨a, b, f, hx, hexec⟩ | ⟨a, f, hx, hexec⟩ := exec_integerForm h s
  · rw [hx] at hsources
    exact ⟨_, hexec.trans (alu_ready hissue (src2_ready hsources f) hwrite)⟩
  · rw [hx] at hsources
    exact ⟨_, hexec.trans (alu_ready hissue (src1_ready hsources f) hwrite)⟩

/-- A written result reads back after the retirement. -/
theorem reg_retire_result {t : Nat} {rd : Reg} (h : rd ≠ 0) (v : Word) (m : Module) :
    (threadAt (retire t 1 (setThread t ((threadAt m t).result rd v) m)) t).reg rd = v := by
  rw [threadAt_retire_reg, threadAt_setThread_same, reg_result_same h]

/-- An instruction that writes its result and retires raises nothing (R104). -/
theorem exc_retire_result (t : Nat) (rd : Reg) (v : Word) (m : Module) :
    (threadAt (retire t 1 (setThread t ((threadAt m t).result rd v) m)) t).exc = (threadAt m t).exc := by
  rw [(retire_keepsSpecial t 1 _).exc_eq, threadAt_setThread_same, (result_keepsSpecial _ rd v).exc_eq]

/-- What an instruction of two sources leaves in its destination. -/
theorem alu_src2_gives {i : Instr} {t : Nat} {rd a b : Reg} {s : State} {value : (Reg → Word) → Word}
    {f : Word → Word → Word} (hready : IntegerReady s.m ⟨t, rd, [a, b], value⟩) (hrd : rd ≠ 0)
    (hexec : exec i s = alu t rd (src2 a b f) s) {r : Word}
    (hr : f (sourceValue (threadAt s.m t) a) (sourceValue (threadAt s.m t) b) = r) :
    ∃ m, Becomes i s m ∧ (threadAt m t).reg rd = r := by
  obtain ⟨hissue, hsources, hwrite⟩ := hready
  exact ⟨_, hexec.trans (alu_ready hissue (src2_ready hsources f) hwrite), hr ▸ reg_retire_result hrd _ s.m⟩

/-! ## The corners of the divisions, and wrapping (R104) -/

theorem divide_of_zero (u : Word) {v : Word} (h : v = 0) : divide u v = BitVec.allOnes 64 := if_pos h
theorem divideU_of_zero (u : Word) {v : Word} (h : v = 0) : divideU u v = BitVec.allOnes 64 := if_pos h
theorem remainder_of_zero (u : Word) {v : Word} (h : v = 0) : remainder u v = u := if_pos h
theorem remainderU_of_zero (u : Word) {v : Word} (h : v = 0) : remainderU u v = u := if_pos h

theorem eq_neg_one_of_toInt {v : Word} (h : v.toInt = -1) : v = -1#64 := BitVec.eq_of_toInt_eq h

theorem divide_intMin_neg_one {u v : Word} (hu : u.toInt = -2 ^ 63) (hv : v.toInt = -1) : divide u v = u := by
  have hmin : u = BitVec.intMin 64 := BitVec.eq_of_toInt_eq hu
  rw [eq_neg_one_of_toInt hv, hmin, divide, if_neg (by decide), BitVec.intMin_sdiv_neg_one]

theorem remainder_neg_one (u : Word) {v : Word} (hv : v.toInt = -1) : remainder u v = 0 := by
  have hsrem : u.srem v = 0 := by
    apply BitVec.eq_of_toInt_eq
    rw [BitVec.toInt_srem, hv, Int.tmod_neg, Int.tmod_one]
    rfl
  rw [remainder, hsrem, eq_neg_one_of_toInt hv, if_neg (by decide)]

theorem sub_eq_ofInt (u v : Word) : u - v = BitVec.ofInt 64 ((u.toNat : Int) - v.toNat) := by
  rw [Int.sub_eq_add_neg, BitVec.ofInt_add, BitVec.ofInt_neg]
  simp [BitVec.sub_eq_add_neg]

/-- Settles O27: every integer instruction is an `alu` step, which keeps what its thread has raised, and a thread that
may issue has raised nothing. -/
theorem integerArithmeticNeverTraps : Obligations.IntegerArithmeticNeverTraps := by
  refine ⟨?_, ?_⟩
  · intro i x s hform hready
    obtain ⟨v, hbecomes⟩ := integerForm_becomes hform hready
    obtain ⟨hissue, -, -⟩ := hready
    refine ⟨_, hbecomes, ?_⟩
    rw [exc_retire_result, exc_eq_none_of_issuable hissue]
  · intro t rd a b s hready hrd u v gives
    refine ⟨?_, ?_, ?_, ?_, ?_⟩
    · intro hv
      exact ⟨alu_src2_gives hready hrd rfl (divide_of_zero u hv), alu_src2_gives hready hrd rfl (divideU_of_zero u hv),
        alu_src2_gives hready hrd rfl (remainder_of_zero u hv), alu_src2_gives hready hrd rfl (remainderU_of_zero u hv)⟩
    · intro hu hv
      exact ⟨alu_src2_gives hready hrd rfl (divide_intMin_neg_one hu hv),
        alu_src2_gives hready hrd rfl (remainder_neg_one u hv)⟩
    · exact alu_src2_gives hready hrd rfl (BitVec.add_def u v)
    · exact alu_src2_gives hready hrd rfl (sub_eq_ofInt u v)
    · exact alu_src2_gives hready hrd rfl (BitVec.mul_def)

end Sys2Proof.Machine
end

section
/-! PROOF. BR and BRI (R109): a branch goes to its target, retires in order, or is illegal, as its condition says. -/

namespace Sys2Proof.Machine

/-! ## Conditions and targets -/

/-- The comparison that each condition code of R109 names, on the numbers that the two words hold. -/
def BranchCondition (code : Nat) (a b : Word) : Prop :=
  match code with
  | 0 => a = b
  | 1 => a ≠ b
  | 2 => a.toInt < b.toInt
  | 3 => b.toInt ≤ a.toInt
  | 4 => a.toNat < b.toNat
  | _ => b.toNat ≤ a.toNat

theorem condition_illegal {cond : BitVec 3} (h : 6 ≤ cond.toNat) (a b : Word) : condition cond a b = none := by
  unfold condition
  split
  iterate 6 next hc => omega
  next => rfl

/-- A legal code gives a truth value: that of the comparison it names. -/
theorem condition_legal {cond : BitVec 3} (h : cond.toNat < 6) (a b : Word) :
    ∃ c, condition cond a b = some c ∧ (c = true ↔ BranchCondition cond.toNat a b) := by
  unfold condition
  split
  case h_1 hc => rw [hc]; exact ⟨_, rfl, by simp [BranchCondition]⟩
  case h_2 hc => rw [hc]; exact ⟨_, rfl, by simp [BranchCondition]⟩
  case h_3 hc => rw [hc]; exact ⟨_, rfl, BitVec.slt_iff_toInt_lt⟩
  case h_4 hc => rw [hc]; exact ⟨_, rfl, by simp [BranchCondition, BitVec.slt_eq_decide]⟩
  case h_5 hc => rw [hc]; exact ⟨_, rfl, by simp [BranchCondition, BitVec.lt_def]⟩
  case h_6 hc => rw [hc]; exact ⟨_, rfl, by simp [BranchCondition, BitVec.le_def]⟩
  case h_7 => grind

/-- A PC-relative target is the PC plus four times the signed offset, modulo 2^48 (R109, R110). -/
theorem relative_eq {w : Nat} (pc : BitVec 48) (off : BitVec w) :
    relative pc off = BitVec.ofInt 48 (pc.toNat + 4 * off.toInt) := by
  have hfour : BitVec.twoPow 48 2 = BitVec.ofInt 48 4 := by decide
  rw [relative, BitVec.shiftLeft_eq_mul_twoPow, hfour, BitVec.signExtend, ← BitVec.ofInt_mul, BitVec.ofInt_add,
    BitVec.ofInt_natCast, BitVec.ofNat_toNat, BitVec.setWidth_eq, Int.mul_comm]

/-! ## A compare and branch whose values are ready -/

section
variable {t : Nat} {i : Instr} {cond : BitVec 3} {a b : Word} {off : BitVec 13} {m : Module}

theorem branchOn_illegal (h : condition cond a b = none) :
    branchOn t i cond (some a) (some b) off m = illegal t i m := by
  simp only [branchOn, h]

theorem branchOn_taken (h : condition cond a b = some true) :
    branchOn t i cond (some a) (some b) off m = transfer t (relative (threadAt m t).pc off) m := by
  simp only [branchOn, h]

theorem branchOn_falls (h : condition cond a b = some false) :
    branchOn t i cond (some a) (some b) off m = retire t 1 m := by
  simp only [branchOn, h]

end

/-- What a branch may change of its own thread, and of the rest: its PC, loops and latch, and the counters. -/
def BranchFrame (t : Nat) (m m' : Module) : Prop :=
  OnlyThread t m m' ∧ KeepsSpecial (threadAt m t) (threadAt m' t) ∧ (threadAt m' t).g = (threadAt m t).g
    ∧ (threadAt m' t).loads = (threadAt m t).loads

theorem transfer_branchFrame (t : Nat) (target : BitVec 48) (m : Module) : BranchFrame t m (transfer t target m) :=
  ⟨transfer_onlyThread t target m, transfer_keepsSpecial t target m, by simp, by simp⟩

theorem retire_branchFrame (t n : Nat) (m : Module) : BranchFrame t m (retire t n m) :=
  ⟨retire_onlyThread t n m, retire_keepsSpecial t n m, by simp, by simp⟩

/-- The three ends of a branch on two ready values, whichever of BR and BRI it is. -/
theorem branchOn_follows (t : Nat) (i : Instr) (cond : BitVec 3) (a b : Word) (off : BitVec 13) (m : Module) :
    let m' := branchOn t i cond (some a) (some b) off m
    (6 ≤ cond.toNat → Raises t 0x01 (BitVec.ofNat 64 (firstWord i)) m m')
    ∧ (cond.toNat < 6 → BranchFrame t m m'
        ∧ (BranchCondition cond.toNat a b →
            (threadAt m' t).pc = BitVec.ofInt 48 ((threadAt m t).pc.toNat + 4 * off.toInt))
        ∧ (¬ BranchCondition cond.toNat a b → NoLoop (threadAt m t) → (threadAt m' t).pc = (threadAt m t).pc + 4)) := by
  intro m'
  refine ⟨?_, ?_⟩
  · intro hcode
    have hm : m' = illegal t i m := branchOn_illegal (condition_illegal hcode a b)
    rw [hm]
    exact illegal_raises t i m
  · intro hcode
    obtain ⟨c, hc, hiff⟩ := condition_legal hcode a b
    cases c with
    | true =>
      have hm : m' = transfer t (relative (threadAt m t).pc off) m := branchOn_taken hc
      rw [hm]
      refine ⟨transfer_branchFrame .., fun _ => ?_, fun hnot => absurd (hiff.mp rfl) hnot⟩
      rw [threadAt_transfer, relative_eq]
    | false =>
      have hm : m' = retire t 1 m := branchOn_falls hc
      rw [hm]
      refine ⟨retire_branchFrame .., fun hholds => absurd (hiff.mpr hholds) (by decide), fun _ hloop => ?_⟩
      rw [threadAt_retire_noLoop hloop]

/-! ## BR and BRI -/

theorem exec_branch (t : Nat) (rs1 rs2 : Reg) (cond : BitVec 3) (off : BitVec 13) (s : State) :
    exec (.branch t rs1 rs2 cond off) s = execBranch t rs1 rs2 cond off s := rfl
theorem exec_branchI (t : Nat) (rs1 : Reg) (imm : BitVec 5) (cond : BitVec 3) (off : BitVec 13) (s : State) :
    exec (.branchI t rs1 imm cond off) s = execBranchI t rs1 imm cond off s := rfl

theorem branch_becomes {s : State} {t : Nat} {rs1 rs2 : Reg} (hissue : issuable s.m t = true)
    (hready : SourcesReady (threadAt s.m t) [rs1, rs2]) (cond : BitVec 3) (off : BitVec 13) :
    Becomes (.branch t rs1 rs2 cond off) s (branchOn t (.branch t rs1 rs2 cond off) cond
      (some (sourceValue (threadAt s.m t) rs1)) (some (sourceValue (threadAt s.m t) rs2)) off s.m) := by
  rw [Becomes, exec_branch, execBranch, issue_issuable hissue, src_eq_sourceValue (hready rs1 (by simp)),
    src_eq_sourceValue (hready rs2 (by simp))]

theorem branchI_becomes {s : State} {t : Nat} {rs1 : Reg} (hissue : issuable s.m t = true)
    (hready : SourcesReady (threadAt s.m t) [rs1]) (imm : BitVec 5) (cond : BitVec 3) (off : BitVec 13) :
    Becomes (.branchI t rs1 imm cond off) s (branchOn t (.branchI t rs1 imm cond off) cond
      (some (sourceValue (threadAt s.m t) rs1)) (some (imm.signExtend 64)) off s.m) := by
  rw [Becomes, exec_branchI, execBranchI, issue_issuable hissue, src_eq_sourceValue (hready rs1 (by simp))]

/-- Settles O29: BR and BRI are both `branchOn` on their two values, and `branchOn_follows` says how that ends. -/
theorem branchesFollowTheirCondition : Obligations.BranchesFollowTheirCondition := by
  intro s t rs1 rs2 imm cond off bri th i a b holds hissue hready
  have hbecomes : Becomes i s (branchOn t i cond (some a) (some b) off s.m) := by
    cases bri with
    | true => exact branchI_becomes hissue hready imm cond off
    | false => exact branch_becomes hissue hready cond off
  obtain ⟨hillegal, hlegal⟩ := branchOn_follows t i cond a b off s.m
  refine ⟨fun hcode => ⟨_, hbecomes, hillegal hcode⟩, fun hcode => ⟨_, hbecomes, ?_⟩⟩
  obtain ⟨⟨honly, hspecial, hg, hloads⟩, htaken, hfalls⟩ := hlegal hcode
  exact ⟨honly, hspecial, hg, hloads, htaken, hfalls⟩

end Sys2Proof.Machine
end

section
/-! PROOF. LOOP, LOOPI and LCLR (R118): setting up a loop, skipping its body, and ending it. -/

namespace Sys2Proof.Machine

/-! ## Addresses of a loop's body -/

/-- The address `len` words on from one, modulo 2^48. -/
theorem add_words_eq (a : BitVec 48) (len : BitVec 12) :
    a + (len.setWidth 48 <<< 2) = BitVec.ofNat 48 (a.toNat + 4 * len.toNat) := by
  have hlen := len.isLt
  apply BitVec.eq_of_toNat_eq
  simp only [BitVec.toNat_add, BitVec.toNat_shiftLeft, BitVec.toNat_setWidth, BitVec.toNat_ofNat, Nat.shiftLeft_eq]
  omega

theorem skipped_body_eq (pc : BitVec 48) (len : BitVec 12) :
    pc + 4#48 + (len.setWidth 48 <<< 2) = BitVec.ofNat 48 (pc.toNat + 4 + 4 * len.toNat) := by
  apply BitVec.eq_of_toNat_eq
  rw [add_words_eq, BitVec.toNat_add]
  simp only [BitVec.toNat_ofNat]
  omega

/-! ## The three ends of a loop set-up -/

/-- A thread with loop `n` set up over the `len` words behind its PC, `count` passes to go. -/
def Thread.withLoop (th : Thread) (n : BitVec 2) (count : BitVec 32) (len : BitVec 12) : Thread :=
  { th with
    ls := Sparse.set th.ls n.toNat (th.pc + 4)
    le := Sparse.set th.le n.toNat (BitVec.ofNat 48 (th.pc.toNat + 4 * len.toNat))
    lc := Sparse.set th.lc n.toNat count
    lstat := th.lstat ||| (1#4 <<< n.toNat) }

section
variable {t : Nat} {i : Instr} {n : BitVec 2} {count : BitVec 32} {len : BitVec 12} {m : Module}

theorem startLoop_illegal (hlen : len = 0) : startLoop t i n count len m = illegal t i m := if_pos hlen

theorem startLoop_skips (hlen : len ≠ 0) (hcount : count = 0) :
    startLoop t i n count len m = transfer t (BitVec.ofNat 48 ((threadAt m t).pc.toNat + 4 + 4 * len.toNat)) m := by
  rw [startLoop, if_neg hlen, if_pos hcount]
  exact congrArg (transfer t · m) (skipped_body_eq _ len)

theorem startLoop_sets (hlen : len ≠ 0) (hcount : count ≠ 0) :
    startLoop t i n count len m = retire t 1 (setThread t ((threadAt m t).withLoop n count len) m) := by
  rw [startLoop, if_neg hlen, if_neg hcount, add_words_eq]
  rfl

end

/-! ## LOOP, LOOPI and LCLR -/

theorem exec_loopR (t : Nat) (n : BitVec 2) (rs : Reg) (len : BitVec 12) (s : State) :
    exec (.loopR t n rs len) s = execLoopR t n rs len s := rfl
theorem exec_loopi (t : Nat) (n : BitVec 2) (count len : BitVec 12) (s : State) :
    exec (.loopi t n count len) s = execLoopi t n count len s := rfl
theorem exec_lclr (t : Nat) (n : BitVec 2) (s : State) : exec (.lclr t n) s = execLclr t n s := rfl

theorem loopR_becomes {s : State} {t : Nat} {rs : Reg} (hissue : issuable s.m t = true)
    (hready : ((threadAt s.m t).src rs).isSome = true) (n : BitVec 2) (len : BitVec 12) :
    Becomes (.loopR t n rs len) s
      (startLoop t (.loopR t n rs len) n ((sourceValue (threadAt s.m t) rs).setWidth 32) len s.m) := by
  rw [Becomes, exec_loopR, execLoopR, issue_issuable hissue, src_eq_sourceValue hready]

theorem loopi_becomes {s : State} {t : Nat} (hissue : issuable s.m t = true) (n : BitVec 2) (count len : BitVec 12) :
    Becomes (.loopi t n count len) s (startLoop t (.loopi t n count len) n (count.setWidth 32) len s.m) := by
  rw [Becomes, exec_loopi, execLoopi, issue_issuable hissue]

theorem lclr_becomes {s : State} {t : Nat} (hissue : issuable s.m t = true) (n : BitVec 2) :
    Becomes (.lclr t n) s (retire t 1 (setThread t { threadAt s.m t with
      lstat := (threadAt s.m t).lstat &&& ~~~(1#4 <<< n.toNat) } s.m)) := by
  rw [Becomes, exec_lclr, execLclr, issue_issuable hissue]
  rfl

/-- With no loop active after it, an instruction that leaves its thread as `x` goes on at the next word. -/
theorem retire_setThread_noLoop (t : Nat) {x : Thread} (h : NoLoop x) (m : Module) :
    OnlyThread t m (retire t 1 (setThread t x m))
    ∧ threadAt (retire t 1 (setThread t x m)) t = { x with pc := x.pc + 4, latch := none } := by
  refine ⟨(setThread_onlyThread t x m).trans (retire_onlyThread t 1 _), ?_⟩
  rw [threadAt_retire_noLoop (by rwa [threadAt_setThread_same]), threadAt_setThread_same]

/-- Settles O31: LOOP and LOOPI are both `startLoop` on their count, which is illegal, skips or sets up its loop as len
and the count say; LCLR retires with its bit cleared. -/
theorem loopInstructionsSetUpLoops : Obligations.LoopInstructionsSetUpLoops := by
  intro s t n rs count len imm hissue th i c after
  refine ⟨?_, lclr_becomes hissue n, fun x hx => retire_setThread_noLoop t hx s.m⟩
  intro hready
  have hbecomes : Becomes i s (startLoop t i n c len s.m) := by
    cases imm with
    | true => exact loopi_becomes hissue n count len
    | false => exact loopR_becomes hissue (hready.resolve_left (by decide)) n len
  refine ⟨?_, ?_, ?_⟩
  · intro hlen
    rw [startLoop_illegal hlen] at hbecomes
    exact ⟨_, hbecomes, illegal_raises t i s.m⟩
  · intro hlen hcount
    rw [startLoop_skips hlen hcount] at hbecomes
    exact ⟨_, hbecomes, transfer_onlyThread .., threadAt_transfer ..⟩
  · intro hlen hcount
    rw [startLoop_sets hlen hcount] at hbecomes
    exact hbecomes

end Sys2Proof.Machine
end
